-- ==== Sys2Proof/Word.lean ====
section
/-! DEFINITION. The bytes and 16-bit words that cross the two links, and the plainest whole-number
arithmetic of the manual (spec/00_scope.md, "Arithmetic and rounding"). -/

namespace Sys2Proof

/-- One byte of a frame on either link. -/
abbrev Byte := BitVec 8

/-- One 16-bit word of the stored image or of a frame field. -/
abbrev Half := BitVec 16

/-- The distance between two whole numbers ("differs by"). -/
def absDiff (a b : Nat) : Nat := (a - b) + (b - a)

/-- "ceil" of a quotient: the least whole number not below it. -/
def ceilDiv (a b : Nat) : Nat := (a + b - 1) / b

end Sys2Proof
end

