-- ==== Sys2Proof/Syntax.lean ====
section
/-! DEFINITION. The commands of the HT-316: one constructor for each row of spec/opcode_table.json, with the
operands that the row's rule gives the event or the request, and the names of the things they speak of. -/

namespace Sys2Proof

/-- The ten transducer nodes, nodes 1 to 10 of the node table (R1), in node order. Node 0, ATM, has no transducer
and is named by no command. -/
inductive Node where
  | rsv | bll | blr | lft | t1l | t1r | t2l | t2r | t3l | t3r
deriving DecidableEq, Repr

/-- The six tyre nodes, nodes 5 to 10 (R1). -/
inductive Tyre where
  | t1l | t1r | t2l | t2r | t3l | t3r
deriving DecidableEq, Repr

/-- The two sides of the deck: left belongs to BLL and right to BLR (R10). -/
inductive Side where
  | left | right
deriving DecidableEq, Repr

/-- The two galleries (R75). -/
inductive Gallery where
  | a | b
deriving DecidableEq, Repr

/-- The seven nodes that have a decay monitor (R132): LFT and the tyres. -/
inductive Watched where
  | lft | t1l | t1r | t2l | t2r | t3l | t3r
deriving DecidableEq, Repr

/-- The three masters (spec/00_scope.md, "Masters and roles"). -/
inductive Master where
  | cab | brake | panel
deriving DecidableEq, Repr

/-- One converted sample of a pressure or height input (R8, R10): whether the transducer signal lies within its
in-band window, and the converted value, which the converter may give outside its range on either side. -/
structure Sample where
  inBand : Bool := true
  value  : Int
deriving DecidableEq, Repr

/-- What every request carries beside the fields of its kind (R149, R173): who sent it (by the way its frame
arrived, R150), its tag, its flags byte, and whether its shape is the one check 3 of R149 wants: the total length that R173
gives for the kind and, on CAN, group index and group count 0 (R172). -/
structure Hdr where
  sender  : Master
  tag     : Byte := 0
  flags   : Byte := 0
  shapeOk : Bool := true
deriving DecidableEq, Repr

/-- The form and value of a HEIGHT_SET (R105, R173). `other` is an unknown form, or a form whose length does not
match it. -/
inductive HeightArg where
  | absolute (mm : Half)
  | step (delta : Byte)
  | other (form : Byte)
deriving DecidableEq, Repr

/-- A frame that completes on the CAN bus (R143, R144): a data frame or a remote frame, with a 29-bit (extended) or an
11-bit identifier. -/
structure CanFrame where
  extended : Bool := true
  remote   : Bool := false
  ident    : BitVec 29
  data     : List Byte
deriving DecidableEq, Repr

/-- The commands: one constructor for each row of spec/opcode_table.json, in the table's order. The first are events
(the reset line, arrivals, timer expiries, the ports); the requests begin at `unknownRequest`. -/
inductive Instr where
  | resetAssert
  | start
  | pressureArrival (n : Node) (x : Sample)
  | heightArrival (sd : Side) (x : Sample)
  | openTimerExpiry (g : Gallery)
  | stepTimeout (g : Gallery)
  | closeTimerExpiry (g : Gallery)
  | settleExpiry (g : Gallery)
  | tyrePersistenceExpiry (t : Tyre)
  | heightPersistenceExpiry
  | overSpeedExpiry
  | underSpeedExpiry
  | brakeSilenceExpiry
  | panelSilenceExpiry
  | panelAuthorityExpiry
  | stretchExpiry
  | freshnessExpiry (sd : Side)
  | liftTimerExpiry
  | snapshotExpiry (w : Watched)
  | windowExpiry (w : Watched)
  | supplyWindowExpiry
  | storeWriteEnd
  | statePeriod
  | nodesPeriod
  | loadPeriod
  | busIdle
  | busOff
  | canFrameReceived (f : CanFrame)
  | canFrameSent
  | canTransmitRetry
  | panelByteReceived (b : Byte) (framingError : Bool)
  | panelGapTimeout
  | panelSendStart
  | panelFrameSent
  | unknownRequest (h : Hdr) (kind : Byte)
  | modeSet (h : Hdr) (mode : Byte)
  | tyreSet (h : Hdr) (node form : Byte) (value : Half)
  | tyreSetClear (h : Hdr) (node : Byte) (value : Half)
  | profileWrite (h : Hdr) (node profile : Byte) (value : Half)
  | profileRead (h : Hdr) (node : Byte)
  | liftSet (h : Hdr) (setting : Byte)
  | sequence (h : Hdr) (pred succ : Byte)
  | faultClear (h : Hdr) (node : Byte)
  | configRead (h : Hdr) (number : Byte)
  | configWrite (h : Hdr) (number : Byte) (value : Half)
  | store (h : Hdr)
  | heightSet (h : Hdr) (arg : HeightArg)
  | heightAuthorityTake (h : Hdr) (value : Byte)
  | heightAuthorityRelease (h : Hdr)
  | rideReturn (h : Hdr)
  | vehicleData (h : Hdr) (speed braking : Byte) (gB : Half)
  | panelAlive (h : Hdr)
  | cancel (h : Hdr) (scope cls node : Byte)
  | stop (h : Hdr)
  | resume (h : Hdr)
  | statusRead (h : Hdr)
  | maskSet (h : Hdr) (mask : Half)
  | testEvent (h : Hdr)
deriving DecidableEq, Repr

end Sys2Proof
end

