-- ==== Sys2Proof/Decode.lean ====
section
/-! DEFINITION. The commands that table words spell. spec/opcode_table.json gives none of its rows an encoding, so there is no word
that spells a command. How a request's bytes on either link become a command is `Machine.requestOf` (Machine/Operands.lean). -/

namespace Sys2Proof

/-- The command that a word spells by the table's bits: none, for no row has any. -/
def decodeTableWord (_nbits _w : Nat) : Option Instr := none

end Sys2Proof
end

