-- ==== Sys2Proof/Config.lean ====
section
/-! DEFINITION. The free values of the model: constants with no body, about which nothing can be proved. A statement that
holds of the model holds whatever they are. -/

namespace Sys2Proof

/-- FREE VALUE (notes/assumptions/1.md). Whether the periodic report at the head of the CAN transmit queue, none of whose
frames has been sent or retried, has begun transmission (R148). The manual gives the CAN port no event for the beginning of
a transmission, so the model asks this constant, applied to a counter of State that advances at each question. -/
opaque Config.canHeadBegun : Nat → Bool

end Sys2Proof
end

