-- ==== Sys2Proof/Machine/Constants.lean ====
section
/-! DEFINITION. The fixed figures of the manual: limits, deadbands, tolerances, the lengths of the fixed timers in
milliseconds and the sizes of the queues. They have no parameter numbers (section 11.1). -/

namespace Sys2Proof.Machine

/-- MOVE_LIMIT, km/h: CREEP is 1 to 10 (R23). -/
def moveLimit : Nat := 10
/-- The largest speed VEHICLE_DATA can carry, km/h (R23, R173). -/
def speedMax : Nat := 250
/-- The largest pressure, kPa (R8). -/
def pressureMax : Nat := 1200
/-- The largest height, mm (R10). -/
def travelMax : Nat := 400
/-- The invalid run at which a sensor counts as failed, and at which the run is held (R8, R10). -/
def runMax : Nat := 10
/-- The size of a height ring (R11). -/
def ringSize : Nat := 8
/-- The lowest and the highest tyre holding value, override or target, kPa (section 2.3). -/
def tyreMin : Nat := 300
def tyreMax : Nat := 820
/-- The tyre loop's deadband, kPa (R36). -/
def tyreDeadband : Nat := 20
/-- The tyre tolerance, kPa (R20, R89). -/
def tyreTolerance : Nat := 10
/-- The change of target at which a load-follow result replaces the target, and at which another replacement asks at
once, kPa (R31). -/
def retargetStep : Nat := 15
/-- The drive margin of a fill, kPa (R43, R44). -/
def driveMargin : Nat := 30
/-- The minimum step of a pressure fill, kPa (R43). -/
def minStepKpa : Nat := 10
/-- The minimum step of a height fill, mm (R44). -/
def minStepMm : Nat := 3
/-- The height tolerance, mm (R89, R101). -/
def heightTolerance : Nat := 3
/-- HMIN and HMAX, mm (R100). -/
def hMin : Nat := 80
def hMax : Nat := 360
/-- ROLL_LIMIT, mm (R101). -/
def rollLimit : Nat := 12
/-- The cross pressure margin, kPa (R101). -/
def crossMargin : Nat := 20
/-- The balance limits of a cross step: mm of height difference, and the kPa below which the bellows are even (R86). -/
def balanceMm : Nat := 3
def balanceKpa : Nat := 5
/-- The goal of a raised lift bag, kPa, and the tolerances of its two goals (R89). -/
def liftGoal : Nat := 450
def liftHeld : Nat := 430
def liftEmpty : Nat := 20
/-- What a step must move the reading by to count as progress: kPa and mm (R90). -/
def progressKpa : Nat := 5
def progressMm : Nat := 2
/-- The no-progress count that faults the nodes (R89). -/
def noProgressMax : Nat := 3
/-- The reservoir pressure from which the supply monitor stands aside, and the rise it wants, kPa (R51). -/
def supplyCeiling : Nat := 800
def supplyRise : Nat := 10
/-- The width of the brake-priority hysteresis, kPa (R49). -/
def brakeHysteresis : Nat := 30
/-- The falls that show a fast and a slow leak, kPa (R134, R135). -/
def fastLeak : Nat := 40
def slowLeak : Nat := 20
/-- The size of a snapshot ring (R132). -/
def snapshotRing : Nat := 4
/-- The deadband of the height loop in LOADING and otherwise, mm (R111). -/
def deadbandLoading : Nat := 4
def deadbandDriving : Nat := 8
/-- The least gap between LOWER_ABOVE and LIFT_BELOW, kg (R126). -/
def liftGap : Nat := 500
/-- The number of consecutive valid arrivals that ends a sensor lockout (R115). -/
def recoveryCount : Nat := 8
/-- The largest value of a starvation counter (R60). -/
def starveMax : Nat := 255
/-- The number of idle sightings after a bus-off (R143). -/
def busOffIdles : Nat := 128

/-- Valve travel, open and close (R3, R83, R88), ms. -/
def openTime : Nat := 40
def closeTime : Nat := 40
/-- Tyre persistence (R36), ms. -/
def tyrePersistence : Nat := 5000
/-- Height persistence in LOADING, at rest or creep, and on the move (R111), ms. -/
def persistLoading : Nat := 1000
def persistStill : Nat := 3000
def persistMoving : Nat := 30000
/-- The guard timers (R34), ms. -/
def overSpeedTime : Nat := 10000
def underSpeedTime : Nat := 60000
/-- The link silence timers (R154, R155), ms. -/
def brakeSilenceTime : Nat := 500
def panelSilenceTime : Nat := 2000
/-- The panel authority timer (R108), ms. -/
def authorityTime : Nat := 120000
/-- The freshness timer (R119), ms. -/
def freshnessTime : Nat := 500
/-- The lift timer (R125), ms. -/
def liftTime : Nat := 10000
/-- The snapshot and window timers of a decay monitor (R132), ms. -/
def snapshotTime : Nat := 10000
def windowTime : Nat := 600000
/-- The supply window (R51), ms. -/
def supplyTime : Nat := 60000
/-- The store write (R168), ms. -/
def storeTime : Nat := 60
/-- The report periods (R163), ms. -/
def stateTime : Nat := 500
def nodesTime : Nat := 1000
def loadTime : Nat := 100

/-- The receive FIFO and the two transmit queues, in frames (R144, R148). -/
def fifoSize : Nat := 8
def canQueueSize : Nat := 24
def panelQueueSize : Nat := 8
/-- The start byte of a panel frame and the longest payload (R146). -/
def startByte : Byte := 167
def payloadMax : Nat := 40

end Sys2Proof.Machine
end

