-- ==== Sys2Proof/Machine/Tables.lean ====
section
/-! DEFINITION. Tables with one entry for each member of a fixed set (nodes, tyres, sides, galleries, masters, classes,
event kinds), as plain records, so that equal tables are equal data; the sets that Syntax.lean does not name; and the
numbering of nodes (R1). -/

namespace Sys2Proof.Machine

/-- The managed nodes, nodes 2 to 10 (R1): each has a valve to gallery A and one to gallery B. -/
inductive Managed where
  | bll | blr | lft | t1l | t1r | t2l | t2r | t3l | t3r
deriving DecidableEq, Repr

/-- The three classes of transfer (R56, the descriptor table). -/
inductive Cls where
  | height | lift | tyre
deriving DecidableEq, Repr

/-- The event kinds of section 10.1, in the order that gives their codes 0 to 14 (R174). -/
inductive EventKind where
  | reserveReached | brakePriority | supplyLost | brakeLinkLost | sensorInvalid | leakSlow | leakFast | nodeFault
  | stalled | speedForced | modeForced | authorityLost | starved | storeLost | test
deriving DecidableEq, Repr

/-- One entry for each of nodes 1 to 10. -/
structure PerNode (α : Type) where
  rsv : α
  bll : α
  blr : α
  lft : α
  t1l : α
  t1r : α
  t2l : α
  t2r : α
  t3l : α
  t3r : α
deriving DecidableEq, Repr

/-- The entry of one node. -/
def PerNode.get {α : Type} (p : PerNode α) : Node → α
  | .rsv => p.rsv
  | .bll => p.bll
  | .blr => p.blr
  | .lft => p.lft
  | .t1l => p.t1l
  | .t1r => p.t1r
  | .t2l => p.t2l
  | .t2r => p.t2r
  | .t3l => p.t3l
  | .t3r => p.t3r

/-- The table with the entry of one node replaced. -/
def PerNode.set {α : Type} (p : PerNode α) (i : Node) (x : α) : PerNode α :=
  match i with
  | .rsv => { p with rsv := x }
  | .bll => { p with bll := x }
  | .blr => { p with blr := x }
  | .lft => { p with lft := x }
  | .t1l => { p with t1l := x }
  | .t1r => { p with t1r := x }
  | .t2l => { p with t2l := x }
  | .t2r => { p with t2r := x }
  | .t3l => { p with t3l := x }
  | .t3r => { p with t3r := x }

/-- The table that holds one value everywhere. -/
def PerNode.fill {α : Type} (x : α) : PerNode α :=
  ⟨x, x, x, x, x, x, x, x, x, x⟩

/-- One entry changed by a function of its old value. -/
def PerNode.modify {α : Type} (p : PerNode α) (i : Node) (f : α → α) : PerNode α :=
  p.set i (f (p.get i))

/-- One entry for each managed node, nodes 2 to 10. -/
structure PerManaged (α : Type) where
  bll : α
  blr : α
  lft : α
  t1l : α
  t1r : α
  t2l : α
  t2r : α
  t3l : α
  t3r : α
deriving DecidableEq, Repr

/-- The entry of one managed node. -/
def PerManaged.get {α : Type} (p : PerManaged α) : Managed → α
  | .bll => p.bll
  | .blr => p.blr
  | .lft => p.lft
  | .t1l => p.t1l
  | .t1r => p.t1r
  | .t2l => p.t2l
  | .t2r => p.t2r
  | .t3l => p.t3l
  | .t3r => p.t3r

/-- The table with the entry of one managed node replaced. -/
def PerManaged.set {α : Type} (p : PerManaged α) (i : Managed) (x : α) : PerManaged α :=
  match i with
  | .bll => { p with bll := x }
  | .blr => { p with blr := x }
  | .lft => { p with lft := x }
  | .t1l => { p with t1l := x }
  | .t1r => { p with t1r := x }
  | .t2l => { p with t2l := x }
  | .t2r => { p with t2r := x }
  | .t3l => { p with t3l := x }
  | .t3r => { p with t3r := x }

/-- The table that holds one value everywhere. -/
def PerManaged.fill {α : Type} (x : α) : PerManaged α :=
  ⟨x, x, x, x, x, x, x, x, x⟩

/-- One entry changed by a function of its old value. -/
def PerManaged.modify {α : Type} (p : PerManaged α) (i : Managed) (f : α → α) : PerManaged α :=
  p.set i (f (p.get i))

/-- One entry for each tyre. -/
structure PerTyre (α : Type) where
  t1l : α
  t1r : α
  t2l : α
  t2r : α
  t3l : α
  t3r : α
deriving DecidableEq, Repr

/-- The entry of one tyre. -/
def PerTyre.get {α : Type} (p : PerTyre α) : Tyre → α
  | .t1l => p.t1l
  | .t1r => p.t1r
  | .t2l => p.t2l
  | .t2r => p.t2r
  | .t3l => p.t3l
  | .t3r => p.t3r

/-- The table with the entry of one tyre replaced. -/
def PerTyre.set {α : Type} (p : PerTyre α) (i : Tyre) (x : α) : PerTyre α :=
  match i with
  | .t1l => { p with t1l := x }
  | .t1r => { p with t1r := x }
  | .t2l => { p with t2l := x }
  | .t2r => { p with t2r := x }
  | .t3l => { p with t3l := x }
  | .t3r => { p with t3r := x }

/-- The table that holds one value everywhere. -/
def PerTyre.fill {α : Type} (x : α) : PerTyre α :=
  ⟨x, x, x, x, x, x⟩

/-- One entry changed by a function of its old value. -/
def PerTyre.modify {α : Type} (p : PerTyre α) (i : Tyre) (f : α → α) : PerTyre α :=
  p.set i (f (p.get i))

/-- One entry for each node with a decay monitor (R132). -/
structure PerWatched (α : Type) where
  lft : α
  t1l : α
  t1r : α
  t2l : α
  t2r : α
  t3l : α
  t3r : α
deriving DecidableEq, Repr

/-- The entry of one watched node. -/
def PerWatched.get {α : Type} (p : PerWatched α) : Watched → α
  | .lft => p.lft
  | .t1l => p.t1l
  | .t1r => p.t1r
  | .t2l => p.t2l
  | .t2r => p.t2r
  | .t3l => p.t3l
  | .t3r => p.t3r

/-- The table with the entry of one watched node replaced. -/
def PerWatched.set {α : Type} (p : PerWatched α) (i : Watched) (x : α) : PerWatched α :=
  match i with
  | .lft => { p with lft := x }
  | .t1l => { p with t1l := x }
  | .t1r => { p with t1r := x }
  | .t2l => { p with t2l := x }
  | .t2r => { p with t2r := x }
  | .t3l => { p with t3l := x }
  | .t3r => { p with t3r := x }

/-- The table that holds one value everywhere. -/
def PerWatched.fill {α : Type} (x : α) : PerWatched α :=
  ⟨x, x, x, x, x, x, x⟩

/-- One entry changed by a function of its old value. -/
def PerWatched.modify {α : Type} (p : PerWatched α) (i : Watched) (f : α → α) : PerWatched α :=
  p.set i (f (p.get i))

/-- One entry for each side. -/
structure PerSide (α : Type) where
  left : α
  right : α
deriving DecidableEq, Repr

/-- The entry of one side. -/
def PerSide.get {α : Type} (p : PerSide α) : Side → α
  | .left => p.left
  | .right => p.right

/-- The table with the entry of one side replaced. -/
def PerSide.set {α : Type} (p : PerSide α) (i : Side) (x : α) : PerSide α :=
  match i with
  | .left => { p with left := x }
  | .right => { p with right := x }

/-- The table that holds one value everywhere. -/
def PerSide.fill {α : Type} (x : α) : PerSide α :=
  ⟨x, x⟩

/-- One entry changed by a function of its old value. -/
def PerSide.modify {α : Type} (p : PerSide α) (i : Side) (f : α → α) : PerSide α :=
  p.set i (f (p.get i))

/-- One entry for each gallery. -/
structure PerGallery (α : Type) where
  a : α
  b : α
deriving DecidableEq, Repr

/-- The entry of one gallery. -/
def PerGallery.get {α : Type} (p : PerGallery α) : Gallery → α
  | .a => p.a
  | .b => p.b

/-- The table with the entry of one gallery replaced. -/
def PerGallery.set {α : Type} (p : PerGallery α) (i : Gallery) (x : α) : PerGallery α :=
  match i with
  | .a => { p with a := x }
  | .b => { p with b := x }

/-- The table that holds one value everywhere. -/
def PerGallery.fill {α : Type} (x : α) : PerGallery α :=
  ⟨x, x⟩

/-- One entry changed by a function of its old value. -/
def PerGallery.modify {α : Type} (p : PerGallery α) (i : Gallery) (f : α → α) : PerGallery α :=
  p.set i (f (p.get i))

/-- One entry for each master. -/
structure PerMaster (α : Type) where
  cab : α
  brake : α
  panel : α
deriving DecidableEq, Repr

/-- The entry of one master. -/
def PerMaster.get {α : Type} (p : PerMaster α) : Master → α
  | .cab => p.cab
  | .brake => p.brake
  | .panel => p.panel

/-- The table with the entry of one master replaced. -/
def PerMaster.set {α : Type} (p : PerMaster α) (i : Master) (x : α) : PerMaster α :=
  match i with
  | .cab => { p with cab := x }
  | .brake => { p with brake := x }
  | .panel => { p with panel := x }

/-- The table that holds one value everywhere. -/
def PerMaster.fill {α : Type} (x : α) : PerMaster α :=
  ⟨x, x, x⟩

/-- One entry changed by a function of its old value. -/
def PerMaster.modify {α : Type} (p : PerMaster α) (i : Master) (f : α → α) : PerMaster α :=
  p.set i (f (p.get i))

/-- One entry for each class of transfer. -/
structure PerClass (α : Type) where
  height : α
  lift : α
  tyre : α
deriving DecidableEq, Repr

/-- The entry of one class. -/
def PerClass.get {α : Type} (p : PerClass α) : Cls → α
  | .height => p.height
  | .lift => p.lift
  | .tyre => p.tyre

/-- The table with the entry of one class replaced. -/
def PerClass.set {α : Type} (p : PerClass α) (i : Cls) (x : α) : PerClass α :=
  match i with
  | .height => { p with height := x }
  | .lift => { p with lift := x }
  | .tyre => { p with tyre := x }

/-- The table that holds one value everywhere. -/
def PerClass.fill {α : Type} (x : α) : PerClass α :=
  ⟨x, x, x⟩

/-- One entry changed by a function of its old value. -/
def PerClass.modify {α : Type} (p : PerClass α) (i : Cls) (f : α → α) : PerClass α :=
  p.set i (f (p.get i))

/-- One entry for each event kind. -/
structure PerKind (α : Type) where
  reserveReached : α
  brakePriority : α
  supplyLost : α
  brakeLinkLost : α
  sensorInvalid : α
  leakSlow : α
  leakFast : α
  nodeFault : α
  stalled : α
  speedForced : α
  modeForced : α
  authorityLost : α
  starved : α
  storeLost : α
  test : α
deriving DecidableEq, Repr

/-- The entry of one event kind. -/
def PerKind.get {α : Type} (p : PerKind α) : EventKind → α
  | .reserveReached => p.reserveReached
  | .brakePriority => p.brakePriority
  | .supplyLost => p.supplyLost
  | .brakeLinkLost => p.brakeLinkLost
  | .sensorInvalid => p.sensorInvalid
  | .leakSlow => p.leakSlow
  | .leakFast => p.leakFast
  | .nodeFault => p.nodeFault
  | .stalled => p.stalled
  | .speedForced => p.speedForced
  | .modeForced => p.modeForced
  | .authorityLost => p.authorityLost
  | .starved => p.starved
  | .storeLost => p.storeLost
  | .test => p.test

/-- The table with the entry of one event kind replaced. -/
def PerKind.set {α : Type} (p : PerKind α) (i : EventKind) (x : α) : PerKind α :=
  match i with
  | .reserveReached => { p with reserveReached := x }
  | .brakePriority => { p with brakePriority := x }
  | .supplyLost => { p with supplyLost := x }
  | .brakeLinkLost => { p with brakeLinkLost := x }
  | .sensorInvalid => { p with sensorInvalid := x }
  | .leakSlow => { p with leakSlow := x }
  | .leakFast => { p with leakFast := x }
  | .nodeFault => { p with nodeFault := x }
  | .stalled => { p with stalled := x }
  | .speedForced => { p with speedForced := x }
  | .modeForced => { p with modeForced := x }
  | .authorityLost => { p with authorityLost := x }
  | .starved => { p with starved := x }
  | .storeLost => { p with storeLost := x }
  | .test => { p with test := x }

/-- The table that holds one value everywhere. -/
def PerKind.fill {α : Type} (x : α) : PerKind α :=
  ⟨x, x, x, x, x, x, x, x, x, x, x, x, x, x, x⟩

/-- One entry changed by a function of its old value. -/
def PerKind.modify {α : Type} (p : PerKind α) (i : EventKind) (f : α → α) : PerKind α :=
  p.set i (f (p.get i))

/-- A set of nodes 1 to 10, with no order and no duplicates (R157). -/
abbrev NodeSet := PerNode Bool

end Sys2Proof.Machine

namespace Sys2Proof
open Machine

/-- The nodes in node order. -/
def Node.list : List Node := [.rsv, .bll, .blr, .lft, .t1l, .t1r, .t2l, .t2r, .t3l, .t3r]

/-- The tyres in node order (R70). -/
def Tyre.list : List Tyre := [.t1l, .t1r, .t2l, .t2r, .t3l, .t3r]

/-- The node number of a node, 1 to 10 (R1). -/
def Node.number : Node → Nat
  | .rsv => 1 | .bll => 2 | .blr => 3 | .lft => 4 | .t1l => 5 | .t1r => 6 | .t2l => 7 | .t2r => 8 | .t3l => 9 | .t3r => 10

/-- The node of a number 1 to 10; a request that names another number has a bad field encoding (R1). -/
def Node.ofNumber : Nat → Option Node
  | 1 => some .rsv | 2 => some .bll | 3 => some .blr | 4 => some .lft | 5 => some .t1l | 6 => some .t1r
  | 7 => some .t2l | 8 => some .t2r | 9 => some .t3l | 10 => some .t3r | _ => none

/-- The tyre that a node number 5 to 10 names. -/
def Tyre.ofNumber : Nat → Option Tyre
  | 5 => some .t1l | 6 => some .t1r | 7 => some .t2l | 8 => some .t2r | 9 => some .t3l | 10 => some .t3r | _ => none

/-- The managed node of a number 2 to 10. -/
def Machine.Managed.ofNumber : Nat → Option Managed
  | 2 => some .bll | 3 => some .blr | 4 => some .lft | 5 => some .t1l | 6 => some .t1r
  | 7 => some .t2l | 8 => some .t2r | 9 => some .t3l | 10 => some .t3r | _ => none

/-- A managed node as a node. -/
def Machine.Managed.node : Managed → Node
  | .bll => .bll | .blr => .blr | .lft => .lft | .t1l => .t1l | .t1r => .t1r
  | .t2l => .t2l | .t2r => .t2r | .t3l => .t3l | .t3r => .t3r

/-- The managed node that a node is; RSV is none (R1). -/
def Node.managed : Node → Option Managed
  | .rsv => none
  | .bll => some .bll | .blr => some .blr | .lft => some .lft | .t1l => some .t1l | .t1r => some .t1r
  | .t2l => some .t2l | .t2r => some .t2r | .t3l => some .t3l | .t3r => some .t3r

/-- The tyre that a node is, if it is one. -/
def Node.tyre : Node → Option Tyre
  | .t1l => some .t1l | .t1r => some .t1r | .t2l => some .t2l | .t2r => some .t2r | .t3l => some .t3l
  | .t3r => some .t3r | _ => none

/-- The decay monitor of a node, if it has one (R132). -/
def Node.watched : Node → Option Watched
  | .lft => some .lft
  | .t1l => some .t1l | .t1r => some .t1r | .t2l => some .t2l | .t2r => some .t2r | .t3l => some .t3l
  | .t3r => some .t3r | _ => none

/-- A tyre as a managed node. -/
def Tyre.managed : Tyre → Managed
  | .t1l => .t1l | .t1r => .t1r | .t2l => .t2l | .t2r => .t2r | .t3l => .t3l | .t3r => .t3r

/-- A tyre as a node. -/
def Tyre.node (t : Tyre) : Node := t.managed.node

/-- A watched node as a node. -/
def Watched.node : Watched → Node
  | .lft => .lft | .t1l => .t1l | .t1r => .t1r | .t2l => .t2l | .t2r => .t2r | .t3l => .t3l | .t3r => .t3r

/-- A watched node as a managed node. -/
def Watched.managed : Watched → Managed
  | .lft => .lft | .t1l => .t1l | .t1r => .t1r | .t2l => .t2l | .t2r => .t2r | .t3l => .t3l | .t3r => .t3r

/-- The bellows of a side (section 1.1: BLL joins the left bellows and BLR the right). -/
def Side.bellows : Side → Managed
  | .left => .bll | .right => .blr

/-- The side whose bellows a managed node is. -/
def Machine.Managed.side : Managed → Option Side
  | .bll => some .left | .blr => some .right | _ => none

/-- The other side of the deck. -/
def Side.other : Side → Side
  | .left => .right | .right => .left

/-- The side a tyre stands on: left for T1L, T2L, T3L, right for the others (R30). -/
def Tyre.side : Tyre → Side
  | .t1l => .left | .t2l => .left | .t3l => .left | .t1r => .right | .t2r => .right | .t3r => .right

/-- T1L and T1R belong to axle 1, the lift axle (section 1.1). -/
def Tyre.onLiftAxle : Tyre → Bool
  | .t1l => true | .t1r => true | _ => false

end Sys2Proof

namespace Sys2Proof.Machine

/-- The set of the nodes of a list. -/
def nodeSet (ns : List Node) : NodeSet := ns.foldl (fun p n => p.set n true) (PerNode.fill false)

/-- The members of a node set, in node order. -/
def NodeSet.members (p : NodeSet) : List Node := Node.list.filter p.get

end Sys2Proof.Machine
end

