-- ==== Sys2Proof/Machine/Settings.lean ====
section
/-! DEFINITION. The working set: its parameters under their names and numbers, their ranges and relations
(section 11.1), the defaults, and the 64-word stored image (R167, R169). -/

namespace Sys2Proof.Machine

/-- The settings that every block reads (section 11.1): the numbered parameters, the scheduler table (R76) and the
twelve holding values (section 2.3). -/
structure Settings where
  /-- V_R and the node volumes, dL (R2): parameters 1 to 10. -/
  volume : PerNode Nat
  /-- LF, kg per 64 kPa (section 7.1). -/
  lf : Nat
  /-- HC, AU per mm per side (section 3.4). -/
  hc : Nat
  /-- RATED, kg (R30). -/
  rated : Nat
  /-- FLOOR, kPa (section 3.1). -/
  floor : Nat
  /-- BRAKE_MIN, kPa (section 3.7). -/
  brakeMin : Nat
  /-- GUARD_SPEED, km/h (R34). -/
  guardSpeed : Nat
  /-- GUARD_FLOOR, kPa (R29). -/
  guardFloor : Nat
  /-- RIDE, mm (R100). -/
  ride : Nat
  /-- FIELD_OFFSET, mm (R100). -/
  fieldOffset : Nat
  /-- LIFT_BELOW and LOWER_ABOVE, kg (R126). -/
  liftBelow : Nat
  lowerAbove : Nat
  /-- LOAD_FOLLOW (R29). -/
  loadFollow : Bool
  /-- The class settle intervals, ms (R88). -/
  settle : PerClass Nat
  /-- The class step timeouts, s (R83). -/
  timeout : PerClass Nat
  /-- The class maxima for steps left (R74). -/
  maxSteps : PerClass Nat
  /-- BEACON_STRETCH, s (R117). -/
  beaconStretch : Nat
  /-- The address table (R145). -/
  ownAddr : Nat
  cabAddr : Nat
  brakeAddr : Nat
  /-- The scheduler table, slots 0 to 15 (R76). -/
  slots : List Cls
  /-- The ROAD and FIELD holding values, kPa (section 2.3). -/
  road : PerTyre Nat
  field : PerTyre Nat
deriving DecidableEq, Repr

/-- The default scheduler table (R76). -/
def defaultSlots : List Cls :=
  [.height, .tyre, .height, .lift, .height, .tyre, .height, .tyre, .height, .tyre, .height, .lift, .height, .tyre, .height, .tyre]

/-- The defaults of section 11.1, with every holding value at ROAD 760 and FIELD 480 (R169). -/
def Settings.default : Settings where
  volume := ⟨800, 240, 240, 60, 900, 900, 900, 900, 900, 900⟩
  lf := 1174
  hc := 12
  rated := 4500
  floor := 600
  brakeMin := 650
  guardSpeed := 40
  guardFloor := 600
  ride := 200
  fieldOffset := 30
  liftBelow := 8000
  lowerAbove := 10000
  loadFollow := true
  settle := { tyre := 1000, height := 500, lift := 500 }
  timeout := { tyre := 20, height := 15, lift := 10 }
  maxSteps := { tyre := 12, height := 8, lift := 4 }
  beaconStretch := 4
  ownAddr := 48
  cabAddr := 33
  brakeAddr := 11
  slots := defaultSlots
  road := PerTyre.fill 760
  field := PerTyre.fill 480

/-- The class that a scheduler slot names; a slot of the sixteen always names one. -/
def Settings.slot (w : Settings) (i : Nat) : Cls := w.slots.getD i .height

/-- The code of a class: 1 HEIGHT, 2 LIFT, 3 TYRE (R173, R174). -/
def Cls.code : Cls → Nat
  | .height => 1 | .lift => 2 | .tyre => 3

/-- The class of a code. -/
def Cls.ofCode : Nat → Option Cls
  | 1 => some .height | 2 => some .lift | 3 => some .tyre | _ => none

/-- The encoded value of a parameter of the table of section 11.1; none for a number outside it (R165). -/
def Settings.param (w : Settings) : Nat → Option Nat
  | 1 => some w.volume.rsv | 2 => some w.volume.bll | 3 => some w.volume.blr | 4 => some w.volume.lft
  | 5 => some w.volume.t1l | 6 => some w.volume.t1r | 7 => some w.volume.t2l | 8 => some w.volume.t2r
  | 9 => some w.volume.t3l | 10 => some w.volume.t3r
  | 11 => some w.lf | 12 => some w.hc | 13 => some w.rated | 14 => some w.floor | 15 => some w.brakeMin
  | 16 => some w.guardSpeed | 17 => some w.guardFloor | 18 => some w.ride | 19 => some w.fieldOffset
  | 20 => some w.liftBelow | 21 => some w.lowerAbove | 22 => some w.loadFollow.toNat
  | 23 => some w.settle.tyre | 24 => some w.settle.height | 25 => some w.settle.lift
  | 26 => some w.timeout.tyre | 27 => some w.timeout.height | 28 => some w.timeout.lift
  | 29 => some w.maxSteps.tyre | 30 => some w.maxSteps.height | 31 => some w.maxSteps.lift
  | 32 => some w.beaconStretch | 33 => some w.ownAddr | 34 => some w.cabAddr | 35 => some w.brakeAddr
  | n => if 64 ≤ n ∧ n ≤ 79 then some (w.slot (n - 64)).code else none

/-- The working set with one parameter replaced by an encoded value; a number outside the table changes nothing. -/
def Settings.setParam (w : Settings) (n v : Nat) : Settings :=
  match n with
  | 1 => { w with volume.rsv := v } | 2 => { w with volume.bll := v } | 3 => { w with volume.blr := v }
  | 4 => { w with volume.lft := v } | 5 => { w with volume.t1l := v } | 6 => { w with volume.t1r := v }
  | 7 => { w with volume.t2l := v } | 8 => { w with volume.t2r := v } | 9 => { w with volume.t3l := v }
  | 10 => { w with volume.t3r := v }
  | 11 => { w with lf := v } | 12 => { w with hc := v } | 13 => { w with rated := v } | 14 => { w with floor := v }
  | 15 => { w with brakeMin := v } | 16 => { w with guardSpeed := v } | 17 => { w with guardFloor := v }
  | 18 => { w with ride := v } | 19 => { w with fieldOffset := v } | 20 => { w with liftBelow := v }
  | 21 => { w with lowerAbove := v } | 22 => { w with loadFollow := v == 1 }
  | 23 => { w with settle.tyre := v } | 24 => { w with settle.height := v } | 25 => { w with settle.lift := v }
  | 26 => { w with timeout.tyre := v } | 27 => { w with timeout.height := v } | 28 => { w with timeout.lift := v }
  | 29 => { w with maxSteps.tyre := v } | 30 => { w with maxSteps.height := v } | 31 => { w with maxSteps.lift := v }
  | 32 => { w with beaconStretch := v } | 33 => { w with ownAddr := v } | 34 => { w with cabAddr := v }
  | 35 => { w with brakeAddr := v }
  | n =>
    if 64 ≤ n ∧ n ≤ 79 then
      match Cls.ofCode v with
      | some c => { w with slots := w.slots.set (n - 64) c }
      | none => w
    else w

/-- Check 1 of CONFIG_WRITE (R165): the number is in the table and the value is one that the parameter's encoding
defines. LOAD_FOLLOW is 0 or 1 and a slot 1 to 3; every 16-bit value is an encoded value of the others (R173). -/
def paramEncodes (n v : Nat) : Bool :=
  if 64 ≤ n ∧ n ≤ 79 then (Cls.ofCode v).isSome
  else if n = 22 then v ≤ 1
  else 1 ≤ n && n ≤ 35

/-- The range of a parameter of section 11.1, lowest and highest value. The settle selects and BEACON_STRETCH have listed
values, which `listedValue` tests. -/
def paramRange (n : Nat) : Nat × Nat :=
  if n ≤ 10 then (10, 4095)
  else match n with
    | 11 => (1, 4095) | 12 => (1, 255) | 13 => (1000, 9000) | 14 => (450, 750) | 15 => (500, 800)
    | 16 => (20, 80) | 17 => (450, 760) | 18 => (120, 300) | 19 => (0, 60)
    | 20 => (1000, 40000) | 21 => (1500, 45000) | 22 => (0, 1)
    | 23 => (250, 2000) | 24 => (250, 2000) | 25 => (250, 2000)
    | 26 => (1, 60) | 27 => (1, 60) | 28 => (1, 60) | 29 => (1, 15) | 30 => (1, 15) | 31 => (1, 15)
    | 32 => (2, 8) | 33 => (0, 255) | 34 => (0, 255) | 35 => (0, 255)
    | _ => (1, 3)

/-- The settle selects take 250, 500, 1000 or 2000 ms (R88), and BEACON_STRETCH 2, 4 or 8 s (R117). -/
def listedValue (n v : Nat) : Bool :=
  if 23 ≤ n ∧ n ≤ 25 then v == 250 || v == 500 || v == 1000 || v == 2000
  else if n = 32 then v == 2 || v == 4 || v == 8
  else true

/-- The value lies in the parameter's range (section 11.1). -/
def paramInRange (n v : Nat) : Bool :=
  decide ((paramRange n).1 ≤ v) && decide (v ≤ (paramRange n).2) && listedValue n v

/-- The relations of section 11.1: LOWER_ABOVE at least LIFT_BELOW + 500 (R126), the three addresses distinct (R145), and
each class in some slot of the scheduler table (R76). -/
def Settings.related (w : Settings) : Bool :=
  decide (w.liftBelow + liftGap ≤ w.lowerAbove)
    && w.ownAddr != w.cabAddr && w.ownAddr != w.brakeAddr && w.cabAddr != w.brakeAddr
    && w.slots.contains .height && w.slots.contains .lift && w.slots.contains .tyre

/-- Check 4 of CONFIG_WRITE (R165): the value lies in its range and the working set it would make meets the relations. -/
def Settings.accepts (w : Settings) (n v : Nat) : Bool :=
  paramInRange n v && (w.setParam n v).related

/-- A working set whose every parameter lies in its range, that meets the relations, and whose holding values lie within
300 to 820 kPa: what R165, R26 and R169 let the working set be. -/
def Settings.legal (w : Settings) : Bool :=
  (List.range 35).all (fun i => paramInRange (i + 1) ((w.param (i + 1)).getD 0))
    && w.slots.length == 16 && w.related
    && Tyre.list.all (fun t => decide (tyreMin ≤ w.road.get t) && decide (w.road.get t ≤ tyreMax)
        && decide (tyreMin ≤ w.field.get t) && decide (w.field.get t ≤ tyreMax))

/-- The 16-bit sum of the words of an image (R167). -/
def wordSum (ws : List Half) : Nat := (ws.map BitVec.toNat).sum % 65536

/-- Words 1 to 63 of the image (R167): parameters 1 to 35, the scheduler slots, then ROAD and FIELD of each tyre in node
order. -/
def Settings.words (w : Settings) : List Half :=
  (List.range 35).map (fun i => BitVec.ofNat 16 ((w.param (i + 1)).getD 0))
    ++ w.slots.map (fun c => BitVec.ofNat 16 c.code)
    ++ Tyre.list.flatMap (fun t => [BitVec.ofNat 16 (w.road.get t), BitVec.ofNat 16 (w.field.get t)])

/-- The stored image of a working set, its check word the two's complement of the sum of the other 63 (R167, R168). -/
def Settings.image (w : Settings) : List Half :=
  w.words ++ [BitVec.ofNat 16 (65536 - wordSum w.words)]

/-- The holding values of an image, from words 52 to 63: ROAD at even and FIELD at odd offsets (R167). -/
def imageHolding (ws : List Half) (odd : Nat) : PerTyre Nat :=
  let at_ (k : Nat) : Nat := (ws.getD (51 + 2 * k + odd) 0).toNat
  ⟨at_ 0, at_ 1, at_ 2, at_ 3, at_ 4, at_ 5⟩

/-- The working set that the words of an image spell (R167). -/
def Settings.ofWords (ws : List Half) : Settings :=
  let params := (List.range 35).foldl
    (fun (w : Settings) i => w.setParam (i + 1) (ws.getD i 0).toNat) Settings.default
  let slots := (List.range 16).foldl
    (fun (w : Settings) i => w.setParam (64 + i) (ws.getD (35 + i) 0).toNat) params
  { slots with road := imageHolding ws 0, field := imageHolding ws 1 }

/-- The four conditions of R169 under which a stored image is accepted: the sum of its 64 words is 0 modulo 65536; every
parameter word, the slots' among them, lies in its range and the relations hold; every class appears in some slot; every
holding value lies within 300 to 820. -/
def imageGood (ws : List Half) : Bool :=
  ws.length == 64 && wordSum ws == 0
    && (List.range 35).all (fun i => paramInRange (i + 1) (ws.getD i 0).toNat)
    && (List.range 16).all (fun i => paramEncodes (64 + i) (ws.getD (35 + i) 0).toNat)
    && (Settings.ofWords ws).legal

end Sys2Proof.Machine
end

