-- ==== Sys2Proof/Machine/State.lean ====
section
/-! DEFINITION. The state of the HT-316 as plain data, block by block as the manual's block diagram gives it
(spec/00_scope.md), the reasons a step can stop, and the state while the reset line is asserted.

Where one fact has two names in the manual it is stored once: the speed state (R23) is read off the recorded speed, the
brake link of R154 is the one of the vehicle state record, the height loop state (R110), the monitor states (R132), the
gallery states (R75), the beacon request (R116) and FRESH or STALE (R119) are read off the fields that fix them. -/

namespace Sys2Proof.Machine

/-! ### Time -/

/-- A running timer: when it was started and its interval, both in milliseconds of `State.now`. -/
structure Run where
  started  : Nat
  interval : Nat
deriving DecidableEq, Repr

/-- A timer: stopped, or running with its start time and interval. -/
abbrev Timer := Option Run

/-! ### Measurement unit -/

/-- An entry of the node reading table (section 1.3). -/
structure Reading where
  /-- the last valid reading, kPa -/
  value : Nat
  /-- VALID (true) or UNORDERED -/
  valid : Bool
  /-- consecutive invalid samples, held at 10 -/
  run   : Nat
deriving DecidableEq, Repr

/-- An entry of the height table (section 1.5). The filtered height is computed from the ring (R12). -/
structure HeightEntry where
  valid : Bool
  run   : Nat
  /-- up to eight valid samples, oldest first (R11) -/
  ring  : List Nat
deriving DecidableEq, Repr

/-- The measurement unit: the reading table (node 0, ATM, is the constant of R6), the height table, and which of the
twelve arrivals of the sample round in progress have been taken (R7). -/
structure Msu where
  nodes    : PerNode Reading
  heights  : PerSide HeightEntry
  nodeSeen : PerNode Bool
  sideSeen : PerSide Bool
deriving DecidableEq, Repr

/-! ### Target unit -/

/-- The travel mode (R17). -/
inductive Mode where
  | road | field | loading
deriving DecidableEq, Repr

/-- The tyre basis (R17). -/
inductive Basis where
  | road | field
deriving DecidableEq, Repr

/-- The speed states (R23). -/
inductive SpeedState where
  | standstill | creep | moving | unknown
deriving DecidableEq, Repr

/-- The vehicle state record (section 2.2). The speed state is derived from `speed` and `link` (R23). -/
structure Vehicle where
  speed   : Option Nat
  /-- braking SET (true) or CLEAR -/
  braking : Bool
  /-- the brake reservoir pressure g_B, kPa; an update that records it as UNORDERED leaves the figure (notes/assumptions/35.md) -/
  gB      : Nat
  /-- the validity mark of g_B: VALID (true) or UNORDERED -/
  gBValid : Bool
  /-- brake link PRESENT (true) or LOST (R154) -/
  link    : Bool
deriving DecidableEq, Repr

/-- The speed guard and its two timers (R34). -/
structure Guard where
  on     : Bool
  overT  : Timer
  underT : Timer
deriving DecidableEq, Repr

/-- One tyre's record (section 2.3); its holding values are in the working set. -/
structure TyreRec where
  override : Option Nat
  target   : Nat
  timer    : Timer
  /-- the ask-pending mark (R38) -/
  pending  : Bool
deriving DecidableEq, Repr

/-- The target unit. -/
structure Tgu where
  mode     : Mode
  basis    : Basis
  vehicle  : Vehicle
  guard    : Guard
  tyres    : PerTyre TyreRec
  /-- a load-follow recomputation has been made in RUN, so that the first of R39 is past -/
  followed : Bool
deriving DecidableEq, Repr

/-! ### Air account -/

/-- The supply window: the reference reading and the 60 s timer (R51). -/
structure SupplyWindow where
  reference : Nat
  timer     : Run
deriving DecidableEq, Repr

/-- The air account (R40 to R54). -/
structure Aac where
  /-- brake priority ON (R49) -/
  priority : Bool
  /-- the reported headroom, AU (R41) -/
  reported : Nat
  /-- supply condition PRESENT (true) or LOST (R51) -/
  supply   : Bool
  window   : Option SupplyWindow
  /-- the recovery reference, held while LOST (R53) -/
  recovery : Option Nat
deriving DecidableEq, Repr

/-! ### Descriptor manager -/

/-- The party a descriptor's goal belongs to (section 4.2): AUTO or a master. -/
inductive Origin where
  | auto
  | master (m : Master)
deriving DecidableEq, Repr

/-- The step kinds (section 4.2). -/
inductive StepKind where
  | fill | vent | pairFill | pairVent
  | sideFill (sd : Side)
  | sideVent (sd : Side)
  | cross
deriving DecidableEq, Repr

/-- The states of a transfer descriptor (section 4.2). -/
inductive DescState where
  | queued | opening | flowing | closing | settling
deriving DecidableEq, Repr

/-- The wait reasons (section 4.2); `clear` is NONE. -/
inductive Wait where
  | clear | gallery | point | hold | stop | air | brake | mode | fault
deriving DecidableEq, Repr

/-- How a descriptor ends, and what a COMPLETION report says (R162). -/
inductive Ending where
  | complete | stalled | sensor | faulted | torn | superseded
deriving DecidableEq, Repr

/-- What set the torn flag: a CANCEL (R72), or the fault of a node or a lockout (R94, R114). It fixes the outcome at the
end of CLOSING. -/
inductive TornBy where
  | cancel | fault
deriving DecidableEq, Repr

/-- The step start reading (R82): the node's pressure; the filtered heights of the step's sides; or both heights and
both bellows pressures. An absent figure was unordered, or belongs to a side the step does not name. -/
inductive StartReading where
  | pressure (p : Option Nat)
  | heights (l r : Option Nat)
  | cross (hl hr pl pr : Option Nat)
deriving DecidableEq, Repr

/-- A pending goal with its own origin (R62). -/
structure PendingGoal where
  goal   : Nat
  origin : Origin
  /-- the class maximum of steps that was in force when the goal was given (R74) -/
  steps  : Nat
deriving DecidableEq, Repr

/-- A transfer descriptor (section 4.2). Goals are in kPa for LIFT and TYRE and in mm for HEIGHT. -/
structure Desc where
  id         : Nat
  cls        : Cls
  nodes      : List Managed
  goal       : Nat
  pending    : Option PendingGoal
  origin     : Origin
  state      : DescState
  kind       : StepKind
  stepGoal   : Option Nat
  start      : Option StartReading
  stepsLeft  : Nat
  noProgress : Nat
  wait       : Wait
  /-- the torn flag, with what set it -/
  torn       : Option TornBy
deriving DecidableEq, Repr

/-- A pred or succ set of a sequence point (R65). -/
structure FamilySet where
  fill : Bool
  vent : Bool
deriving DecidableEq, Repr

/-- A sequence point (R65). -/
structure Point where
  id     : Nat
  pred   : FamilySet
  succ   : FamilySet
  origin : Origin
deriving DecidableEq, Repr

/-- A record on the live list (R55). -/
inductive LiveRec where
  | transfer (d : Desc)
  | point (p : Point)
deriving DecidableEq, Repr

/-- The four starvation counters (R60). -/
structure Starve where
  height : Nat
  lift   : Nat
  tyre   : Nat
  point  : Nat
deriving DecidableEq, Repr

/-- The descriptor manager: the free list, head first, and the live list, oldest first (R55, R56). -/
structure Dqm where
  free   : List Nat
  live   : List LiveRec
  starve : Starve
deriving DecidableEq, Repr

/-! ### Gallery controller -/

/-- The end reasons of a step (R88). -/
inductive EndReason where
  | goal | balanced | airPause | timeout | cut | sensor
deriving DecidableEq, Repr

/-- The step in flight (R75): the descriptor it serves, the step node list, and its end reason once it has ended. -/
structure Flight where
  id     : Nat
  nodes  : List Managed
  ending : Option EndReason
deriving DecidableEq, Repr

/-- One gallery (R75, R77, R82, R83, R88): the step in flight, the scheduler pointer and the four step timers. The
gallery is IDLE exactly when no step is in flight; otherwise its state is that of the descriptor it serves. -/
structure GalleryRec where
  flight  : Option Flight
  pointer : Nat
  openT   : Timer
  stepT   : Timer
  closeT  : Timer
  settleT : Timer
deriving DecidableEq, Repr

/-- The twenty valve outputs (R3), energised (true) or not. -/
structure Valves where
  /-- output 1 -/
  rsv     : Bool
  /-- output 2 -/
  exhaust : Bool
  /-- outputs 3 to 11 -/
  a       : PerManaged Bool
  /-- outputs 12 to 20 -/
  b       : PerManaged Bool
deriving DecidableEq, Repr

/-- The stop set (R96). -/
structure StopSet where
  cab   : Bool
  panel : Bool
deriving DecidableEq, Repr

/-- The gallery controller. -/
structure Glc where
  galleries : PerGallery GalleryRec
  valves    : Valves
  stop      : StopSet
deriving DecidableEq, Repr

/-! ### Height loop -/

/-- The lockout cause set (R114). -/
structure Lockout where
  left  : Bool
  right : Bool
  bll   : Bool
  blr   : Bool
deriving DecidableEq, Repr

/-- The height loop (R100 to R118). -/
structure Hlc where
  /-- the height target, mm -/
  target   : Nat
  /-- height authority held by PANEL (R107) -/
  holder   : Bool
  authT    : Timer
  persist  : Timer
  /-- the ask-pending mark (R104) -/
  pending  : Bool
  lockout  : Lockout
  /-- the recovery counts (R115) -/
  recovery : PerSide Nat
deriving DecidableEq, Repr

/-! ### Load and lift unit -/

/-- The lift states (R123). -/
inductive LiftState where
  | lowered | lifting | lifted | lowering
deriving DecidableEq, Repr

/-- The lift request setting (R124). -/
inductive LiftSetting where
  | up | down | auto
deriving DecidableEq, Repr

/-- The load and lift unit (R119 to R131). A side is FRESH while its freshness timer runs and STALE otherwise. -/
structure Llu where
  load       : PerSide (Option Nat)
  fresh      : PerSide Timer
  /-- the height-step mark (R120) -/
  heightStep : Bool
  setting    : LiftSetting
  /-- the lift aim: LIFTED (true) or LOWERED -/
  aim        : Bool
  lift       : LiftState
  liftT      : Timer
  /-- whether an LFT arrival has been taken since start (R131) -/
  lftSeen    : Bool
deriving DecidableEq, Repr

/-! ### Supervision unit -/

/-- A decay monitor (R132). -/
structure Monitor where
  armed     : Bool
  /-- 0 to 4 snapshots, oldest first -/
  ring      : List Nat
  snapshot  : Timer
  reference : Option Nat
  window    : Timer
deriving DecidableEq, Repr

/-- The supervision unit (R132, R136). -/
structure Spu where
  faults   : PerNode Bool
  monitors : PerWatched Monitor
deriving DecidableEq, Repr

/-! ### Link unit -/

/-- The CAN port state (R143): OFF_BUS since start, OFF_BUS after a bus-off with the idle sightings since, or ON_BUS. -/
inductive PortState where
  | offSinceStart
  | offAfterBusOff (idles : Nat)
  | onBus
deriving DecidableEq, Repr

/-- A frame in the receive FIFO (R144), its sender settled by the address filter when it completed. -/
structure RxFrame where
  sender     : Master
  address    : Byte
  kind       : Byte
  groupIndex : Nat
  groupCount : Nat
  data       : List Byte
deriving DecidableEq, Repr

/-- A frame of the CAN transmit queue (R172). -/
structure CanTx where
  ident : BitVec 29
  data  : List Byte
deriving DecidableEq, Repr

/-- An item of a transmit queue (R148): the frames of it not yet sent, whether it is a periodic report, and whether any of
its frames has begun transmission. -/
structure TxItem (α : Type) where
  frames   : List α
  periodic : Bool
  begun    : Bool
deriving DecidableEq, Repr

/-- The panel receiver (R146), with what it keeps of the frame in progress: the length byte, and the kind and payload
bytes received so far. -/
inductive PanelRx where
  | hunt
  | length
  | body (len : Nat) (got : List Byte)
  | check (len : Nat) (got : List Byte)
deriving DecidableEq, Repr

/-- A good panel frame (R146). -/
structure PanelFrame where
  kind    : Byte
  payload : List Byte
deriving DecidableEq, Repr

/-- The link unit (R143 to R156). The brake link state is in the vehicle state record, the address table in the working
set. `good` holds the good panel frames whose request events have not yet been commanded (notes/assumptions/4.md). -/
structure Lku where
  port         : PortState
  fifo         : List RxFrame
  rx           : PanelRx
  good         : List PanelFrame
  canTx        : List (TxItem CanTx)
  panelTx      : List (TxItem (List Byte))
  /-- the part is driving the panel line (R147) -/
  sending      : Bool
  brakeSilence : Timer
  panelSilence : Timer
  /-- panel link PRESENT (true) or LOST (R155) -/
  panelLink    : Bool
deriving DecidableEq, Repr

/-! ### Event unit -/

/-- A latch set (R157): the kinds latched since the master's last status read, each with its node set. -/
abbrev LatchSet := PerKind (Option NodeSet)

/-- The beacon output (R116). -/
inductive Beacon where
  | unlit | lit | stretch
deriving DecidableEq, Repr

/-- The event unit (R157 to R164, R116). -/
structure Evu where
  latches     : PerMaster LatchSet
  supplyOk    : PerMaster Bool
  brakeOk     : PerMaster Bool
  masks       : PerMaster (PerKind Bool)
  beacon      : Beacon
  stretch     : Timer
  /-- the count of active HEIGHT and LIFT steps (R116) -/
  activeSteps : Nat
  stateT      : Timer
  nodesT      : Timer
  loadT       : Timer
deriving DecidableEq, Repr

/-! ### Settings store -/

/-- The part's phase (R170). -/
inductive Phase where
  | reset | starting | run
deriving DecidableEq, Repr

/-- A store write in progress (R168): the new image and the 60 ms timer. -/
structure StoreWrite where
  image : List Half
  timer : Run
deriving DecidableEq, Repr

/-- The settings store. `image` is the stored image; it is absent while a write is under way and after a write that was
cut short, when what the store holds fails its check (R168). The store-busy flag is set exactly while `writing` is present. -/
structure Sts where
  phase   : Phase
  ws      : Settings
  image   : Option (List Half)
  writing : Option StoreWrite
deriving DecidableEq, Repr

/-! ### The machine -/

/-- The whole state of the part, with three fields of the model's own: `now`, the model's millisecond clock
(notes/assumptions/2.md); `freeCount`, the counter that Config's free value is applied to (notes/assumptions/1.md); and
`pending`, the queue of commands that wait, first in, first out. -/
structure State where
  msu       : Msu
  tgu       : Tgu
  aac       : Aac
  dqm       : Dqm
  glc       : Glc
  hlc       : Hlc
  llu       : Llu
  spu       : Spu
  lku       : Lku
  evu       : Evu
  sts       : Sts
  now       : Nat
  freeCount : Nat
  pending   : List Instr
deriving DecidableEq, Repr

/-- The reasons a step could fault: none. Every command of the table has an effect that the manual gives, on every
operand, so no command of the model ends in a fault. -/
inductive Fault where
deriving DecidableEq, Repr

/-- The reasons a step could be refused. -/
inductive Refusal where
  /-- Raised by an arm of `exec` whose command has no meaning yet (safe: nothing can be proved of its effect). No arm
  raises it now. -/
  | notModelled (mnemonic : String)
deriving DecidableEq, Repr

/-! ### Start values -/

/-- The start value of the measurement unit (R16): every transducer node 0, UNORDERED, run 0; every ring empty. -/
def Msu.start : Msu where
  nodes := PerNode.fill ⟨0, false, 0⟩
  heights := PerSide.fill ⟨false, 0, []⟩
  nodeSeen := PerNode.fill false
  sideSeen := PerSide.fill false

/-- The start value of the target unit but for the active targets (R39, section 2.2), which `targets` gives. -/
def Tgu.start (targets : PerTyre Nat) : Tgu where
  mode := .road
  basis := .road
  vehicle := { speed := none, braking := true, gB := 0, gBValid := false, link := false }
  guard := { on := true, overT := none, underT := none }
  tyres :=
    let tyre (g : Nat) : TyreRec := { override := none, target := g, timer := none, pending := false }
    ⟨tyre targets.t1l, tyre targets.t1r, tyre targets.t2l, tyre targets.t2r, tyre targets.t3l, tyre targets.t3r⟩
  followed := false

/-- The start value of the air account (R54). -/
def Aac.start : Aac where
  priority := true
  reported := 0
  supply := true
  window := none
  recovery := none

/-- The start value of the descriptor manager (R55, R74). -/
def Dqm.start : Dqm where
  free := [0, 1, 2, 3, 4, 5, 6, 7]
  live := []
  starve := ⟨0, 0, 0, 0⟩

/-- Every valve output de-energised (R3). -/
def Valves.off : Valves where
  rsv := false
  exhaust := false
  a := PerManaged.fill false
  b := PerManaged.fill false

/-- A gallery at start: IDLE, its pointer at slot 15, no timer running (R99). -/
def GalleryRec.start : GalleryRec where
  flight := none
  pointer := 15
  openT := none
  stepT := none
  closeT := none
  settleT := none

/-- The start value of the gallery controller (R99). -/
def Glc.start : Glc where
  galleries := PerGallery.fill GalleryRec.start
  valves := Valves.off
  stop := ⟨false, false⟩

/-- The start value of the height loop (R118), its target RIDE of the working set. -/
def Hlc.start (ride : Nat) : Hlc where
  target := ride
  holder := false
  authT := none
  persist := none
  pending := false
  lockout := ⟨false, false, false, false⟩
  recovery := PerSide.fill 0

/-- The start value of the load and lift unit (R131). -/
def Llu.start : Llu where
  load := PerSide.fill none
  fresh := PerSide.fill none
  heightStep := false
  setting := .auto
  aim := false
  lift := .lowered
  liftT := none
  lftSeen := false

/-- A decay monitor that has been reset (R132). -/
def Monitor.start : Monitor where
  armed := false
  ring := []
  snapshot := none
  reference := none
  window := none

/-- The start value of the supervision unit (R142). -/
def Spu.start : Spu where
  faults := PerNode.fill false
  monitors := PerWatched.fill Monitor.start

/-- The start value of the link unit (R156). -/
def Lku.start : Lku where
  port := .offSinceStart
  fifo := []
  rx := .hunt
  good := []
  canTx := []
  panelTx := []
  sending := false
  brakeSilence := none
  panelSilence := none
  panelLink := false

/-- The default report masks (R158): all fourteen kinds for CAB; BRAKE_PRIORITY, SUPPLY_LOST and NODE_FAULT for BRAKE;
AUTHORITY_LOST, STALLED and LEAK_FAST for PANEL. -/
def defaultMask : Master → PerKind Bool
  | .cab => { (PerKind.fill true) with test := false }
  | .brake => { (PerKind.fill false) with brakePriority := true, supplyLost := true, nodeFault := true }
  | .panel => { (PerKind.fill false) with authorityLost := true, stalled := true, leakFast := true }

/-- The start value of the event unit (R164, R117). -/
def Evu.start : Evu where
  latches := PerMaster.fill (PerKind.fill none)
  supplyOk := PerMaster.fill true
  brakeOk := PerMaster.fill false
  masks := ⟨defaultMask .cab, defaultMask .brake, defaultMask .panel⟩
  beacon := .unlit
  stretch := none
  activeSteps := 0
  stateT := none
  nodesT := none
  loadT := none

/-- Every block at its start values around a phase, a working set, its start targets and a stored image; the model's own
fields as given. -/
def State.startValues (phase : Phase) (ws : Settings) (targets : PerTyre Nat) (image : Option (List Half))
    (now freeCount : Nat) (pending : List Instr) : State where
  msu := Msu.start
  tgu := Tgu.start targets
  aac := Aac.start
  dqm := Dqm.start
  glc := Glc.start
  hlc := Hlc.start ws.ride
  llu := Llu.start
  spu := Spu.start
  lku := Lku.start
  evu := Evu.start
  sts := { phase := phase, ws := ws, image := image, writing := none }
  now := now
  freeCount := freeCount
  pending := pending

/-- The part while the reset line is asserted (R170): phase RESET, every block at its start values. The manual gives no
working set before the start event loads one, and no first content of the settings store: the model takes the defaults for
both (DESIGN CHOICE, notes/assumptions/5.md and 6.md). -/
def State.reset : State :=
  State.startValues .reset Settings.default Settings.default.road (some Settings.default.image) 0 0 []

end Sys2Proof.Machine
end

