-- ==== Sys2Proof/Machine/Ops.lean ====
section
/-! DEFINITION. The views that the blocks take of each other's state (readings, the speed state, the states that follow
from other fields), the lookups on the live list, and the working record of an event: the state as it stands within the
event, the grant scans the event has started (R78) and the messages that wait behind its reply (R151). -/

namespace Sys2Proof.Machine

/-! ### Readings (R8, R12, R13) -/

/-- The pressure of a transducer node as a reading: absent while the entry is UNORDERED (R8). -/
def State.pressure (s : State) (n : Node) : Option Nat :=
  let r := s.msu.nodes.get n
  if r.valid then some r.value else none

/-- The entry of node 0, ATM: 0 kPa, VALID, run 0, from start onward (R6). -/
def atmReading : Reading where
  value := 0
  valid := true
  run := 0

/-- The filtered height of a side: the mean of the ring rounded half up, VALID while the ring holds 8 entries and the
invalid run is below 10, else UNORDERED (R12). -/
def HeightEntry.filtered (h : HeightEntry) : Option Nat :=
  if h.ring.length = ringSize ∧ h.run < runMax then some ((h.ring.sum + 4) / 8) else none

/-- The filtered height of a side as the height table now gives it. -/
def State.height (s : State) (sd : Side) : Option Nat := (s.msu.heights.get sd).filtered

/-- The comparison of R13: false on an unordered reading, whatever the test. -/
def holdsOf (r : Option Nat) (test : Nat → Bool) : Bool :=
  match r with
  | some v => test v
  | none => false

/-- The comparison of two readings (R13): false if either is unordered. -/
def holdsOf2 (r q : Option Nat) (test : Nat → Nat → Bool) : Bool :=
  match r, q with
  | some v, some w => test v w
  | _, _ => false

/-! ### Timers -/

/-- A timer started now for so many milliseconds. -/
def State.timer (s : State) (ms : Nat) : Timer := some ⟨s.now, ms⟩

/-- A timer started if it is stopped and left running if it runs. -/
def State.timerKeep (s : State) (t : Timer) (ms : Nat) : Timer :=
  match t with
  | some r => some r
  | none => s.timer ms

/-! ### Vehicle state -/

/-- The speed state (R23): UNKNOWN for a speed not available or while the brake link is LOST. -/
def Vehicle.speedState (v : Vehicle) : SpeedState :=
  if v.link then
    match v.speed with
    | none => .unknown
    | some k => if k = 0 then .standstill else if k ≤ moveLimit then .creep else .moving
  else .unknown

/-- The brake reservoir pressure as a reading: absent while its mark is UNORDERED (R13, R22). -/
def Vehicle.brakePressure (v : Vehicle) : Option Nat := if v.gBValid then some v.gB else none

/-- The speed state of the part. -/
def State.speedState (s : State) : SpeedState := s.tgu.vehicle.speedState

/-- The hold of R93: the braking flag is SET or the speed state is UNKNOWN. -/
def State.held (s : State) : Bool := s.tgu.vehicle.braking || s.speedState == .unknown

/-- The working set. -/
def State.ws (s : State) : Settings := s.sts.ws

/-- Some master has a stop in force (R96). -/
def StopSet.occupied (x : StopSet) : Bool := x.cab || x.panel

/-- The store-busy flag (R168). -/
def Sts.busy (x : Sts) : Bool := x.writing.isSome

/-- The node's fault flag (R136). -/
def State.faulted (s : State) (n : Node) : Bool := s.spu.faults.get n

/-! ### Descriptors on the live list -/

/-- The family of a step kind: true for FILL, false for VENT, to which CROSS belongs (R57). -/
def StepKind.isFill : StepKind → Bool
  | .fill => true
  | .pairFill => true
  | .sideFill _ => true
  | _ => false

/-- The gallery of a step kind (R57). -/
def StepKind.gallery (k : StepKind) : Gallery := if k.isFill then .a else .b

/-- The transfer descriptor of a live record, if it is one. -/
def LiveRec.desc : LiveRec → Option Desc
  | .transfer d => some d
  | .point _ => none

/-- The id of a live record. -/
def LiveRec.id : LiveRec → Nat
  | .transfer d => d.id
  | .point p => p.id

/-- The first live transfer descriptor, in live-list order, that a test picks. -/
def State.findDesc (s : State) (test : Desc → Bool) : Option Desc :=
  s.dqm.live.findSome? fun r =>
    match r with
    | .transfer d => if test d then some d else none
    | .point _ => none

/-- The live transfer descriptor of an id. -/
def State.descAt (s : State) (id : Nat) : Option Desc := s.findDesc fun d => d.id == id

/-- The live transfer descriptor that names a managed node (R59). -/
def State.descOf (s : State) (m : Managed) : Option Desc := s.findDesc fun d => d.nodes.contains m

/-- The live transfer descriptor that shares a node with a node list (R59). -/
def State.descSharing (s : State) (ns : List Managed) : Option Desc :=
  s.findDesc fun d => d.nodes.any ns.contains

/-- The live transfer descriptor of a class of which there is at most one, HEIGHT or LIFT (R59). -/
def State.descOfClass (s : State) (c : Cls) : Option Desc := s.findDesc fun d => d.cls == c

/-- One live descriptor's record changed in its place on the live list. -/
def State.modDesc (s : State) (id : Nat) (f : Desc → Desc) : State :=
  { s with dqm.live := s.dqm.live.map fun r =>
      match r with
      | .transfer d => .transfer (if d.id = id then f d else d)
      | .point p => .point p }

/-- One live descriptor's record rewritten in its place. -/
def State.putDesc (s : State) (d : Desc) : State := s.modDesc d.id fun _ => d

/-- The descriptor that the step in flight on a gallery serves (R75). -/
def State.served (s : State) (g : Gallery) : Option Desc :=
  (s.glc.galleries.get g).flight.bind fun f => s.descAt f.id

/-- A gallery is IDLE exactly when no step is in flight on it (R75). -/
def State.idle (s : State) (g : Gallery) : Bool := (s.glc.galleries.get g).flight.isNone

/-- The state of a gallery (R75): absent while it is IDLE, else the state of the descriptor it serves. -/
def State.galleryState (s : State) (g : Gallery) : Option DescState := (s.served g).map Desc.state

/-- The valves of a descriptor's step are open, or opening: OPENING or FLOWING. -/
def DescState.airMoves : DescState → Bool
  | .opening => true
  | .flowing => true
  | _ => false

/-! ### States that follow from other fields -/

/-- The lockout cause set is not empty (R114). -/
def Lockout.occupied (x : Lockout) : Bool := x.left || x.right || x.bll || x.blr

/-- The height loop states (R110). -/
inductive LoopState where
  | steady | pending | correcting | held | lockedOut
deriving DecidableEq, Repr

/-- The height loop state: the first line of R110 that applies. -/
def State.loopState (s : State) : LoopState :=
  if s.hlc.lockout.occupied then .lockedOut
  else if s.held then .held
  else if (s.descOfClass .height).isSome then .correcting
  else if s.hlc.persist.isSome then .pending
  else .steady

/-- The states of a decay monitor (R132). -/
inductive MonitorState where
  | idle | suspended | active
deriving DecidableEq, Repr

/-- A step in flight, from its grant to its finish, serves a descriptor that names the node (R98, R132). -/
def State.inFlight (s : State) (m : Managed) : Bool :=
  let names (g : Gallery) : Bool :=
    match s.served g with
    | some d => d.nodes.contains m
    | none => false
  names .a || names .b

/-- The state of a decay monitor: the first line of R132 that applies. -/
def State.monitorState (s : State) (w : Watched) : MonitorState :=
  if s.sts.phase != .run || s.faulted w.node || (w == .lft && s.llu.lift != .lifted) then .idle
  else if s.inFlight w.managed then .suspended
  else .active

/-- The total load: the sum of the side loads while both are set (R121). -/
def Llu.total (x : Llu) : Option Nat :=
  match x.load.left, x.load.right with
  | some l, some r => some (l + r)
  | _, _ => none

/-- The loaded-axle count: 2 while LIFTED, 3 otherwise (R122, R123). -/
def Llu.axles (x : Llu) : Nat := if x.lift = .lifted then 2 else 3

/-- The beacon request: ON while the mode is LOADING (R116). -/
def State.beaconRequest (s : State) : Bool := s.tgu.mode == .loading

/-! ### The working record of an event -/

/-- A message that the event makes up for a master: the addresses in force when it was made up (R145), its kind code
(R172), its bytes, and whether it is a periodic report (R148). -/
structure OutMsg where
  master   : Master
  src      : Byte
  dst      : Byte
  code     : Nat
  bytes    : List Byte
  periodic : Bool
deriving DecidableEq, Repr

/-- An event in progress: the state as it stands, the grant scans started on each gallery (R78), which are taken after the
event's other changes, and the messages made up so far, in order, which are queued behind the event's reply (R151). -/
structure Ev where
  st   : State
  scan : PerGallery Bool
  out  : List OutMsg
deriving DecidableEq, Repr

/-- The event as it begins. -/
def Ev.of (s : State) : Ev where
  st := s
  scan := PerGallery.fill false
  out := []

/-- A change of the state alone. -/
def Ev.on (e : Ev) (f : State → State) : Ev := { e with st := f e.st }

/-- A trigger of R78 for one gallery: nothing of it is kept unless the gallery is IDLE. -/
def Ev.trigger (g : Gallery) (e : Ev) : Ev :=
  if e.st.idle g then { e with scan := e.scan.set g true } else e

/-- A trigger of R78 for each IDLE gallery. -/
def Ev.triggerBoth (e : Ev) : Ev := (e.trigger .a).trigger .b

/-- The address a master is reached at (R145); the panel line carries none. -/
def Settings.address (w : Settings) : Master → Byte
  | .cab => BitVec.ofNat 8 w.cabAddr
  | .brake => BitVec.ofNat 8 w.brakeAddr
  | .panel => 0

/-- A message made up for a master with the addresses in force. -/
def Ev.send (m : Master) (code : Nat) (bytes : List Byte) (periodic : Bool) (e : Ev) : Ev :=
  { e with out := e.out ++
      [{ master := m, src := BitVec.ofNat 8 e.st.ws.ownAddr, dst := e.st.ws.address m,
         code := code, bytes := bytes, periodic := periodic }] }

end Sys2Proof.Machine
end

