-- ==== Sys2Proof/Machine/Frames.lean ====
section
/-! DEFINITION. The byte layouts of replies and reports (R172, R174): codes, the node string, the live entries, the
contents of each item, and how an item is cut into the frames of its port. -/

namespace Sys2Proof.Machine

/-! ### Numbers as bytes, least significant first (section 12.1) -/

/-- The low byte of a number. -/
def byteOf (n : Nat) : Byte := BitVec.ofNat 8 n

/-- A number as so many bytes, least significant first. -/
def bytesOf : Nat → Nat → List Byte
  | 0, _ => []
  | k + 1, n => byteOf n :: bytesOf k (n / 256)

/-- A 16-bit field; a value that is not available has all bits set (R174). -/
def field16 (v : Option Nat) : List Byte := bytesOf 2 (v.getD 65535)

/-- A 24-bit field; a value that is not available has all bits set (R174). -/
def field24 (v : Option Nat) : List Byte := bytesOf 3 (v.getD 16777215)

/-- The sum of the powers of two at the positions of a list. -/
def bitsAt (ps : List Nat) : Nat := (ps.map fun p => 2 ^ p).sum

/-- A node list as a node mask: bit n−1 for node n (R174). -/
def nodeMask (ns : List Node) : Nat := bitsAt (ns.map fun n => n.number - 1)

/-! ### Codes (R174) -/

/-- The event kinds in the order of their codes 0 to 14. -/
def EventKind.list : List EventKind :=
  [.reserveReached, .brakePriority, .supplyLost, .brakeLinkLost, .sensorInvalid, .leakSlow, .leakFast, .nodeFault,
   .stalled, .speedForced, .modeForced, .authorityLost, .starved, .storeLost, .test]

def EventKind.code : EventKind → Nat
  | .reserveReached => 0 | .brakePriority => 1 | .supplyLost => 2 | .brakeLinkLost => 3 | .sensorInvalid => 4
  | .leakSlow => 5 | .leakFast => 6 | .nodeFault => 7 | .stalled => 8 | .speedForced => 9 | .modeForced => 10
  | .authorityLost => 11 | .starved => 12 | .storeLost => 13 | .test => 14

/-- The kinds whose node masks a STATUS carries: codes 4 to 8 and 12 (R174). -/
def EventKind.namesNodes : EventKind → Bool
  | .sensorInvalid => true | .leakSlow => true | .leakFast => true | .nodeFault => true | .stalled => true
  | .starved => true | _ => false

def Ending.code : Ending → Nat
  | .complete => 1 | .stalled => 2 | .sensor => 3 | .faulted => 4 | .torn => 5 | .superseded => 6

def DescState.code : DescState → Nat
  | .queued => 0 | .opening => 1 | .flowing => 2 | .closing => 3 | .settling => 4

def Wait.code : Wait → Nat
  | .clear => 0 | .gallery => 1 | .point => 2 | .hold => 3 | .stop => 4 | .air => 5 | .brake => 6 | .mode => 7
  | .fault => 8

def Mode.code : Mode → Nat
  | .road => 0 | .field => 1 | .loading => 2

def SpeedState.code : SpeedState → Nat
  | .standstill => 0 | .creep => 1 | .moving => 2 | .unknown => 3

def LoopState.code : LoopState → Nat
  | .steady => 0 | .pending => 1 | .correcting => 2 | .held => 3 | .lockedOut => 4

def LiftState.code : LiftState → Nat
  | .lowered => 0 | .lifting => 1 | .lifted => 2 | .lowering => 3

def LiftSetting.code : LiftSetting → Nat
  | .up => 1 | .down => 2 | .auto => 3

/-- The refusal reasons, codes 1 to 12 in the order of section 9.5. -/
inductive Reason where
  | notPermitted | noAuthority | speed | mode | noDescriptor | nodeFault | stopped | overload | badFormat | badValue
  | storeBusy | notReady
deriving DecidableEq, Repr

def Reason.code : Reason → Nat
  | .notPermitted => 1 | .noAuthority => 2 | .speed => 3 | .mode => 4 | .noDescriptor => 5 | .nodeFault => 6
  | .stopped => 7 | .overload => 8 | .badFormat => 9 | .badValue => 10 | .storeBusy => 11 | .notReady => 12

/-- The message kind codes of what the part sends (R172). -/
def codeAccepted : Nat := 24
def codeRefused : Nat := 25
def codeStatus : Nat := 26
def codeEvent : Nat := 27
def codeCompletion : Nat := 28
def codeState : Nat := 29
def codeNodes : Nat := 30
def codeLoad : Nat := 31

/-! ### Contents (R174) -/

/-- ACCEPTED: tag, request kind, flags, id or 255, data. -/
def acceptedBytes (tag kind : Byte) (clamped merged : Bool) (id : Option Nat) (data : List Byte) : List Byte :=
  [tag, kind, byteOf (clamped.toNat + 2 * merged.toNat), byteOf (id.getD 255)] ++ data

/-- REFUSED: tag, request kind, reason. -/
def refusedBytes (tag kind : Byte) (r : Reason) : List Byte := [tag, kind, byteOf r.code]

/-- EVENT: event kind and the newly latched nodes. -/
def eventBytes (k : EventKind) (ns : List Node) : List Byte := byteOf k.code :: bytesOf 2 (nodeMask ns)

/-- COMPLETION: id, class, node list, the goal answered, outcome. -/
def completionBytes (d : Desc) (goal : Nat) (x : Ending) : List Byte :=
  [byteOf d.id, byteOf d.cls.code] ++ bytesOf 2 (nodeMask (d.nodes.map Managed.node)) ++ bytesOf 2 goal ++ [byteOf x.code]

/-- A side is FRESH while its freshness timer runs (R119, R122). -/
def Llu.stale (x : Llu) : Bool := x.fresh.left.isNone || x.fresh.right.isNone

/-- LOAD: the two side loads, the loaded-axle count, STALE (R122, R174). The total of R121 is carried as the
two loads whose sum it is; the layout has no field of its own for it (notes/assumptions/42.md). -/
def loadBytes (s : State) : List Byte :=
  field24 s.llu.load.left ++ field24 s.llu.load.right ++ [byteOf s.llu.axles, byteOf s.llu.stale.toNat]

/-- Bits 2 to 4 of STATE byte 13 and of STATUS byte 1: CAB stopped, PANEL stopped, holder PANEL. -/
def holdBits (s : State) : Nat := 4 * s.glc.stop.cab.toNat + 8 * s.glc.stop.panel.toNat + 16 * s.hlc.holder.toNat

/-- STATE, 16 bytes. -/
def stateBytes (s : State) : List Byte :=
  [byteOf (s.tgu.mode.code + 4 * (s.tgu.basis == .field).toNat + 8 * s.tgu.guard.on.toNat
      + 16 * s.tgu.vehicle.braking.toNat + 32 * s.aac.priority.toNat + 64 * s.speedState.code)]
  ++ field16 (s.height .left) ++ field16 (s.height .right) ++ bytesOf 2 s.hlc.target
  ++ [byteOf (s.loopState.code + 8 * s.llu.lift.code + 32 * s.llu.setting.code)]
  ++ field24 s.llu.total ++ bytesOf 2 s.aac.reported
  ++ [byteOf (s.aac.supply.toNat + 2 * s.tgu.vehicle.link.toNat + holdBits s), 0, 0]

/-- The node string as one number of 192 bits. Node n has bits 13(n−1) to 13n−1: last valid value, UNORDERED, fault flag.
Bits 130 to 189 hold the active targets less 300, bit 190 the LFT target. R166 says that the override too is reported here, but R163 and
R174 give it no field: the active target stands for both (notes/assumptions/50.md). -/
def nodeStringNat (s : State) : Nat :=
  let node (n : Node) : Nat :=
    let r := s.msu.nodes.get n
    (r.value % 2048 + 2048 * (!r.valid).toNat + 4096 * (s.faulted n).toNat) * 2 ^ (13 * (n.number - 1))
  let tyre (t : Tyre) : Nat :=
    ((s.tgu.tyres.get t).target - 300) % 1024 * 2 ^ (130 + 10 * (t.node.number - 5))
  (Node.list.map node).sum + (Tyre.list.map tyre).sum + s.llu.aim.toNat * 2 ^ 190

/-- The node string, 24 bytes: the content of a NODES report. -/
def nodeString (s : State) : List Byte := bytesOf 24 (nodeStringNat s)

/-- The code of a pred or succ set: bit 0 FILL, bit 1 VENT. -/
def FamilySet.code (x : FamilySet) : Nat := x.fill.toNat + 2 * x.vent.toNat

/-- A live entry of 16 bits (R174). -/
def liveEntry : LiveRec → Nat
  | .transfer d => d.id % 8 + 8 * d.cls.code + 64 * d.state.code + 512 * d.wait.code
  | .point p => p.id % 8 + 8 * 4 + 64 * p.pred.code + 512 * p.succ.code

/-- STATUS: the content of R161 for one master, laid out as R174 gives it. -/
def statusBytes (s : State) (m : Master) (tag : Byte) : List Byte :=
  let set := s.evu.latches.get m
  let latched := EventKind.list.filter fun k => (set.get k).isSome
  [tag, byteOf ((s.evu.supplyOk.get m).toNat + 2 * (s.evu.brakeOk.get m).toNat + holdBits s),
   byteOf s.dqm.starve.height, byteOf s.dqm.starve.lift, byteOf s.dqm.starve.tyre, byteOf s.dqm.starve.point,
   byteOf s.dqm.live.length]
  ++ bytesOf 2 (bitsAt (latched.map EventKind.code))
  ++ (latched.filter EventKind.namesNodes).flatMap (fun k =>
      bytesOf 2 (nodeMask (NodeSet.members ((set.get k).getD (PerNode.fill false)))))
  ++ s.dqm.live.flatMap (fun r => bytesOf 2 (liveEntry r))
  ++ nodeString s

/-! ### Frames of the two ports (R172) -/

/-- A list cut into pieces of k, the last one perhaps shorter; an empty list gives one empty piece. -/
def pieces (k : Nat) : Nat → List Byte → List (List Byte)
  | 0, l => [l]
  | n + 1, l => if l.length ≤ k then [l] else l.take k :: pieces k n (l.drop k)

/-- The priority the part sends with (R172): 0 for LOAD, 2 for STATE and NODES, 1 for the rest. -/
def priorityOf (code : Nat) : Nat :=
  if code = codeLoad then 0 else if code = codeState ∨ code = codeNodes then 2 else 1

/-- A 29-bit identifier from its fields (R172). -/
def canIdent (priority kind index count source dest : Nat) : BitVec 29 :=
  BitVec.ofNat 29
    (priority * 2 ^ 27 + kind * 2 ^ 22 + index * 2 ^ 19 + (count - 1) * 2 ^ 16 + source * 2 ^ 8 + dest)

/-- The frames of a message on CAN: 8 data bytes each, with index and count of the group. -/
def canFrames (m : OutMsg) : List CanTx :=
  let ps := pieces 8 8 m.bytes
  ps.zipIdx.map fun p =>
    { ident := canIdent (priorityOf m.code) m.code p.2 ps.length m.src.toNat m.dst.toNat, data := p.1 }

/-- The check byte that makes the sum of a frame's bytes 0 modulo 256 (R146). -/
def checkByte (bs : List Byte) : Byte := byteOf (256 - (bs.map BitVec.toNat).sum % 256)

/-- A panel frame: start byte, length, kind, payload, check byte (R146). -/
def panelFrame (code : Nat) (payload : List Byte) : List Byte :=
  let body := [startByte, byteOf payload.length, byteOf code] ++ payload
  body ++ [checkByte body]

/-- The frames of a message on the panel line: one frame, but for STATUS one or two, each payload opened by a group byte with
the index in bits 0 to 2 and the count less one in bits 3 to 5 (R172). -/
def panelFrames (m : OutMsg) : List (List Byte) :=
  if m.code = codeStatus then
    let ps := pieces (payloadMax - 1) 2 m.bytes
    ps.zipIdx.map fun p => panelFrame m.code (byteOf (p.2 + 8 * (ps.length - 1)) :: p.1)
  else [panelFrame m.code m.bytes]

end Sys2Proof.Machine
end

