-- ==== Sys2Proof/Machine/Flags.lean ====
section
/-! DEFINITION. The flags of the event unit: latch sets and EVENT reports (R157 to R159), latch-low conditions (R160),
and the beacon with its count of active steps (R116, R117). -/

namespace Sys2Proof.Machine

/-! ### Latches -/

/-- A latch applied to one set, by the table of R157: the set after it and, when the table changed the set, the newly
latched nodes. -/
def latchInto (set : LatchSet) (k : EventKind) (ns : List Node) : LatchSet × Option (List Node) :=
  match set.get k with
  | none => (set.set k (some (nodeSet ns)), some ns)
  | some p =>
    let fresh := ns.filter fun n => !p.get n
    if fresh.isEmpty then (set, none)
    else (set.set k (some (fresh.foldl (fun q n => q.set n true) p)), some fresh)

/-- A latch in one master's set, with the EVENT report that a newly latched kind of its mask queues (R157, R158). -/
def Ev.latchFor (m : Master) (k : EventKind) (ns : List Node) (e : Ev) : Ev :=
  let r := latchInto (e.st.evu.latches.get m) k ns
  let e' := e.on fun s => { s with evu.latches := s.evu.latches.set m r.1 }
  match r.2 with
  | some fresh => if (e.st.evu.masks.get m).get k then e'.send m codeEvent (eventBytes k fresh) false else e'
  | none => e'

/-- A latch of a kind other than TEST, applied to all three sets (R157). Its EVENT reports are queued to CAB, then BRAKE, then PANEL: the
model's order (R158, notes/assumptions/38.md). -/
def Ev.latch (k : EventKind) (ns : List Node) (e : Ev) : Ev :=
  ((e.latchFor .cab k ns).latchFor .brake k ns).latchFor .panel k ns

/-- TEST latched in the sender's set only, with its EVENT report whatever the mask holds (R159). -/
def Ev.latchTest (m : Master) (e : Ev) : Ev :=
  let r := latchInto (e.st.evu.latches.get m) .test []
  (e.on fun s => { s with evu.latches := s.evu.latches.set m r.1 }).send m codeEvent (eventBytes .test []) false

/-! ### Latch-low conditions -/

/-- The supply condition became LOST: every master's SUPPLY_OK becomes 0 (R160). -/
def State.supplyLow (s : State) : State := { s with evu.supplyOk := PerMaster.fill false }

/-- The brake link became LOST: every master's BRAKE_LINK_OK becomes 0 (R160). -/
def State.brakeLow (s : State) : State := { s with evu.brakeOk := PerMaster.fill false }

/-- A master's latch set cleared and its latch-low conditions rearmed to the current values of their conditions
(R161). -/
def State.rearm (s : State) (m : Master) : State :=
  { s with
    evu.latches := s.evu.latches.set m (PerKind.fill none)
    evu.supplyOk := s.evu.supplyOk.set m s.aac.supply
    evu.brakeOk := s.evu.brakeOk.set m s.tgu.vehicle.link }

/-! ### Beacon -/

/-- The beacon brought in line with its condition, request ON and count above 0 (R116): a rise lights it and stops the
stretch timer, a fall starts the stretch timer. The beacon is LIT exactly while the condition holds, so a condition that
has not changed changes nothing. -/
def State.beaconSync (s : State) : State :=
  if s.beaconRequest && decide (0 < s.evu.activeSteps) then
    { s with evu.beacon := .lit, evu.stretch := none }
  else if s.evu.beacon = .lit then
    { s with evu.beacon := .stretch, evu.stretch := s.timer (s.ws.beaconStretch * 1000) }
  else s

/-- A HEIGHT or LIFT step enters OPENING (R98, R116). -/
def State.stepOpens (s : State) : State :=
  State.beaconSync { s with evu.activeSteps := s.evu.activeSteps + 1 }

/-- A HEIGHT or LIFT step leaves CLOSING (R98, R116). -/
def State.stepCloses (s : State) : State :=
  State.beaconSync { s with evu.activeSteps := s.evu.activeSteps - 1 }

end Sys2Proof.Machine
end

