-- ==== Sys2Proof/Machine/Descriptors.lean ====
section
/-! DEFINITION. The descriptor manager's operations: allocation and the HEIGHT reserve (R58), refusal and starvation
(R60), merging (R59, R61, R62), sequence points (R65 to R68), and the freeing of a record (R63). -/

namespace Sys2Proof.Machine

/-- An ask for a transfer (R58): class, node list, goal, origin, and the step kind fixed for it (R57). -/
structure Ask where
  cls    : Cls
  nodes  : List Managed
  goal   : Nat
  origin : Origin
  kind   : StepKind
deriving DecidableEq, Repr

/-- What became of an ask: allocated or merged under an id, or refused. -/
inductive AskResult where
  | allocated (id : Nat)
  | merged (id : Nat)
  | refused
deriving DecidableEq, Repr

/-! ### Step kinds (R57) -/

/-- The step kind of a TYRE descriptor: VENT when the reading is valid and more than 10 kPa above the goal, else FILL. -/
def tyreKind (reading : Option Nat) (goal : Nat) : StepKind :=
  if holdsOf reading (fun g => goal + tyreTolerance < g) then .vent else .fill

/-- The step kind of a LIFT descriptor: FILL for goal 450 and VENT for goal 0. -/
def liftKind (goal : Nat) : StepKind := if goal = 0 then .vent else .fill

/-- An ask for a tyre, its kind chosen from the latest reading. -/
def State.tyreAsk (s : State) (t : Tyre) (goal : Nat) (origin : Origin) : Ask where
  cls := .tyre
  nodes := [t.managed]
  goal := goal
  origin := origin
  kind := tyreKind (s.pressure t.node) goal

/-! ### Completion reports (R162) -/

/-- A COMPLETION report to an origin that is a master; AUTO is sent nothing. -/
def Ev.completion (o : Origin) (d : Desc) (goal : Nat) (x : Ending) (e : Ev) : Ev :=
  match o with
  | .auto => e
  | .master m => e.send m codeCompletion (completionBytes d goal x) false

/-- The reports of an end: to the origin, and to the pending goal's origin unless it is the same master (R63). A master that is both is
sent one report, with the goal in force and not the pending one (R162, notes/assumptions/44.md). Of two reports the origin's is queued
first, a choice of the model that shows where CAB and BRAKE share the CAN queue (notes/assumptions/47.md). -/
def Ev.endReports (d : Desc) (x : Ending) (e : Ev) : Ev :=
  let e' := e.completion d.origin d d.goal x
  match d.pending with
  | some p => if p.origin = d.origin then e' else e'.completion p.origin d p.goal x
  | none => e'

/-! ### Sequence points -/

/-- The retirement test over a live list, oldest first (R68): `fills` and `vents` say whether an older transfer of that
family stands on it. The points that have no older transfer in their pred set go; the result is the list that stays and
the ids that retire, oldest first. -/
def retireWalk (fills vents : Bool) : List LiveRec → List LiveRec × List Nat
  | [] => ([], [])
  | .transfer d :: r =>
    let k := retireWalk (fills || d.kind.isFill) (vents || !d.kind.isFill) r
    (.transfer d :: k.1, k.2)
  | .point p :: r =>
    let k := retireWalk fills vents r
    if (p.pred.fill && fills) || (p.pred.vent && vents) then (.point p :: k.1, k.2) else (k.1, p.id :: k.2)

/-- The retirement test of every live point (R68); a retirement starts a scan on each IDLE gallery. -/
def Ev.testPoints (e : Ev) : Ev :=
  let k := retireWalk false false e.st.dqm.live
  if k.2.isEmpty then e
  else (e.on fun s => { s with dqm.live := k.1, dqm.free := s.dqm.free ++ k.2 }).triggerBoth

/-- Some live point older than the record of an id holds back a step kind (R67). -/
def heldByPoint (id : Nat) (k : StepKind) : List LiveRec → Bool
  | [] => false
  | .transfer d :: r => if d.id = id then false else heldByPoint id k r
  | .point p :: r => (if k.isFill then p.succ.fill else p.succ.vent) || heldByPoint id k r

/-! ### Refusal and starvation (R60) -/

/-- A counter increased by one, held at 255. -/
def starveUp (n : Nat) : Nat := if n < starveMax then n + 1 else n

/-- The refusal of a transfer ask: its class's counter moves and STARVED is latched naming the ask's nodes. -/
def Ev.refuse (c : Cls) (ns : List Managed) (e : Ev) : Ev :=
  Ev.latch .starved (ns.map Managed.node) <| e.on fun s =>
    match c with
    | .height => { s with dqm.starve.height := starveUp s.dqm.starve.height }
    | .lift => { s with dqm.starve.lift := starveUp s.dqm.starve.lift }
    | .tyre => { s with dqm.starve.tyre := starveUp s.dqm.starve.tyre }

/-- The refusal of a point ask: the POINT counter moves and STARVED is latched naming no node. -/
def Ev.refusePoint (e : Ev) : Ev :=
  Ev.latch .starved [] <| e.on fun s => { s with dqm.starve.point := starveUp s.dqm.starve.point }

/-! ### Allocation (R58) -/

/-- The record at allocation (section 4.2). -/
def Ask.record (a : Ask) (id maxSteps : Nat) : Desc where
  id := id
  cls := a.cls
  nodes := a.nodes
  goal := a.goal
  pending := none
  origin := a.origin
  state := .queued
  kind := a.kind
  stepGoal := none
  start := none
  stepsLeft := maxSteps
  noProgress := 0
  wait := .clear
  torn := none

/-- The tyre's persistence timer stopped and its ask-pending mark cleared (R37, R38, R58). -/
def State.tyreServed (s : State) (t : Tyre) : State :=
  { s with tgu.tyres := s.tgu.tyres.modify t fun r => { r with timer := none, pending := false } }

/-- The tyres among the managed nodes of a list, served. -/
def State.tyresServed (s : State) : List Managed → State
  | [] => s
  | m :: r =>
    match m.node.tyre with
    | some t => (s.tyreServed t).tyresServed r
    | none => s.tyresServed r

/-- The hand-off of a new descriptor to its loop (R58): a TYRE descriptor stops the tyre's timer and clears its mark; a
HEIGHT descriptor stops the height persistence timer (R110) and clears the height ask-pending mark (R104). -/
def State.becameLive (s : State) (a : Ask) : State :=
  match a.cls with
  | .tyre => s.tyresServed a.nodes
  | .height => { s with hlc.persist := none, hlc.pending := false }
  | .lift => s

/-- An ask decided against the free list (R58): the last free record is kept for the HEIGHT class. -/
def Ev.allocate (a : Ask) (e : Ev) : Ev × AskResult :=
  match e.st.dqm.free with
  | [] => (e.refuse a.cls a.nodes, .refused)
  | id :: rest =>
    if rest.isEmpty && a.cls != .height then (e.refuse a.cls a.nodes, .refused)
    else
      ((e.on fun s =>
          State.becameLive
            { s with
              dqm.free := rest
              dqm.live := s.dqm.live ++ [.transfer (a.record id (s.ws.maxSteps.get a.cls))] } a).triggerBoth,
        .allocated id)

/-- A point placed as the youngest record, or refused under the reserve (R58, R65, R66); a placed point is tested in the
same event. -/
def Ev.placePoint (pred succ : FamilySet) (origin : Origin) (e : Ev) : Ev × Option Nat :=
  match e.st.dqm.free with
  | id :: second :: rest =>
    let p : Point := { id := id, pred := pred, succ := succ, origin := origin }
    ((e.on fun s =>
        { s with dqm.free := second :: rest, dqm.live := s.dqm.live ++ [.point p] }).testPoints, some id)
  | _ => (e.refusePoint, none)

/-! ### Merging (R61, R62) -/

/-- A merge into a QUEUED descriptor: goal, origin and step kind replaced, steps left and the no-progress count afresh,
SUPERSEDED to a displaced master. A change of family is tested by the points; either way each IDLE gallery scans. -/
def Ev.mergeQueued (d : Desc) (a : Ask) (e : Ev) : Ev :=
  let e' := (e.completion d.origin d d.goal .superseded).on fun s =>
    s.putDesc { d with
      goal := a.goal, origin := a.origin, kind := a.kind, stepsLeft := s.ws.maxSteps.get d.cls,
      noProgress := 0, wait := .clear }
  let e'' := if d.kind.isFill = a.kind.isFill then e' else e'.testPoints
  e''.triggerBoth

/-- A merge into a descriptor in flight: the goal is stored as the pending goal with the class maximum in force (R74), SUPERSEDED to
the master whose pending goal it replaces. -/
def Ev.mergePending (d : Desc) (a : Ask) (e : Ev) : Ev :=
  let e' := match d.pending with
    | some p => e.completion p.origin d p.goal .superseded
    | none => e
  e'.on fun s => s.putDesc { d with pending := some ⟨a.goal, a.origin, s.ws.maxSteps.get d.cls⟩ }

/-- An ask taken by the descriptor manager (R58, R59): a merge into the live descriptor that shares a node, a refusal if
that one is torn, or else an allocation. -/
def Ev.ask (a : Ask) (e : Ev) : Ev × AskResult :=
  match e.st.descSharing a.nodes with
  | some d =>
    if d.torn.isSome then (e.refuse a.cls a.nodes, .refused)
    else if d.state = .queued then (e.mergeQueued d a, .merged d.id)
    else (e.mergePending d a, .merged d.id)
  | none => e.allocate a

/-! ### Freeing (R63) -/

/-- A record taken off the live list; its id joins the tail of the free list. -/
def State.unlink (s : State) (id : Nat) : State :=
  { s with
    dqm.live := s.dqm.live.filter fun r => r.id != id
    dqm.free := s.dqm.free ++ [id] }

/-- A transfer leaves the live list with an outcome: the COMPLETION reports go out unless the teardown has sent them
(R63). -/
def Ev.dropTransfer (d : Desc) (x : Ending) (e : Ev) : Ev :=
  Ev.on (if x = .torn then e else e.endReports d x) fun s => s.unlink d.id

/-- A transfer freed with an outcome, before its owning loop is told: it leaves the live list and the points are tested
(R63, R68). That the test comes before the owning loop is the model's choice (notes/assumptions/46.md). -/
def Ev.unlinkTransfer (d : Desc) (x : Ending) (e : Ev) : Ev := (e.dropTransfer d x).testPoints

end Sys2Proof.Machine
end

