-- ==== Sys2Proof/Machine/Targets.lean ====
section
/-! DEFINITION. The target unit's active targets (R29 to R33), the tyre loop (R36 to R38) and the asks of a basis change
(R20). -/

namespace Sys2Proof.Machine

/-! ### The active target (R29, R30) -/

/-- The load-follow result (R30) from the side load, the loaded-axle count, the ROAD holding value, RATED and
GUARD_FLOOR; P while the side load is unset. -/
def loadFollowResult (load : Option Nat) (axles p rated guardFloor : Nat) : Nat :=
  match load with
  | none => p
  | some l =>
    if p < guardFloor then p
    else max guardFloor (min p (ceilDiv (p * (l / axles)) rated))

/-- A tyre is on a lifted axle when it is T1L or T1R and the lift state is LIFTED (R29). -/
def State.onLifted (s : State) (t : Tyre) : Bool := t.onLiftAxle && s.llu.lift == .lifted

/-- The base value of a tyre (R29, first stage), with the override taken as given. -/
def State.baseTarget (s : State) (t : Tyre) (override : Option Nat) : Nat :=
  match override with
  | some v => v
  | none =>
    if s.tgu.basis = .field then s.ws.field.get t
    else if s.ws.loadFollow && !s.onLifted t then
      loadFollowResult (s.llu.load.get t.side) s.llu.axles (s.ws.road.get t) s.ws.rated s.ws.guardFloor
    else s.ws.road.get t

/-- The active target of a tyre formed in both stages (R29), with the override taken as given: while the speed guard is on
a base value below GUARD_FLOOR is raised to it. -/
def State.formTarget (s : State) (t : Tyre) (override : Option Nat) : Nat :=
  let base := s.baseTarget t override
  if s.tgu.guard.on then max base s.ws.guardFloor else base

/-- The targets formed in the start event (R39): from the ROAD basis with side loads unset and the guard raise applied. -/
def startTargets (w : Settings) : PerTyre Nat :=
  ⟨max w.road.t1l w.guardFloor, max w.road.t1r w.guardFloor, max w.road.t2l w.guardFloor,
   max w.road.t2r w.guardFloor, max w.road.t3l w.guardFloor, max w.road.t3r w.guardFloor⟩

/-! ### Small updates of a tyre's record -/

def State.setTarget (s : State) (t : Tyre) (g : Nat) : State :=
  { s with tgu.tyres := s.tgu.tyres.modify t fun r => { r with target := g } }

def State.setOverride (s : State) (t : Tyre) (o : Option Nat) : State :=
  { s with tgu.tyres := s.tgu.tyres.modify t fun r => { r with override := o } }

def State.setTyreTimer (s : State) (t : Tyre) (x : Timer) : State :=
  { s with tgu.tyres := s.tgu.tyres.modify t fun r => { r with timer := x } }

def State.setTyrePending (s : State) (t : Tyre) (b : Bool) : State :=
  { s with tgu.tyres := s.tgu.tyres.modify t fun r => { r with pending := b } }

/-- The tyre's reading is unordered or more than the tyre tolerance off a target (R20, R31). -/
def State.offTolerance (s : State) (t : Tyre) (target : Nat) : Bool :=
  match s.pressure t.node with
  | some g => decide (tyreTolerance < absDiff g target)
  | none => true

/-! ### Asks of the tyre loop -/

/-- An AUTO ask for a tyre toward its active target; a refusal sets the ask-pending mark (R38, R60). -/
def Ev.askTyre (t : Tyre) (e : Ev) : Ev :=
  let r := e.ask (e.st.tyreAsk t (e.st.tgu.tyres.get t).target .auto)
  match r.2 with
  | .refused => r.1.on fun s => s.setTyrePending t true
  | _ => r.1

/-! ### Recomputation (R31) -/

/-- Why a target is recomputed (R31): a load-follow recomputation, a basis change, whose asks R20 makes, or another
cause. -/
inductive Cause where
  | loadFollow | basis | other
deriving DecidableEq, Repr

/-- Whether a new value replaces the active target (R31). -/
def Cause.replaces (c : Cause) (old new : Nat) : Bool :=
  match c with
  | .loadFollow => decide (retargetStep ≤ absDiff new old)
  | _ => new != old

/-- A replaced target handed on (R31): merged into the tyre's live descriptor, or asked for at once. -/
def Ev.retargeted (c : Cause) (t : Tyre) (old new : Nat) (e : Ev) : Ev :=
  if (e.st.descOf t.managed).isSome then e.askTyre t
  else if c = .other && !e.st.faulted t.node && decide (retargetStep ≤ absDiff new old) && e.st.offTolerance t new then
    (e.on fun s => s.setTyreTimer t none).askTyre t
  else e

/-- One tyre's target recomputed and, where the value replaces it, handed on (R29, R31). Nothing is recomputed while the
mode is LOADING (R32) or before RUN (R39). -/
def Ev.recompute (c : Cause) (t : Tyre) (e : Ev) : Ev :=
  if e.st.tgu.mode = .loading ∨ e.st.sts.phase ≠ .run then e
  else
    let r := e.st.tgu.tyres.get t
    let new := e.st.formTarget t r.override
    if c.replaces r.target new then
      (e.on fun s => s.setTarget t new).retargeted c t r.target new
    else e

/-- The recomputation of a list of tyres, in order. -/
def Ev.recomputeList (c : Cause) : List Tyre → Ev → Ev
  | [], e => e
  | t :: ts, e => Ev.recomputeList c ts (e.recompute c t)

/-- Every tyre recomputed, one after the other with what R31 does about each. The order, T1L to T3R, is the model's choice: R70 gives
node order to the asks of R20 alone (notes/assumptions/36.md). -/
def Ev.recomputeAll (c : Cause) (e : Ev) : Ev := e.recomputeList c Tyre.list

/-- A load-follow recomputation (R31) of some tyres, in node order (notes/assumptions/36.md). The first one in RUN takes every tyre, so
that the targets come afresh from the side loads that are held (R39). While the mode is LOADING or before RUN there is none, and the
first one is still to come (R32, notes/assumptions/37.md). -/
def Ev.loadFollow (ts : List Tyre) (e : Ev) : Ev :=
  if e.st.tgu.mode = .loading ∨ e.st.sts.phase ≠ .run then e
  else
    (e.on fun s => { s with tgu.followed := true }).recomputeList .loadFollow
      (if e.st.tgu.followed then ts else Tyre.list)

/-- The load-follow recomputation of one side's tyres, on a new settled side load (R121). -/
def Ev.recomputeSide (sd : Side) (e : Ev) : Ev := e.loadFollow (Tyre.list.filter fun t => t.side == sd)

/-- The asks a basis change makes for tyres without a live descriptor (R20), in node order: not faulted, the reading
unordered or off the new target by more than the tolerance. -/
def State.basisAsks (s : State) : List Ask :=
  (Tyre.list.filter fun t =>
      !s.faulted t.node && s.offTolerance t (s.tgu.tyres.get t).target && (s.descOf t.managed).isNone).map
    fun t => s.tyreAsk t (s.tgu.tyres.get t).target .auto

/-! ### The tyre loop (R36 to R38) -/

/-- The conditions of R36 under which the loop acts on an arrival. -/
def State.tyreLoopActs (s : State) (t : Tyre) : Bool :=
  s.tgu.mode != .loading && !s.faulted t.node && (s.descOf t.managed).isNone && s.sts.phase == .run

/-- The deadband test of R36 on a reading: the timer starts outside 20 kPa, stops inside, and an unordered reading does
nothing. -/
def State.tyreDeadbandTest (s : State) (t : Tyre) : State :=
  let r := s.tgu.tyres.get t
  match s.pressure t.node with
  | none => s
  | some g =>
    if tyreDeadband < absDiff g r.target then s.setTyreTimer t (s.timerKeep r.timer tyrePersistence)
    else s.setTyreTimer t none

/-- The tyre loop on a reading arrival: a set ask-pending mark first (R38), then the deadband test (R36), which an ask made
on this arrival replaces. -/
def Ev.tyreLoop (t : Tyre) (e : Ev) : Ev :=
  if e.st.tyreLoopActs t then
    let r := e.st.tgu.tyres.get t
    match r.pending, e.st.pressure t.node with
    | true, some g =>
      if absDiff g r.target ≤ tyreTolerance then
        e.on fun s => (s.setTyrePending t false).tyreDeadbandTest t
      else e.askTyre t
    | true, none => e
    | false, _ => e.on fun s => s.tyreDeadbandTest t
  else e

/-- The expiry of a tyre's persistence timer (R37): the timer stops in every case, and a valid reading more than 20 kPa off
asks, where the tyre has no live descriptor, is not faulted and the mode is not LOADING. -/
def Ev.tyreExpiry (t : Tyre) (e : Ev) : Ev :=
  let e' := e.on fun s => s.setTyreTimer t none
  let target := (e'.st.tgu.tyres.get t).target
  if holdsOf (e'.st.pressure t.node) (fun g => decide (tyreDeadband < absDiff g target))
      && (e'.st.descOf t.managed).isNone && !e'.st.faulted t.node && e'.st.tgu.mode != .loading then
    e'.askTyre t
  else e'

end Sys2Proof.Machine
end

