-- ==== Sys2Proof/Machine/Supervision.lean ====
section
/-! DEFINITION. The supervision unit's own part: the decay monitors (R132 to R135) and the setting and clearing of a fault
flag (R136, R139). What the other blocks do with a fault is in Faults.lean. -/

namespace Sys2Proof.Machine

/-- A monitor reset (R132): ring emptied, reference absent, both timers stopped, armed cleared. -/
def State.resetMonitor (s : State) (w : Watched) : State :=
  { s with spu.monitors := s.spu.monitors.set w Monitor.start }

/-- The monitor of a node reset, if the node has one. -/
def State.resetMonitorOf (s : State) (n : Node) : State :=
  match n.watched with
  | some w => s.resetMonitor w
  | none => s

/-- The monitors of a node list reset (R98: a step of these nodes has finished). -/
def State.resetMonitors (s : State) : List Managed → State
  | [] => s
  | m :: r => (s.resetMonitorOf m.node).resetMonitors r

/-- Entry to SUSPENDED (R132): both timers stop, the ring and the reference are kept. -/
def State.suspendMonitors (s : State) : List Managed → State
  | [] => s
  | m :: r =>
    match m.node.watched with
    | some w =>
      State.suspendMonitors
        { s with spu.monitors := s.spu.monitors.modify w fun x => { x with snapshot := none, window := none } } r
    | none => s.suspendMonitors r

/-- A monitor that starts from one reading: its ring holds it alone, it is the reference, both timers run from their
full intervals and armed is set (R133, R134). -/
def State.freshMonitor (s : State) (g : Nat) : Monitor where
  armed := true
  ring := [g]
  snapshot := s.timer snapshotTime
  reference := some g
  window := s.timer windowTime

/-- An armed monitor's reading shows a fast leak: at or below the oldest snapshot less 40 kPa (R134). -/
def Monitor.fastLeak (x : Monitor) (g : Nat) : Bool :=
  match x.ring with
  | oldest :: _ => decide (g + Machine.fastLeak ≤ oldest)
  | [] => false

/-- A pressure arrival at a decay monitor (R133, R134). R133 has an armed monitor test a VALID arrival under R135, whose test belongs to
the expiry of the window: the model reads it as the fast-leak test of R134, and makes that alone (notes/assumptions/52.md). -/
def Ev.monitorArrival (w : Watched) (e : Ev) : Ev :=
  match e.st.monitorState w, e.st.pressure w.node with
  | .active, some g =>
    let x := e.st.spu.monitors.get w
    let restart (e : Ev) : Ev :=
      e.on fun s => { s with spu.monitors := s.spu.monitors.set w (s.freshMonitor g) }
    if x.armed then
      if x.fastLeak g then restart (e.latch .leakFast [w.node]) else e
    else restart e
  | _, _ => e

/-- A snapshot taken (R133): the latest valid reading is appended, the oldest of five removed, and the timer starts again. -/
def State.snapshot (s : State) (w : Watched) : State :=
  let x := s.spu.monitors.get w
  let ring := match s.pressure w.node with
    | some g => (x.ring ++ [g]).drop (x.ring.length + 1 - snapshotRing)
    | none => x.ring
  { s with spu.monitors := s.spu.monitors.set w { x with ring := ring, snapshot := s.timer snapshotTime } }

/-- The slow-leak test at the end of a window (R135): a valid reading at or below the reference less 20 kPa latches
LEAK_SLOW, a valid reading becomes the reference, and the window timer starts again. -/
def Ev.windowEnd (w : Watched) (e : Ev) : Ev :=
  let x := e.st.spu.monitors.get w
  let again (ref : Option Nat) (e : Ev) : Ev :=
    e.on fun s =>
      { s with spu.monitors := s.spu.monitors.set w { x with reference := ref, window := s.timer windowTime } }
  match e.st.pressure w.node with
  | some g =>
    let leak := match x.reference with
      | some r => decide (g + slowLeak ≤ r)
      | none => false
    again (some g) (if leak then e.latch .leakSlow [w.node] else e)
  | none => again x.reference e

/-- The fault flag of a node set, NODE_FAULT latched and its monitor reset: what R136 does in the supervision unit. -/
def Ev.flagFault (n : Node) (e : Ev) : Ev :=
  Ev.latch .nodeFault [n] <| e.on fun s =>
    State.resetMonitorOf { s with spu.faults := s.spu.faults.set n true } n

end Sys2Proof.Machine
end

