-- ==== Sys2Proof/Machine/Lift.lean ====
section
/-! DEFINITION. The load and lift unit: settled side loads (R119 to R121), the lift aim and timer (R124, R125), the lift
decision (R127), and what the freeing of a LIFT descriptor does (R128). -/

namespace Sys2Proof.Machine

/-- Every tyre's target recomputed on a change of the lift state, and the LFT monitor reset where the state leaves LIFTED
(R123, R132). -/
def Ev.setLift (x : LiftState) (e : Ev) : Ev :=
  let old := e.st.llu.lift
  if x = old then e
  else
    Ev.loadFollow Tyre.list <| e.on fun s =>
      let s' := { s with llu.lift := x }
      if old = .lifted then s'.resetMonitor .lft else s'

/-- The AUTO lift condition (R125). -/
def State.autoLift (s : State) : Bool :=
  s.llu.setting == .auto && s.tgu.mode == .road && s.speedState != .unknown
    && holdsOf s.llu.total (fun t => decide (t < s.ws.liftBelow)) && !s.llu.aim && !s.faulted .lft

/-- The test of R125: the lift timer starts when the condition becomes true, stops when it becomes false, and is left
running otherwise. -/
def State.liftTimerTest (s : State) : State :=
  { s with llu.liftT := if s.autoLift then s.timerKeep s.llu.liftT liftTime else none }

/-- The lift aim set, and the AUTO lift condition tested (R124, R125). -/
def State.setAim (s : State) (aim : Bool) : State :=
  State.liftTimerTest { s with llu.aim := aim }

/-- The ask of the lift decision (R127): its goal and the lift state when the ask is taken. -/
def State.liftWants (s : State) : Option (Nat × LiftState) :=
  let free := (s.descOfClass .lift).isNone
  match s.llu.lift, s.llu.aim with
  | .lowered, true => some (liftGoal, .lifting)
  | .lowering, true => some (liftGoal, .lifting)
  | .lifted, false => some (0, .lowering)
  | .lifting, false => some (0, .lowering)
  | .lowered, false =>
    if free && holdsOf (s.pressure .lft) (fun g => decide (liftEmpty < g)) then some (0, .lowering) else none
  | .lifted, true =>
    if free && holdsOf (s.pressure .lft) (fun g => decide (g < liftHeld)) then some (liftGoal, .lifted) else none
  | _, _ => none

/-- The lift decision (R127): nothing is asked while LFT is faulted or before RUN; an ask that is taken changes the lift
state, one that is refused leaves it. The result is absent where nothing was asked. -/
def Ev.liftDecide (origin : Origin) (e : Ev) : Ev × Option AskResult :=
  if e.st.faulted .lft ∨ e.st.sts.phase ≠ .run then (e, none)
  else
    match e.st.liftWants with
    | none => (e, none)
    | some (goal, next) =>
      let r := e.ask { cls := .lift, nodes := [.lft], goal := goal, origin := origin, kind := liftKind goal }
      match r.2 with
      | .refused => (r.1, some .refused)
      | x => (r.1.setLift next, some x)

/-- The lift decision with origin AUTO. -/
def Ev.liftAuto (e : Ev) : Ev := (e.liftDecide .auto).1

/-- A change of the aim followed by the decision with origin AUTO (R124). An event of R124's table that finds the aim at its value
already makes no decision (notes/assumptions/43.md). -/
def Ev.aimTo (aim : Bool) (e : Ev) : Ev :=
  if e.st.llu.aim = aim then e else (e.on fun s => s.setAim aim).liftAuto

/-- The setting is AUTO or UP and the total lies above LOWER_ABOVE (R124). -/
def State.overloaded (s : State) : Bool :=
  s.llu.setting != .down && holdsOf s.llu.total (fun t => decide (s.ws.lowerAbove < t))

/-- The overload line of R124 and the decision that follows it. -/
def Ev.overloadTest (e : Ev) : Ev := if e.st.overloaded then e.aimTo false else e

/-- A side load from a settled reading: floor(g × LF / 64) (R119). -/
def sideLoad (g lf : Nat) : Nat := g * lf / 64

/-- A bellows arrival at the load and lift unit (R119, R121): a valid reading while the height-step mark is clear sets the
side's load and restarts its freshness; a changed load is handed to the target unit and to the lift logic. The target unit
takes the change before the lift logic does, by the axle count that the event found (notes/assumptions/49.md). -/
def Ev.settledLoad (sd : Side) (e : Ev) : Ev :=
  match e.st.pressure sd.bellows.node with
  | none => e
  | some g =>
    if e.st.llu.heightStep then e
    else
      let new := sideLoad g e.st.ws.lf
      let old := e.st.llu.load.get sd
      let e' := e.on fun s =>
        { s with llu.load := s.llu.load.set sd (some new), llu.fresh := s.llu.fresh.set sd (s.timer freshnessTime) }
      if old = some new then e'
      else ((e'.recomputeSide sd).on State.liftTimerTest).overloadTest

/-- The bag reads VALID and at or above 430 kPa: it holds the axle up (R128, R131). -/
def State.bagHolds (s : State) : Bool := holdsOf (s.pressure .lft) fun g => decide (liftHeld ≤ g)

/-- The bag reads VALID at or below 20 kPa (R128). -/
def State.bagEmpty (s : State) : Bool := holdsOf (s.pressure .lft) fun g => decide (g ≤ liftEmpty)

/-- The first LFT arrival after start, in whatever phase (R131): lift state and aim LIFTED when the bag holds, else both
LOWERED. -/
def Ev.firstLft (e : Ev) : Ev :=
  if e.st.llu.lftSeen then e
  else
    let up := e.st.bagHolds
    Ev.setLift (if up then .lifted else .lowered) <| e.on fun s =>
      State.liftTimerTest { s with llu.lftSeen := true, llu.aim := up }

/-- An LFT arrival at the load and lift unit: the first one settles the lift state (R131), and each in RUN makes the lift
decision (R127). -/
def Ev.lftArrival (e : Ev) : Ev := e.firstLft.liftAuto

/-- The lift state after the freeing of a LIFT descriptor (R128). -/
def State.liftAfter (s : State) (x : Ending) : LiftState :=
  match x, s.llu.lift with
  | .complete, .lifting => .lifted
  | .complete, .lifted => .lifted
  | .complete, _ => .lowered
  | _, _ => if s.bagHolds then .lifted else .lowered

/-- The stall outcome (R128, R138): LFT is faulted when the descriptor stalled and the bag is not VALID at or below
20 kPa. The descriptor has been freed already, so the fault has no descriptor to act on. -/
def Ev.liftStall (x : Ending) (e : Ev) : Ev :=
  if x = .stalled && !e.st.bagEmpty && !e.st.faulted .lft then e.flagFault .lft else e

/-- The freeing of a LIFT descriptor at the load and lift unit (R128): the lift state by the outcome; a failed lift gives
its aim up; a stall may fault the bag; the lift timer is tested (R125) and the decision follows. -/
def Ev.liftFreed (x : Ending) (e : Ev) : Ev :=
  let failed := x != .complete && e.st.llu.lift == .lifting
  let e1 := e.setLift (e.st.liftAfter x)
  let e2 := if failed then e1.on fun s => s.setAim false else e1
  ((e2.liftStall x).on State.liftTimerTest).liftAuto

/-- What the owning loop does when a transfer is freed (R63): the lift logic acts under R128; the tyre loop acts again at
the tyre's next reading, and the height loop state follows from the live list (R110). -/
def Ev.ownerFreed (d : Desc) (x : Ending) (e : Ev) : Ev :=
  match d.cls with
  | .lift => e.liftFreed x
  | .tyre => e
  | .height => e

/-- A transfer freed with an outcome, and its owning loop told (R63). R63 gives no order between that and the test of the points: here
the points come first, so that the ask of a freed LIFT transfer finds the ids that they gave back (notes/assumptions/46.md). -/
def Ev.freeTransfer (d : Desc) (x : Ending) (e : Ev) : Ev := (e.unlinkTransfer d x).ownerFreed d x

/-- A change of mode at the load and lift unit (R124, R130): FIELD and LOADING force the axle down; ROAD takes up a standing
UP where the total is set and at or below LOWER_ABOVE. The AUTO lift condition is tested (R125). -/
def Ev.liftMode (m : Mode) (e : Ev) : Ev :=
  let e' : Ev :=
    match m with
    | .road =>
      if (e.st.llu.setting == LiftSetting.up) && holdsOf e.st.llu.total (fun t => decide (t ≤ e.st.ws.lowerAbove)) then
        e.aimTo true
      else e
    | .field => e.aimTo false
    | .loading => e.aimTo false
  e'.on State.liftTimerTest

end Sys2Proof.Machine
end

