-- ==== Sys2Proof/Machine/Steps.lean ====
section
/-! DEFINITION. The gallery controller's step in flight: valve outputs (R3 to R5), the end of a step and cuts (R88, R92),
its finish (R98), teardown (R72, R94, R95), and the end tests in FLOWING (R84 to R87, R47). -/

namespace Sys2Proof.Machine

/-! ### Valve outputs -/

/-- Every output of a gallery de-energised: on A the RSV valve and the A valves, on B the exhaust valve and the B valves. -/
def Valves.shut (v : Valves) : Gallery → Valves
  | .a => { v with rsv := false, a := PerManaged.fill false }
  | .b => { v with exhaust := false, b := PerManaged.fill false }

/-- The node valve of a managed node on a gallery. -/
def Valves.setNode (v : Valves) (g : Gallery) (m : Managed) (on : Bool) : Valves :=
  match g with
  | .a => { v with a := v.a.set m on }
  | .b => { v with b := v.b.set m on }

/-- The node valves of a list energised on a gallery. -/
def Valves.openNodes (v : Valves) (g : Gallery) (ms : List Managed) : Valves :=
  ms.foldl (fun v m => v.setNode g m true) v

/-- The outputs a step kind energises (R4, R5): the node valves of the step node list with the RSV valve for a fill, with
the exhaust valve for a vent, and with neither for a cross step. -/
def Valves.openStep (v : Valves) (k : StepKind) (ms : List Managed) : Valves :=
  let v' := v.openNodes k.gallery ms
  match k with
  | .cross => v'
  | k => if k.isFill then { v' with rsv := true } else { v' with exhaust := true }

/-- The step node list at the grant (R75): the bellows of the step's side for a SIDE step, else the descriptor's node
list. -/
def stepNodes (d : Desc) : List Managed :=
  match d.kind with
  | .sideFill sd => [sd.bellows]
  | .sideVent sd => [sd.bellows]
  | _ => d.nodes

/-! ### The end of a step -/

/-- One gallery's record changed. -/
def State.modGallery (s : State) (g : Gallery) (f : GalleryRec → GalleryRec) : State :=
  { s with glc.galleries := s.glc.galleries.modify g f }

/-- The end of a step in OPENING or FLOWING (R88): its outputs de-energised, the end reason recorded, the open timer and the
step timeout stopped, the descriptor in CLOSING and the close timer started. A step in another phase is not ended. -/
def State.endStep (s : State) (g : Gallery) (r : EndReason) : State :=
  match s.served g with
  | none => s
  | some d =>
    if d.state.airMoves then
      (State.modGallery { s with glc.valves := s.glc.valves.shut g } g fun x =>
        { x with
          flight := x.flight.map fun f => { f with ending := some r }
          openT := none
          stepT := none
          closeT := s.timer closeTime }).modDesc d.id fun d => { d with state := .closing }
    else s

/-- A cut (R92): the step of a gallery ended with CUT where its descriptor meets a test. -/
def State.cutIf (s : State) (g : Gallery) (test : Desc → Bool) : State :=
  match s.served g with
  | none => s
  | some d => if test d then s.endStep g .cut else s

/-- A cut on both galleries (R92). -/
def State.cutBoth (s : State) (test : Desc → Bool) : State := (s.cutIf .a test).cutIf .b test

/-- The classes that the hold withholds, and whose steps light the beacon: HEIGHT and LIFT (R79, R116). -/
def Cls.movesDeck : Cls → Bool
  | .tyre => false
  | _ => true

/-- The finish of a step (R98): the step in flight is removed and the gallery goes to IDLE with its timers stopped; the
monitors of its nodes are reset, the height-step mark is cleared after a HEIGHT step, and the gallery scans (R78). -/
def Ev.finishStep (g : Gallery) (e : Ev) : Ev :=
  Ev.trigger g <| e.on fun s =>
    let s' := s.modGallery g fun x =>
      { x with flight := none, openT := none, stepT := none, closeT := none, settleT := none }
    match s.served g with
    | none => s'
    | some d =>
      let s'' := s'.resetMonitors d.nodes
      if d.cls = .height then { s'' with llu.heightStep := false } else s''

/-! ### Teardown and faults of a descriptor (R72, R94, R95, R114) -/

/-- The outcome that a torn descriptor is freed with. -/
def TornBy.ending : TornBy → Ending
  | .cancel => .torn
  | .fault => .faulted

/-- A descriptor that is not torn taken down (R72, R94): it leaves the live list at once while QUEUED or SETTLING, its step is cut
and it is torn in OPENING or FLOWING, and it is torn in CLOSING. The flag says whether the record has left the live list; the test of
the points and the owning loop's part are then still to come. -/
def Ev.takeDown (by_ : TornBy) (d : Desc) (e : Ev) : Ev × Bool :=
  match d.state with
  | .queued => (e.dropTransfer d by_.ending, true)
  | .settling => ((e.finishStep d.kind.gallery).dropTransfer d by_.ending, true)
  | .closing => (e.on fun s => s.modDesc d.id fun d => { d with torn := some by_ }, false)
  | _ => (e.on fun s => (s.endStep d.kind.gallery .cut).modDesc d.id fun d => { d with torn := some by_ }, false)

/-- A live transfer descriptor torn down by a CANCEL or by a fault (R72, R94). A descriptor already torn is left. The TORN reports of
a CANCEL go out now (R72); the report of a fault goes out at the freeing (R63). -/
def Ev.tearDown (by_ : TornBy) (d : Desc) (e : Ev) : Ev × Bool :=
  if d.torn.isSome then (e, false)
  else
    match by_ with
    | .cancel => (e.endReports d .torn).takeDown by_ d
    | .fault => e.takeDown by_ d

/-- A live transfer descriptor torn down by a fault of its node or by a lockout, with outcome FAULTED (R94, R114). The points are tested
before the owning loop is told (notes/assumptions/46.md). -/
def Ev.faultDown (d : Desc) (e : Ev) : Ev :=
  let r := e.tearDown .fault d
  if r.2 then (r.1.testPoints).ownerFreed d .faulted else r.1

/-- A node leaves the step node list of whichever step names it (R75, R94). -/
def State.dropStepNode (s : State) (m : Managed) : State :=
  let drop (x : GalleryRec) : GalleryRec :=
    { x with flight := x.flight.map fun f => { f with nodes := f.nodes.filter fun n => n != m } }
  (s.modGallery .a drop).modGallery .b drop

/-! ### End tests in FLOWING -/

/-- The step in flight on a gallery whose descriptor is in FLOWING, with its step node list. -/
def State.flowing (s : State) (g : Gallery) : Option (Desc × Flight) :=
  match s.served g, (s.glc.galleries.get g).flight with
  | some d, some f => if d.state = .flowing then some (d, f) else none
  | _, _ => none

/-- A tested reading is unordered: the step ends with SENSOR and SENSOR_INVALID is latched naming its node (R87, R15). -/
def Ev.endSensor (g : Gallery) (n : Node) (e : Ev) : Ev :=
  Ev.latch .sensorInvalid [n] <| e.on fun s => s.endStep g .sensor

/-- The value has reached the step goal: at or above it for the FILL family, at or below it for the VENT family (R84,
R85). -/
def reached (isFill : Bool) (stepGoal : Option Nat) (v : Nat) : Bool :=
  match stepGoal with
  | some t => if isFill then decide (t ≤ v) else decide (v ≤ t)
  | none => false

/-- The end test of a CROSS step on the values of its two sides, the arriving one valid (R86): near enough, the step ends with BALANCED.
An unordered value of the other side makes the comparison false and the step runs on, and SENSOR_INVALID is latched naming that side's
bellows, as by every signalling test (R15, notes/assumptions/53.md). -/
def Ev.crossEnd (g : Gallery) (l r : Option Nat) (near : Nat → Nat → Bool) (e : Ev) : Ev :=
  match l, r with
  | some a, some b => if near a b then e.on fun s => s.endStep g .balanced else e
  | none, some _ => e.latch .sensorInvalid [.bll]
  | some _, none => e.latch .sensorInvalid [.blr]
  | none, none => e.latch .sensorInvalid [.bll, .blr]

/-- The end tests of a gallery on a pressure arrival of a managed node: a FILL or VENT step against its step goal (R84), a
CROSS step against the other bellows (R86), an unordered value (R87). -/
def Ev.pressureEnd (g : Gallery) (m : Managed) (e : Ev) : Ev :=
  match e.st.flowing g with
  | none => e
  | some (d, f) =>
    if f.nodes.contains m then
      match d.kind, e.st.pressure m.node with
      | .fill, none => e.endSensor g m.node
      | .vent, none => e.endSensor g m.node
      | .cross, none => e.endSensor g m.node
      | .fill, some v => if reached true d.stepGoal v then e.on fun s => s.endStep g .goal else e
      | .vent, some v => if reached false d.stepGoal v then e.on fun s => s.endStep g .goal else e
      | .cross, some _ =>
        e.crossEnd g (e.st.pressure .bll) (e.st.pressure .blr) fun l r => decide (absDiff l r < balanceKpa)
      | _, _ => e
    else e

/-- The floor test of a fill in FLOWING on an RSV arrival (R47, R84): at or below FLOOR, or unordered, ends the step with
AIR_PAUSE and latches RESERVE_REACHED; an unordered reading also latches SENSOR_INVALID naming RSV, before RESERVE_REACHED, which is
the model's order (notes/assumptions/39.md). -/
def Ev.floorTest (e : Ev) : Ev :=
  match e.st.flowing .a with
  | none => e
  | some (d, _) =>
    if d.kind.isFill then
      match e.st.pressure .rsv with
      | some v =>
        if v ≤ e.st.ws.floor then
          Ev.latch .reserveReached [] <| e.on fun s => s.endStep .a .airPause
        else e
      | none =>
        Ev.latch .reserveReached [] <| Ev.latch .sensorInvalid [.rsv] <| e.on fun s => s.endStep .a .airPause
    else e

/-- A side of a PAIR or SIDE step reaches its goal (R85): its bellows valve closes and its node leaves the step node list; when
the list is empty the step ends with GOAL. -/
def State.sideReached (s : State) (g : Gallery) (sd : Side) : State :=
  let s' := State.modGallery { s with glc.valves := s.glc.valves.setNode g sd.bellows false } g fun x =>
    { x with flight := x.flight.map fun f => { f with nodes := f.nodes.filter fun n => n != sd.bellows } }
  if ((s'.glc.galleries.get g).flight.map fun f => f.nodes.isEmpty).getD false then s'.endStep g .goal else s'

/-- The end tests of a gallery on a filtered height handed on for a side: PAIR and SIDE steps against the step goal (R85),
a CROSS step against the other side (R86), an unordered height (R87), which is named as its side's bellows. -/
def Ev.heightEnd (g : Gallery) (sd : Side) (e : Ev) : Ev :=
  match e.st.flowing g with
  | none => e
  | some (d, f) =>
    if d.cls = .height ∧ f.nodes.contains sd.bellows then
      match d.kind, e.st.height sd with
      | _, none => e.endSensor g sd.bellows.node
      | .cross, some _ =>
        e.crossEnd g (e.st.height .left) (e.st.height .right) fun l r => decide (absDiff l r ≤ balanceMm)
      | k, some v => if reached k.isFill d.stepGoal v then e.on fun s => s.sideReached g sd else e
    else e

end Sys2Proof.Machine
end

