-- ==== Sys2Proof/Machine/Height.lean ====
section
/-! DEFINITION. The height loop: the choice of a step kind (R101, R102), asks (R103, R104), the deadband and persistence
(R111, R112), height authority (R107 to R109), and what changes of mode and speed do to it (R100, R106). -/

namespace Sys2Proof.Machine

/-! ### The choice of a step kind (R101, R102) -/

/-- A SIDE step for a side with an error: a fill if the side is low, a vent if it is high. -/
def sideStep (sd : Side) (error : Int) : StepKind := if error < 0 then .sideFill sd else .sideVent sd

/-- A SIDE step for the side with the larger error; for equal errors, SIDE_VENT for the high side (lines 2 and 5). -/
def sideOfLarger (eL eR : Int) : StepKind :=
  if eR.natAbs < eL.natAbs then sideStep .left eL
  else if eL.natAbs < eR.natAbs then sideStep .right eR
  else if 0 < eL then .sideVent .left else .sideVent .right

/-- The choice of R101 for a goal, the two filtered heights and the two bellows readings; absent when the goal is met. -/
def chooseKind (goal fL fR : Nat) (pL pR : Option Nat) : Option StepKind :=
  let eL : Int := fL - goal
  let eR : Int := fR - goal
  if rollLimit < (eL - eR).natAbs then
    if (0 < eL ∧ eR < 0 ∧ holdsOf2 pL pR fun l r => decide (r + crossMargin ≤ l))
        ∨ (0 < eR ∧ eL < 0 ∧ holdsOf2 pL pR fun l r => decide (l + crossMargin ≤ r)) then some .cross
    else some (sideOfLarger eL eR)
  else if heightTolerance < eL.natAbs ∧ heightTolerance < eR.natAbs then
    if eL < 0 ∧ eR < 0 then some .pairFill
    else if 0 < eL ∧ 0 < eR then some .pairVent
    else some (sideOfLarger eL eR)
  else if heightTolerance < eL.natAbs then some (sideStep .left eL)
  else if heightTolerance < eR.natAbs then some (sideStep .right eR)
  else none

/-- What the choice gives on the readings as they stand: nothing while a filtered height is UNORDERED, else the choice of
R101. -/
def State.heightChoice (s : State) (goal : Nat) : Option (Option StepKind) :=
  match s.height .left, s.height .right with
  | some l, some r => some (chooseKind goal l r (s.pressure .bll) (s.pressure .blr))
  | _, _ => none

/-- The kind passed with a merge or chosen at a requeue (R102): the current kind while a filtered height is UNORDERED,
PAIR_FILL when the goal is met. -/
def State.heightKind (s : State) (goal : Nat) (current : StepKind) : StepKind :=
  match s.heightChoice goal with
  | none => current
  | some none => .pairFill
  | some (some k) => k

/-! ### Asks (R103, R104) -/

/-- An ask for the deck. -/
def heightAsk (goal : Nat) (origin : Origin) (k : StepKind) : Ask where
  cls := .height
  nodes := [.bll, .blr]
  goal := goal
  origin := origin
  kind := k

/-- What became of an immediate ask (R103): no ask (lines 1 and 5), no ask and the mark set (line 4), taken or refused by the
descriptor manager, or held for the point of a basis change (R70). -/
inductive HeightOutcome where
  | quiet
  | marked
  | asked (r : AskResult)
  | held (a : Ask)
deriving DecidableEq, Repr

def State.setHeightPending (s : State) (b : Bool) : State := { s with hlc.pending := b }

def State.stopPersist (s : State) : State := { s with hlc.persist := none }

def State.setHeightTarget (s : State) (mm : Nat) : State := { s with hlc.target := mm }

/-- The immediate ask of R103 for a new target, lines 1 to 6. With `hold` set, an ask that needs a new record is held (R70).
An ask that is made stops the persistence timer. -/
def Ev.immediateAsk (target : Nat) (origin : Origin) (hold : Bool) (e : Ev) : Ev × HeightOutcome :=
  if e.st.hlc.lockout.occupied then (e, .quiet)
  else
    match e.st.descOfClass .height with
    | some d =>
      let r := (e.on State.stopPersist).ask (heightAsk target origin (e.st.heightKind target d.kind))
      (r.1, .asked r.2)
    | none =>
      match e.st.heightChoice target with
      | none => (e.on fun s => s.setHeightPending true, .marked)
      | some none => (e, .quiet)
      | some (some k) =>
        let a := heightAsk target origin k
        if hold then (e.on State.stopPersist, .held a)
        else
          let r := (e.on State.stopPersist).ask a
          (r.1, .asked r.2)

/-- The target changed by the part itself, with the immediate ask of origin AUTO; a refusal sets the mark (R103). The result is
the ask that a basis change holds, if there is one. A target equal to the current one changes nothing. -/
def Ev.retarget (target : Nat) (hold : Bool) (e : Ev) : Ev × Option Ask :=
  if e.st.hlc.target = target then (e, none)
  else
    let r := (e.on fun s => s.setHeightTarget target).immediateAsk target .auto hold
    match r.2 with
    | .asked .refused => (r.1.on fun s => s.setHeightPending true, none)
    | .held a => (r.1, some a)
    | _ => (r.1, none)

/-- An allocation ask of the loop itself, of origin AUTO, with the kind of R101 for the height target (R104, R112). -/
def Ev.loopAsk (k : StepKind) (e : Ev) : Ev := (e.ask (heightAsk e.st.hlc.target .auto k)).1

/-! ### Nominal target (R100) -/

/-- The nominal target of a tyre basis. -/
def Settings.nominal (w : Settings) : Basis → Nat
  | .road => w.ride
  | .field => w.ride + w.fieldOffset

/-- The nominal target of the current mode: that of the mode's own basis, and in LOADING that of the basis it holds. -/
def State.nominal (s : State) : Nat :=
  match s.tgu.mode with
  | .road => s.ws.nominal .road
  | .field => s.ws.nominal .field
  | .loading => s.ws.nominal s.tgu.basis

/-! ### The loop (R110 to R112) -/

/-- The deadband D (R111). -/
def State.deadband (s : State) : Nat := if s.tgu.mode = .loading then deadbandLoading else deadbandDriving

/-- A side is VALID and off the target by more than D. -/
def State.sideOut (s : State) (sd : Side) : Bool :=
  holdsOf (s.height sd) fun f => decide (s.deadband < absDiff f s.hlc.target)

/-- A side is VALID and within D of the target. -/
def State.sideIn (s : State) (sd : Side) : Bool :=
  holdsOf (s.height sd) fun f => decide (absDiff f s.hlc.target ≤ s.deadband)

/-- The persistence interval for the mode and speed state as they stand (R111). -/
def State.persistTime (s : State) : Nat :=
  if s.tgu.mode = .loading then persistLoading
  else if s.speedState = .moving then persistMoving
  else persistStill

/-- The deadband test of a hand-off (R111). -/
def State.heightDeadbandTest (s : State) : State :=
  if s.sideOut .left || s.sideOut .right then
    { s with hlc.persist := s.timerKeep s.hlc.persist s.persistTime }
  else if s.sideIn .left && s.sideIn .right then s.stopPersist
  else s

/-- The ask-pending mark handled on a hand-off (R104). An ask that is refused, by a torn HEIGHT descriptor in HELD, leaves the mark set
(notes/assumptions/41.md). -/
def Ev.handleMark (e : Ev) : Ev :=
  match e.st.heightChoice e.st.hlc.target with
  | none => e
  | some none => e.on fun s => s.setHeightPending false
  | some (some k) => e.loopAsk k

/-- A filtered height handed to the loop in RUN (R104, R111): a set mark is handled in STEADY, PENDING and HELD; otherwise
STEADY and PENDING make the deadband test. -/
def Ev.heightHandOff (e : Ev) : Ev :=
  match e.st.loopState with
  | .lockedOut => e
  | .correcting => e
  | .held => if e.st.hlc.pending then e.handleMark else e
  | _ => if e.st.hlc.pending then e.handleMark else e.on State.heightDeadbandTest

/-- The expiry of the persistence timer (R112): the timer stops; a loop in PENDING whose deck is still out, both heights VALID,
asks. -/
def Ev.heightExpiry (e : Ev) : Ev :=
  let e' := e.on State.stopPersist
  if e.st.loopState = .pending ∧ (e.st.sideOut .left ∨ e.st.sideOut .right) then
    match e.st.heightChoice e.st.hlc.target with
    | some (some k) => e'.loopAsk k
    | _ => e'
  else e'

/-! ### Height authority (R107 to R109) -/

/-- Authority taken by the panel, or its timer started again (R107, R108). -/
def State.takeAuthority (s : State) : State :=
  { s with hlc.holder := true, hlc.authT := s.timer authorityTime }

/-- The holder becomes NONE and the timer stops (R107, R109). -/
def State.dropAuthority (s : State) : State := { s with hlc.holder := false, hlc.authT := none }

/-- A lapse of height authority (R109): nothing while the holder is NONE. -/
def Ev.lapse (e : Ev) : Ev :=
  if e.st.hlc.holder then Ev.latch .authorityLost [] (e.on State.dropAuthority) else e

/-! ### Changes of mode and of the vehicle's state -/

/-- A change of mode at the height loop (R100, R111, R116): the persistence timer stops; ROAD and FIELD set the target to their
nominal; the beacon follows the new request. -/
def Ev.heightMode (hold : Bool) (e : Ev) : Ev × Option Ask :=
  let e' := e.on fun s => s.stopPersist.beaconSync
  if e'.st.tgu.mode = .loading then (e', none) else e'.retarget e'.st.nominal hold

/-- A ride return of the part's own (R106). -/
def Ev.autoRideReturn (e : Ev) : Ev := (e.retarget e.st.nominal false).1

/-- A speed state change at the height loop: the persistence timer stops (R111), authority lapses on a change away from
STANDSTILL (R109), and MOVING makes a ride return (R106). -/
def Ev.heightSpeed (new : SpeedState) (e : Ev) : Ev :=
  let e1 := e.on State.stopPersist
  let e2 := if new = .standstill then e1 else e1.lapse
  if new = .moving then e2.autoRideReturn else e2

end Sys2Proof.Machine
end

