-- ==== Sys2Proof/Machine/Faults.lean ====
section
/-! DEFINITION. What a fault of a node and a failed height sensor do in every block: lockout causes (R114, R115), node
faults handed on (R136 to R138) and their clearing (R139, R140). -/

namespace Sys2Proof.Machine

/-! ### Lockout causes (R114, R115) -/

/-- The lockout cause set replaced by one with a cause added: when it goes from empty to not empty, the loop enters LOCKED_OUT,
which stops the persistence timer, clears the ask-pending mark and treats a live HEIGHT descriptor as a fault does. -/
def Ev.addCause (x : Lockout) (e : Ev) : Ev :=
  let e' := e.on fun s => { s with hlc.lockout := x }
  if e.st.hlc.lockout.occupied then e'
  else
    let e'' := e'.on fun s => s.stopPersist.setHeightPending false
    match e''.st.descOfClass .height with
    | some d => e''.faultDown d
    | none => e''

/-- The cause set with a side's sensor cause set or removed. -/
def Lockout.setSensor (x : Lockout) (sd : Side) (b : Bool) : Lockout :=
  match sd with
  | .left => { x with left := b }
  | .right => { x with right := b }

/-- A side's sensor cause. -/
def Lockout.sensor (x : Lockout) : Side → Bool
  | .left => x.left
  | .right => x.right

/-- The cause set with a side's bellows cause set or removed. -/
def Lockout.setBellows (x : Lockout) (sd : Side) (b : Bool) : Lockout :=
  match sd with
  | .left => { x with bll := b }
  | .right => { x with blr := b }

/-- The lockout and recovery part of a height arrival (R114, R115). `reached` says that this arrival brought the side's invalid
run to 10: SENSOR_INVALID is latched before the cause is added, so that its EVENT reports are queued ahead of the FAULTED report of a
descriptor that the lockout frees (notes/assumptions/48.md). -/
def Ev.heightSensor (sd : Side) (valid reached : Bool) (e : Ev) : Ev :=
  if valid then
    if e.st.hlc.lockout.sensor sd then
      let n := e.st.hlc.recovery.get sd + 1
      e.on fun s =>
        { s with
          hlc.recovery := s.hlc.recovery.set sd n
          hlc.lockout := if recoveryCount ≤ n then s.hlc.lockout.setSensor sd false else s.hlc.lockout }
    else e
  else
    let e1 := e.on fun s => { s with hlc.recovery := s.hlc.recovery.set sd 0 }
    if reached then
      let e2 := e1.latch .sensorInvalid [sd.bellows.node]
      if e2.st.hlc.lockout.sensor sd then e2 else e2.addCause (e2.st.hlc.lockout.setSensor sd true)
    else e1

/-! ### Node faults (R136) -/

/-- A fault at the gallery controller and the descriptor manager (R94): the descriptor naming the node is torn down, and the
node leaves the step node list. -/
def Ev.faultDescriptor (m : Managed) (e : Ev) : Ev :=
  match e.st.descOf m with
  | some d => (e.faultDown d).on fun s => s.dropStepNode m
  | none => e

/-- A fault at the block that looks after the node (R136): a bellows is a lockout cause, LFT ends the AUTO lift condition, and a
tyre's persistence timer and mark go. -/
def Ev.faultOwner (m : Managed) (e : Ev) : Ev :=
  match m with
  | .bll => if e.st.hlc.lockout.bll then e else e.addCause (e.st.hlc.lockout.setBellows .left true)
  | .blr => if e.st.hlc.lockout.blr then e else e.addCause (e.st.hlc.lockout.setBellows .right true)
  | .lft => e.on State.liftTimerTest
  | m =>
    match m.node.tyre with
    | some t => e.on fun s => s.tyreServed t
    | none => e

/-- A node faulted, with every hand-off of R136 in the order of its list (notes/assumptions/51.md); nothing where its flag is set
already. -/
def Ev.faultNode (n : Node) (e : Ev) : Ev :=
  if e.st.faulted n then e
  else
    let e' := e.flagFault n
    match n.managed with
    | some m => (e'.faultDescriptor m).faultOwner m
    | none => e'

/-- The managed nodes of a list faulted in order. -/
def Ev.faultNodes : List Managed → Ev → Ev
  | [], e => e
  | m :: ms, e => Ev.faultNodes ms (e.faultNode m.node)

/-- The sensor fault of an arrival whose updated entry has an invalid run of 10 (R137). -/
def Ev.sensorFault (n : Node) (e : Ev) : Ev :=
  if (e.st.msu.nodes.get n).run = runMax then e.faultNode n else e

/-! ### Clearing (R139, R140) -/

/-- One node of a FAULT_CLEAR: its flag is cleared and its monitor reset; a flag that was set is handed on. -/
def Ev.clearFault (n : Node) (e : Ev) : Ev :=
  let was := e.st.faulted n
  let e' := e.on fun s => State.resetMonitorOf { s with spu.faults := s.spu.faults.set n false } n
  if was then
    let e'' := e'.triggerBoth
    match n with
    | .bll => e''.on fun s => { s with hlc.lockout := s.hlc.lockout.setBellows .left false }
    | .blr => e''.on fun s => { s with hlc.lockout := s.hlc.lockout.setBellows .right false }
    | .lft => (e''.on State.liftTimerTest).liftAuto
    | _ => e''
  else e'

/-- The nodes of a list cleared in order. -/
def Ev.clearFaults : List Node → Ev → Ev
  | [], e => e
  | n :: ns, e => Ev.clearFaults ns (e.clearFault n)

end Sys2Proof.Machine
end

