-- ==== Sys2Proof/Machine/Account.lean ====
section
/-! DEFINITION. The air account: headroom and fill queries (R40 to R45), the reported headroom (R41), brake priority (R49,
R50) and the supply monitor (R51 to R53). -/

namespace Sys2Proof.Machine

/-! ### Headroom and fill queries -/

/-- The reservoir headroom H in AU (R40): 0 at or below FLOOR and for an unordered reading. -/
def headroom (vR floor : Nat) (g : Option Nat) : Nat :=
  match g with
  | some g => if floor < g then vR * (g - floor) / 100 else 0
  | none => 0

/-- The headroom from the latest RSV entry and the working values of V_R and FLOOR. -/
def State.headroom (s : State) : Nat := Machine.headroom s.ws.volume.rsv s.ws.floor (s.pressure .rsv)

/-- An answer of the air account (R42). -/
inductive FillAnswer where
  | step (goal cost : Nat)
  | air
  | noFill
deriving DecidableEq, Repr

/-- The pressure fill computation of R43: the step goal is the least of the goal, g_n + G and E; a usable step gains at least
10 kPa. -/
def pressureFill (h vR vN gR gN goal : Nat) : FillAnswer :=
  let gain := h * 100 / vN
  let ceiling := (vR * (gR - driveMargin) + vN * gN) / (vR + vN)
  let stepGoal := min goal (min (gN + gain) ceiling)
  if gN + minStepKpa ≤ stepGoal then .step stepGoal (ceilDiv (vN * (stepGoal - gN)) 100) else .air

/-- The height fill computation of R44: `sides` is s, `low` the lower height h, and `drive` whether every bellows being filled
has its drive margin. -/
def heightFill (h hc sides low target : Nat) (drive : Bool) : FillAnswer :=
  let stepGoal := min target (low + h / (hc * sides))
  if decide (low + minStepMm ≤ stepGoal) && drive then .step stepGoal (hc * sides * (stepGoal - low)) else .air

/-- The lower edge of the tolerance of a pressure goal (R42). -/
def lowerEdge (c : Cls) (goal : Nat) : Nat :=
  match c with
  | .lift => liftHeld
  | _ => goal - tyreTolerance

/-- The query of R42 for a FILL of one node. -/
def State.pressureQuery (s : State) (d : Desc) (m : Managed) : FillAnswer :=
  let reading := s.pressure m.node
  let h := s.headroom
  if holdsOf reading (fun g => decide (lowerEdge d.cls d.goal ≤ g)) then .noFill
  else if h = 0 then .air
  else
    match s.pressure .rsv with
    | some gR => pressureFill h s.ws.volume.rsv (s.ws.volume.get m.node) gR (reading.getD 0) d.goal
    | none => .air

/-- The query of R42 for a PAIR_FILL or SIDE_FILL of the given sides. -/
def State.heightQuery (s : State) (goal : Nat) (sides : List Side) : FillAnswer :=
  let h := s.headroom
  if sides.all (fun sd => holdsOf (s.height sd) fun f => decide (goal - heightTolerance ≤ f)) then .noFill
  else if h = 0 then .air
  else
    let heights := sides.map fun sd => (s.height sd).getD 0
    let low := heights.foldl min (heights.headD 0)
    let drive := sides.all fun sd =>
      holdsOf2 (s.pressure .rsv) (s.pressure sd.bellows.node) fun gR p => decide (p + driveMargin ≤ gR)
    heightFill h s.ws.hc sides.length low goal drive

/-- The sides that a step kind moves. -/
def StepKind.sides : StepKind → List Side
  | .sideFill sd => [sd]
  | .sideVent sd => [sd]
  | .fill => []
  | .vent => []
  | _ => [.left, .right]

/-- The answer to a fill query about a descriptor (R42). -/
def State.fillAnswer (s : State) (d : Desc) : FillAnswer :=
  match d.kind, d.nodes with
  | .fill, m :: _ => s.pressureQuery d m
  | .fill, [] => .air
  | k, _ => s.heightQuery d.goal k.sides

/-- A fill query (R40, R42): the headroom is computed at each one, so an unordered RSV latches SENSOR_INVALID naming RSV
whatever the answer. The query made in the event of the grant (R45) is this one: nothing that it reads changes between the test
and the grant of the same scan. -/
def Ev.fillQuery (d : Desc) (e : Ev) : Ev × FillAnswer :=
  let a := e.st.fillAnswer d
  match e.st.pressure .rsv with
  | some _ => (e, a)
  | none => (e.latch .sensorInvalid [.rsv], a)

/-- The reported headroom recomputed at an RSV arrival (R41). -/
def State.reportHeadroom (s : State) : State := { s with aac.reported := s.headroom }

/-! ### Brake priority (R49, R50) -/

/-- The flag that the table of R49 gives. -/
def State.nextPriority (s : State) : Bool :=
  let v := s.tgu.vehicle
  if s.aac.priority then
    !(holdsOf v.brakePressure (fun g => decide (s.ws.brakeMin + brakeHysteresis ≤ g)) && v.speedState != .unknown)
  else
    !holdsOf v.brakePressure (fun g => decide (s.ws.brakeMin ≤ g)) || v.speedState == .unknown

/-- A decision on brake priority (R49, R50): turning ON latches BRAKE_PRIORITY and cuts a fill step; turning OFF scans
gallery A. -/
def Ev.brakeDecision (e : Ev) : Ev :=
  let p := e.st.nextPriority
  if p = e.st.aac.priority then e
  else
    let e' := e.on fun s => { s with aac.priority := p }
    if p then (e'.latch .brakePriority []).on fun s => s.cutBoth fun d => d.kind.isFill
    else e'.trigger .a

/-! ### The supply monitor (R51 to R53) -/

/-- The window opened by a reading, where it lies below 800 kPa and gallery A is IDLE (R51). -/
def State.openWindow (s : State) (g : Nat) : State :=
  if g < supplyCeiling ∧ s.idle .a then
    { s with aac.window := some { reference := g, timer := ⟨s.now, supplyTime⟩ } }
  else s

/-- The window stopped. -/
def State.stopWindow (s : State) : State := { s with aac.window := none }

/-- A valid RSV reading at the supply monitor. -/
def State.supplyReading (s : State) (g : Nat) : State :=
  if s.aac.supply then
    match s.aac.window with
    | some w =>
      if supplyCeiling ≤ g then s.stopWindow
      else if w.reference + supplyRise ≤ g then
        { s with aac.window := some { reference := g, timer := ⟨s.now, supplyTime⟩ } }
      else s
    | none => s.openWindow g
  else
    match s.aac.recovery with
    | some r =>
      if g < r then { s with aac.recovery := some g }
      else if r + supplyRise ≤ g then
        State.openWindow { s with aac.supply := true, aac.recovery := none } g
      else s
    | none => { s with aac.recovery := some g }

/-- An RSV arrival at the air account: reported headroom (R41) and supply monitor; an UNORDERED arrival changes nothing in the
monitor. -/
def State.supplyArrival (s : State) : State :=
  let s' := s.reportHeadroom
  match s'.pressure .rsv with
  | some g => s'.supplyReading g
  | none => s'

/-- The expiry of the supply window (R52): LOST on a valid entry, no decision on an unordered one. -/
def Ev.supplyExpiry (e : Ev) : Ev :=
  match e.st.pressure .rsv with
  | some g =>
    Ev.latch .supplyLost [] <| e.on fun s =>
      State.supplyLow { s with aac.supply := false, aac.window := none, aac.recovery := some g }
  | none => e.on State.stopWindow

end Sys2Proof.Machine
end

