-- ==== Sys2Proof/Machine/Galleries.lean ====
section
/-! DEFINITION. Grants and evaluations: the evaluation of a descriptor (R89 to R91), eligibility (R79), the grant scan
(R78, R80, R81), the grant (R82), and the scans at the end of an event. -/

namespace Sys2Proof.Machine

/-! ### Evaluation (R89 to R91) -/

/-- The goal is met within tolerance (R89); an unordered reading fails. -/
def State.goalMet (s : State) (d : Desc) : Bool :=
  match d.cls with
  | .height =>
    holdsOf (s.height .left) (fun f => decide (absDiff f d.goal ≤ heightTolerance))
      && holdsOf (s.height .right) (fun f => decide (absDiff f d.goal ≤ heightTolerance))
  | .lift => if d.goal = 0 then s.bagEmpty else s.bagHolds
  | .tyre =>
    match d.nodes with
    | m :: _ => holdsOf (s.pressure m.node) fun g => decide (absDiff g d.goal ≤ tyreTolerance)
    | [] => false

/-- A step did not move enough (R90): a quiet test of the readings now against those at the grant. -/
def State.stuck (s : State) (d : Desc) : Bool :=
  match d.start with
  | some (.pressure p) =>
    match d.nodes with
    | m :: _ => holdsOf2 p (s.pressure m.node) fun a b => decide (absDiff a b < progressKpa)
    | [] => false
  | some (.heights l r) =>
    d.kind.sides.all fun sd =>
      holdsOf2 (match sd with | .left => l | .right => r) (s.height sd) fun a b => decide (absDiff a b < progressMm)
  | some (.cross hl hr _ _) =>
    match hl, hr, s.height .left, s.height .right with
    | some a, some b, some c, some d =>
      decide ((((a : Int) - b) - ((c : Int) - d)).natAbs < progressMm)
    | _, _, _, _ => false
  | none => false

/-- Steps left and the no-progress count after a step that ended so (R90). -/
def State.tally (s : State) (d : Desc) : EndReason → Desc
  | .goal => { d with stepsLeft := d.stepsLeft - 1, noProgress := 0 }
  | .balanced => { d with stepsLeft := d.stepsLeft - 1, noProgress := 0 }
  | .timeout =>
    { d with stepsLeft := d.stepsLeft - 1, noProgress := if s.stuck d then d.noProgress + 1 else 0 }
  | .airPause => { d with noProgress := 0 }
  | .cut => { d with noProgress := 0 }
  | .sensor => d

/-- Check 1 of R89: a pending goal is applied (R62), with SUPERSEDED to a displaced master. Steps left becomes the class
maximum that the pending goal was given with (R74, notes/assumptions/26.md). -/
def Ev.applyPending (d : Desc) (e : Ev) : Ev × Desc :=
  match d.pending with
  | some p =>
    let d' := { d with
      goal := p.goal, origin := p.origin, pending := none, stepsLeft := p.steps, noProgress := 0 }
    ((e.completion d.origin d d.goal .superseded).on fun s => s.putDesc d', d')
  | none => (e, d)

/-- The step kind chosen afresh at a requeue (R91). -/
def State.requeueKind (s : State) (d : Desc) : StepKind :=
  match d.cls with
  | .height => s.heightKind d.goal d.kind
  | .lift => liftKind d.goal
  | .tyre =>
    match d.nodes with
    | m :: _ => tyreKind (s.pressure m.node) d.goal
    | [] => d.kind

/-- A requeue (R64, R91). -/
def Ev.requeue (d : Desc) (e : Ev) : Ev :=
  Ev.triggerBoth <| Ev.testPoints <| e.on fun s =>
    s.putDesc { d with
      state := .queued, kind := s.requeueKind d, stepGoal := none, start := none, wait := .clear }

/-- The outcome of checks 5 to 7 of R89 on a descriptor whose figures stand: FAULTED, STALLED or a requeue. A FAULTED one is freed and
the points are tested before its nodes are faulted, and its owning loop is told last (notes/assumptions/46.md, notes/assumptions/51.md). -/
def Ev.judge (d : Desc) (e : Ev) : Ev :=
  if noProgressMax ≤ d.noProgress then
    (Ev.faultNodes d.nodes (e.unlinkTransfer d .faulted)).ownerFreed d .faulted
  else if d.stepsLeft = 0 then
    (e.latch .stalled (d.nodes.map Managed.node)).freeTransfer d .stalled
  else e.requeue d

/-- The evaluation of a descriptor (R89): at the settle expiry with the step's end reason, at a NO_FILL answer with none. -/
def Ev.evaluate (id : Nat) (ending : Option EndReason) (e : Ev) : Ev :=
  match e.st.descAt id with
  | none => e
  | some d0 =>
    let r := e.applyPending d0
    let d := r.2
    if ending = some .sensor then r.1.freeTransfer d .sensor
    else if d0.pending.isNone && r.1.st.goalMet d then r.1.freeTransfer d .complete
    else
      match ending with
      | some x => r.1.judge (if d0.pending.isSome then d else r.1.st.tally d x)
      | none => r.1.judge d

/-! ### Eligibility (R79) -/

/-- Conditions 1 to 6 of R79, in order: the wait reason of the first that fails. -/
def State.firstWait (s : State) (d : Desc) : Option Wait :=
  if heldByPoint d.id d.kind s.dqm.live then some .point
  else if s.glc.stop.occupied then some .stop
  else if d.cls.movesDeck && s.held then some .hold
  else if d.cls == .tyre && s.tgu.mode == .loading then some .mode
  else if d.nodes.any (fun m => s.faulted m.node) then some .fault
  else if d.kind.isFill && s.aac.priority then some .brake
  else none

/-- A wait reason written into a descriptor's record. -/
def State.setWait (s : State) (id : Nat) (w : Wait) : State := s.modDesc id fun d => { d with wait := w }

/-! ### The grant (R82) -/

/-- The step start reading (R82). -/
def State.startReading (s : State) (d : Desc) : StartReading :=
  match d.kind with
  | .fill => .pressure (d.nodes.head?.bind fun m => s.pressure m.node)
  | .vent => .pressure (d.nodes.head?.bind fun m => s.pressure m.node)
  | .cross => .cross (s.height .left) (s.height .right) (s.pressure .bll) (s.pressure .blr)
  | .sideFill .left => .heights (s.height .left) none
  | .sideVent .left => .heights (s.height .left) none
  | .sideFill .right => .heights none (s.height .right)
  | .sideVent .right => .heights none (s.height .right)
  | _ => .heights (s.height .left) (s.height .right)

/-- The step goal of a VENT family step (R82): the descriptor's goal, and none for CROSS. -/
def ventGoal (d : Desc) : Option Nat :=
  match d.kind with
  | .cross => none
  | _ => some d.goal

/-- The grant of a gallery to a descriptor found at a slot, with its step goal (R82), and its hand-offs (R98). -/
def State.grant (s : State) (g : Gallery) (slot : Nat) (d : Desc) (goal : Option Nat) : State :=
  let ns := stepNodes d
  let s1 := s.putDesc
    { d with state := .opening, stepGoal := goal, start := some (s.startReading d), wait := .clear }
  let s2 := State.modGallery { s1 with glc.valves := s1.glc.valves.openStep d.kind ns } g fun _ =>
    { flight := some { id := d.id, nodes := ns, ending := none }
      pointer := slot
      openT := s.timer openTime
      stepT := s.timer (s.ws.timeout.get d.cls * 1000)
      closeT := none
      settleT := none }
  let s3 := if d.kind.isFill then s2.stopWindow else s2
  let s4 := s3.suspendMonitors d.nodes
  let s5 := if d.cls = .height then { s4 with llu.heightStep := true } else s4
  if d.cls.movesDeck then s5.stepOpens else s5

/-! ### The scan (R79 to R81) -/

/-- An eligible descriptor as it was tested, with the step goal of its answer. -/
structure Candidate where
  desc : Desc
  goal : Option Nat
deriving DecidableEq, Repr

/-- The test of one descriptor in a scan (R79, R81). A NO_FILL answer evaluates it at once. -/
def Ev.testOne (g : Gallery) (acc : Ev × List Candidate) (id : Nat) : Ev × List Candidate :=
  let e := acc.1
  match e.st.descAt id with
  | none => acc
  | some d =>
    if d.state = .queued ∧ d.kind.gallery = g then
      match e.st.firstWait d with
      | some w => (e.on fun s => s.setWait id w, acc.2)
      | none =>
        let found (e : Ev) (goal : Option Nat) : Ev × List Candidate :=
          (e.on fun s => s.setWait id .clear, acc.2 ++ [{ desc := { d with wait := .clear }, goal := goal }])
        if d.kind.isFill then
          let r := e.fillQuery d
          match r.2 with
          | .step goal _ => found r.1 (some goal)
          | .air => (r.1.on fun s => s.setWait id .air, acc.2)
          | .noFill => (r.1.evaluate id none, acc.2)
        else found e (ventGoal d)
    else acc

/-- The tests of a scan, oldest first. -/
def Ev.testAll (g : Gallery) : List Nat → Ev × List Candidate → Ev × List Candidate
  | [], acc => acc
  | id :: ids, acc => Ev.testAll g ids (Ev.testOne g acc id)

/-- The ids of the live transfers, oldest first. -/
def State.transferIds (s : State) : List Nat := (s.dqm.live.filterMap LiveRec.desc).map Desc.id

/-- The walk of the scheduler table (R80): from the slot after the pointer, for at most sixteen slots, the first slot whose
class has a candidate, with the oldest one. -/
def walkSlots (w : Settings) (pointer : Nat) (cs : List Candidate) : Option (Nat × Candidate) :=
  ((List.range 16).map fun i => (pointer + 1 + i) % 16).findSome? fun slot =>
    (cs.find? fun c => c.desc.cls == w.slot slot).map fun c => (slot, c)

/-- The candidates passed over by a grant wait with GALLERY (R79). -/
def State.passOver (s : State) (granted : Nat) : List Candidate → State
  | [] => s
  | c :: cs => (if c.desc.id = granted then s else s.setWait c.desc.id .gallery).passOver granted cs

/-- A grant scan of a gallery (R78 to R81); nothing on a gallery that is not IDLE. A candidate whose record a NO_FILL evaluation
of the same scan has changed is not granted in it: the change has started a scan of its own. -/
def Ev.scanGallery (g : Gallery) (e : Ev) : Ev :=
  if e.st.idle g then
    let r := Ev.testAll g e.st.transferIds (e, [])
    let cs := r.2.filter fun c => r.1.st.descAt c.desc.id == some c.desc
    match walkSlots r.1.st.ws (r.1.st.glc.galleries.get g).pointer cs with
    | some (slot, c) => r.1.on fun s => (s.grant g slot c.desc c.goal).passOver c.desc.id cs
    | none => r.1
  else e

/-- The scans that an event has started, gallery A first, each followed by those it starts itself (R78, R81). The bound is far above
the number of scans that one event can start (notes/assumptions/15.md). -/
def Ev.scans : Nat → Ev → Ev
  | 0, e => e
  | n + 1, e =>
    if e.scan.a then Ev.scans n (Ev.scanGallery .a { e with scan := e.scan.set .a false })
    else if e.scan.b then Ev.scans n (Ev.scanGallery .b { e with scan := e.scan.set .b false })
    else e

/-- The bound on the scans of one event. -/
def scanBound : Nat := 64

end Sys2Proof.Machine
end

