-- ==== Sys2Proof/Machine/Vehicle.lean ====
section
/-! DEFINITION. Changes of mode (R19 to R21, R70) and of the vehicle state record (R22 to R25), with the speed guard (R34,
R35), each handed through the blocks. -/

namespace Sys2Proof.Machine

/-! ### Changes of mode -/

/-- The basis of a mode entered from a basis (R17): ROAD and FIELD have their own, LOADING keeps the one it finds. -/
def Mode.basis (m : Mode) (old : Basis) : Basis :=
  match m with
  | .road => .road
  | .field => .field
  | .loading => old

/-- Entry to LOADING at the tyre loop (R19): every persistence timer stopped and every mark cleared. -/
def State.freezeTyres (s : State) : State :=
  let clear (r : TyreRec) : TyreRec := { r with timer := none, pending := false }
  { s with tgu.tyres :=
      { t1l := clear s.tgu.tyres.t1l, t1r := clear s.tgu.tyres.t1r, t2l := clear s.tgu.tyres.t2l
        t2r := clear s.tgu.tyres.t2r, t3l := clear s.tgu.tyres.t3l, t3r := clear s.tgu.tyres.t3r } }

/-- A held ask decided (R59, R70); a refusal is reported to its asker, which sets its ask-pending mark (R38, R103). -/
def Ev.allocateHeld (a : Ask) (e : Ev) : Ev :=
  let r := e.ask a
  match r.2, a.cls, a.nodes with
  | .refused, .height, _ => r.1.on fun s => s.setHeightPending true
  | .refused, .tyre, m :: _ =>
    match m.node.tyre with
    | some t => r.1.on fun s => s.setTyrePending t true
    | none => r.1
  | _, _, _ => r.1

/-- Held asks allocated in the order made. -/
def Ev.allocateAll : List Ask → Ev → Ev
  | [], e => e
  | a :: as, e => Ev.allocateAll as (e.allocateHeld a)

/-- The allocations of a basis change (R70): the held fills, the point {FILL} to {VENT}, the held vents. A point that is refused
is left out. -/
def Ev.basisAllocations (asks : List Ask) (e : Ev) : Ev :=
  let e1 := e.allocateAll (asks.filter fun a => a.kind.isFill)
  let e2 := (e1.placePoint ⟨true, false⟩ ⟨false, true⟩ .auto).1
  e2.allocateAll (asks.filter fun a => !a.kind.isFill)

/-- The mode and its basis replaced. -/
def State.setMode (s : State) (m : Mode) : State :=
  { s with tgu.mode := m, tgu.basis := m.basis s.tgu.basis }

/-- A change of mode to another mode (R19, R20, R70, R100, R116, R130): targets recomputed, or frozen on entry to LOADING; the
height loop's ask; on a basis change the held asks around the point; then the lift logic; leaving LOADING scans (R78). -/
def Ev.changeMode (m : Mode) (e : Ev) : Ev :=
  let old := e.st.tgu.mode
  let change := m.basis e.st.tgu.basis != e.st.tgu.basis
  let e1 := e.on fun s => s.setMode m
  let e2 := if m = .loading then e1.on State.freezeTyres else e1.recomputeAll (if change then .basis else .other)
  let asks := if change then e2.st.basisAsks else []
  let r := e2.heightMode change
  let e3 := if change then r.1.basisAllocations (asks ++ r.2.toList) else r.1
  let e4 := e3.liftMode m
  if old = .loading then e4.triggerBoth else e4

/-! ### The speed guard (R34, R35) -/

/-- The guard turns ON: SPEED_FORCED latched, every target recomputed with the raise (R35). -/
def Ev.guardOn (e : Ev) : Ev :=
  Ev.recomputeAll .other <| Ev.latch .speedForced [] <| e.on fun s =>
    { s with tgu.guard := { on := true, overT := none, underT := none } }

/-- The guard turns OFF: every target recomputed without the raise (R35). -/
def Ev.guardOff (e : Ev) : Ev :=
  Ev.recomputeAll .other <| e.on fun s => { s with tgu.guard := { on := false, overT := none, underT := none } }

/-- The speed is known and above a limit. -/
def Vehicle.above (v : Vehicle) (limit : Nat) : Bool := holdsOf v.speed fun k => decide (limit < k)

/-- An update of the record at the speed guard (R34). -/
def Ev.guardUpdate (e : Ev) : Ev :=
  let v := e.st.tgu.vehicle
  let above := v.above e.st.ws.guardSpeed
  let setOver (t : Timer) : Ev := e.on fun s => { s with tgu.guard := { s.tgu.guard with overT := t } }
  let setUnder (t : Timer) : Ev := e.on fun s => { s with tgu.guard := { s.tgu.guard with underT := t } }
  if e.st.tgu.guard.on then
    if (v.speedState == .unknown) || above then setUnder none
    else setUnder (e.st.timerKeep e.st.tgu.guard.underT underSpeedTime)
  else if v.speedState = .unknown then e.guardOn
  else if above then setOver (e.st.timerKeep e.st.tgu.guard.overT overSpeedTime)
  else setOver none

/-! ### The record (R22 to R25) -/

/-- The forcing of ROAD (R21) on a speed state change away from STANDSTILL in LOADING: MODE_FORCED, the lapse of authority and the
change of mode. -/
def Ev.forceMode (new : SpeedState) (e : Ev) : Ev :=
  if e.st.tgu.mode = .loading ∧ new ≠ .standstill then
    ((e.latch .modeForced []).lapse).changeMode .road
  else e

/-- The record at the gallery controller (R93): HEIGHT and LIFT steps are cut when the braking flag becomes SET or the speed state
UNKNOWN, and both galleries scan when the hold lifts. -/
def Ev.holdUpdate (old : Vehicle) (e : Ev) : Ev :=
  let new := e.st.tgu.vehicle
  let wasHeld := old.braking || old.speedState == .unknown
  let cut := (new.braking && !old.braking) || (new.speedState == .unknown && old.speedState != .unknown)
  let e' := if cut then e.on fun s => s.cutBoth fun d => d.cls.movesDeck else e
  if wasHeld && !e'.st.held then e'.triggerBoth else e'

/-- The braking flag at the height loop (R110, R113): a loop that becomes HELD stops its persistence timer. -/
def Ev.brakingUpdate (old : Vehicle) (e : Ev) : Ev :=
  if e.st.tgu.vehicle.braking && !old.braking then e.on State.stopPersist else e

/-- A new content of the vehicle state record, written in one event and handed on: to the guard, and on a speed state change to the
mode, then to the air account, the gallery controller, the height loop and the lift logic (R22 to R25). -/
def Ev.vehicleUpdate (v : Vehicle) (e : Ev) : Ev :=
  let old := e.st.tgu.vehicle
  let changed := v.speedState != old.speedState
  let e1 := Ev.guardUpdate <| e.on fun s => { s with tgu.vehicle := v }
  let e2 := if changed then e1.forceMode v.speedState else e1
  let e3 := (e2.brakeDecision.holdUpdate old).brakingUpdate old
  if changed then (e3.heightSpeed v.speedState).on State.liftTimerTest else e3

/-- The record that the loss of the brake link leaves (R25): g_B is UNORDERED, its figure as it was (notes/assumptions/35.md). -/
def Vehicle.lost (old : Vehicle) : Vehicle where
  speed := none
  braking := true
  gB := old.gB
  gBValid := false
  link := false

/-- The brake link becomes LOST (R25, R154): BRAKE_LINK_LOST latched, the latch-low conditions lowered (R160), the record set and
handed on. That the latch comes before those of the hand-offs is the model's order (notes/assumptions/40.md). -/
def Ev.brakeLinkLost (e : Ev) : Ev :=
  Ev.vehicleUpdate e.st.tgu.vehicle.lost <| Ev.latch .brakeLinkLost [] <| e.on State.brakeLow

end Sys2Proof.Machine
end

