-- ==== Sys2Proof/Machine/Links.lean ====
section
/-! DEFINITION. The link unit: transmit queues (R148), the CAN port (R143, R144), the panel line (R146, R147), and the end of
an event, when its scans have been taken and its reply and reports are queued (R151). -/

namespace Sys2Proof.Machine

/-! ### Transmit queues (R148) -/

/-- The frames that a queue holds. -/
def queueLength {α : Type} (q : List (TxItem α)) : Nat := (q.map fun i => i.frames.length).sum

/-- The oldest periodic report none of whose frames has begun transmission, removed whole. -/
def dropPeriodic {α : Type} : List (TxItem α) → Option (List (TxItem α))
  | [] => none
  | i :: q => if i.periodic && !i.begun then some q else (dropPeriodic q).map (i :: ·)

/-- Periodic reports removed, oldest first, until so many frames fit in the room of the queue or none is left. -/
def shed {α : Type} (size need : Nat) : Nat → List (TxItem α) → List (TxItem α)
  | 0, q => q
  | n + 1, q =>
    if queueLength q + need ≤ size then q
    else
      match dropPeriodic q with
      | some q' => shed size need n q'
      | none => q

/-- An item offered to a queue (R148): the queue after it, and whether it was queued. -/
def offer {α : Type} (size : Nat) (q : List (TxItem α)) (frames : List α) (periodic : Bool) : List (TxItem α) × Bool :=
  let q' := if periodic then q else shed size frames.length q.length q
  if queueLength q' + frames.length ≤ size then
    (q' ++ [{ frames := frames, periodic := periodic, begun := false }], true)
  else (q', false)

/-- The head of the CAN queue settled before periodic reports are removed: whether a periodic report at the head has begun
transmission is a free value (R148, notes/assumptions/1.md). -/
def State.settleHead (s : State) : State :=
  match s.lku.canTx with
  | i :: q =>
    if i.periodic && !i.begun then
      { s with
        lku.canTx := { i with begun := Config.canHeadBegun s.freeCount } :: q
        freeCount := s.freeCount + 1 }
    else s
  | [] => s

/-- A message queued on its master's port (R143, R148), and whether it was. While the CAN port is OFF_BUS nothing is queued for
the CAN masters. -/
def State.enqueue (s : State) (m : OutMsg) : State × Bool :=
  if m.master = .panel then
    let r := offer panelQueueSize s.lku.panelTx (panelFrames m) m.periodic
    ({ s with lku.panelTx := r.1 }, r.2)
  else if s.lku.port = .onBus then
    let frames := canFrames m
    let s' := if !m.periodic && decide (canQueueSize < queueLength s.lku.canTx + frames.length) then s.settleHead else s
    let r := offer canQueueSize s'.lku.canTx frames m.periodic
    ({ s' with lku.canTx := r.1 }, r.2)
  else (s, false)

/-- Messages queued in order. -/
def State.enqueueAll (s : State) : List OutMsg → State
  | [] => s
  | m :: ms => (s.enqueue m).1.enqueueAll ms

/-- The end of an event: the scans it has started are taken (R78), then its reply, if there is one, is queued, and the reports
behind it (R151). -/
def Ev.close (reply : Option OutMsg) (e : Ev) : State :=
  let e' := e.scans scanBound
  e'.st.enqueueAll (reply.toList ++ e'.out)

/-! ### The CAN port (R143, R144) -/

/-- A sighting of an idle bus. -/
def State.busIdle (s : State) : State :=
  match s.lku.port with
  | .offSinceStart => { s with lku.port := .onBus }
  | .offAfterBusOff n =>
    { s with lku.port := if n + 1 < busOffIdles then .offAfterBusOff (n + 1) else .onBus }
  | .onBus => s

/-- A bus-off: the transmit queue and the receive FIFO are emptied. -/
def State.busOff (s : State) : State :=
  match s.lku.port with
  | .onBus => { s with lku.port := .offAfterBusOff 0, lku.canTx := [], lku.fifo := [] }
  | _ => s

/-- A field of an identifier: so many bits from a place (R172). -/
def identField (x : BitVec 29) (low width : Nat) : Nat := x.toNat / 2 ^ low % 2 ^ width

/-- The CAN master of a source address (R144). -/
def Settings.canMaster (w : Settings) (source : Nat) : Option Master :=
  if source = w.cabAddr then some .cab else if source = w.brakeAddr then some .brake else none

/-- A frame through the address filter (R143, R144): data frames with 29-bit identifiers, addressed to the part by a master. -/
def Settings.filter (w : Settings) (f : CanFrame) : Option RxFrame :=
  if f.extended && !f.remote && identField f.ident 0 8 == w.ownAddr then
    (w.canMaster (identField f.ident 8 8)).map fun m =>
      { sender := m, address := byteOf (identField f.ident 8 8), kind := byteOf (identField f.ident 22 5)
        groupIndex := identField f.ident 19 3, groupCount := identField f.ident 16 3, data := f.data }
  else none

/-- A frame that completes on the bus (R144): taken into the FIFO while ON_BUS, if it passes the filter and there is room. -/
def State.canReceive (s : State) (f : CanFrame) : State :=
  if s.lku.port = .onBus then
    match s.ws.filter f with
    | some r => if s.lku.fifo.length < fifoSize then { s with lku.fifo := s.lku.fifo ++ [r] } else s
    | none => s
  else s

/-- The head frame of a queue sent (R148): an item whose last frame has gone leaves the queue, and the rest of a group has begun
transmission. -/
def sentHead {α : Type} : List (TxItem α) → List (TxItem α)
  | [] => []
  | i :: q =>
    match i.frames with
    | _ :: f :: r => { i with frames := f :: r, begun := true } :: q
    | _ => q

/-- The head item of a queue has begun transmission. -/
def beginHead {α : Type} : List (TxItem α) → List (TxItem α)
  | [] => []
  | i :: q => { i with begun := true } :: q

/-- The transmission of the head frame of the CAN queue succeeded (R143). -/
def State.canSent (s : State) : State :=
  if s.lku.port = .onBus then { s with lku.canTx := sentHead s.lku.canTx } else s

/-- The head frame lost arbitration or met a bus error: it stays and is offered again (R143). It has begun transmission. -/
def State.canRetry (s : State) : State :=
  if s.lku.port = .onBus then { s with lku.canTx := beginHead s.lku.canTx } else s

/-! ### The panel line (R146, R147) -/

/-- The 8-bit sum of the bytes of a panel frame is 0: the frame is good. -/
def panelGood (len : Nat) (got : List Byte) (check : Byte) : Bool :=
  (startByte.toNat + len + (got.map BitVec.toNat).sum + check.toNat) % 256 == 0

/-- A byte received by the panel receiver (R146); a byte with a framing error abandons a frame and, in HUNT, is discarded. The
second part is the good frame that the byte completes. -/
def PanelRx.take (x : PanelRx) (b : Byte) (framingError : Bool) : PanelRx × Option PanelFrame :=
  if framingError then (.hunt, none)
  else
    match x with
    | .hunt => (if b = startByte then .length else .hunt, none)
    | .length => (if b.toNat ≤ payloadMax then .body b.toNat [] else .hunt, none)
    | .body len got =>
      let got' := got ++ [b]
      (if got'.length < len + 1 then .body len got' else .check len got', none)
    | .check len got =>
      (.hunt, if panelGood len got b then some { kind := got.headD 0, payload := got.drop 1 } else none)

/-- A byte on the panel line (R146, R147): while the part is sending it is a collision, which stops the sending, leaves the frame
at the head of the queue and abandons reception. -/
def State.panelByte (s : State) (b : Byte) (framingError : Bool) : State :=
  if s.lku.sending then { s with lku.sending := false, lku.rx := .hunt }
  else
    let r := s.lku.rx.take b framingError
    { s with lku.rx := r.1, lku.good := s.lku.good ++ r.2.toList }

/-- More than 4 ms between two bytes of a frame: it is abandoned (R146). -/
def State.panelGap (s : State) : State := { s with lku.rx := .hunt }

/-- The part begins to send the frame at the head of the panel queue (R147): the receiver is in HUNT. -/
def State.panelSend (s : State) : State :=
  if s.lku.rx = .hunt ∧ !s.lku.sending ∧ !s.lku.panelTx.isEmpty then
    { s with lku.sending := true, lku.panelTx := beginHead s.lku.panelTx }
  else s

/-- The check byte of the frame has been sent without a collision: the frame leaves the queue (R147). -/
def State.panelSent (s : State) : State :=
  if s.lku.sending then { s with lku.sending := false, lku.panelTx := sentHead s.lku.panelTx } else s

/-- The panel silence timer starts afresh and the panel link is PRESENT (R155). -/
def State.panelHeard (s : State) : State :=
  { s with lku.panelSilence := s.timer panelSilenceTime, lku.panelLink := true }

end Sys2Proof.Machine
end

