-- ==== Sys2Proof/Machine/Operands.lean ====
section
/-! DEFINITION. The operands of requests: the codes of their fields (R173), the lengths that check 3 of R149 wants, and the
command that a received frame spells. -/

namespace Sys2Proof.Machine

/-! ### Field codes (R173) -/

def Mode.ofByte (b : Byte) : Option Mode :=
  match b.toNat with
  | 0 => some .road | 1 => some .field | 2 => some .loading | _ => none

def Basis.ofByte (b : Byte) : Option Basis :=
  match b.toNat with
  | 0 => some .road | 1 => some .field | _ => none

def LiftSetting.ofByte (b : Byte) : Option LiftSetting :=
  match b.toNat with
  | 1 => some .up | 2 => some .down | 3 => some .auto | _ => none

/-- A pred or succ set (R66, R173): bit 0 FILL, bit 1 VENT; an empty set and other values are not defined. -/
def FamilySet.ofByte (b : Byte) : Option FamilySet :=
  match b.toNat with
  | 1 => some ⟨true, false⟩ | 2 => some ⟨false, true⟩ | 3 => some ⟨true, true⟩ | _ => none

/-- What a FAULT_CLEAR names (R139): one node, or ALL coded 255. -/
def clearTargets (b : Byte) : Option (List Node) :=
  if b.toNat = 255 then some Node.list else (Node.ofNumber b.toNat).map fun n => [n]

/-- What a CANCEL class names: a transfer class, or POINT. -/
inductive CancelClass where
  | transfer (c : Cls)
  | point
deriving DecidableEq, Repr

/-- The scope of a CANCEL (R71). -/
inductive CancelScope where
  | own
  | ofClass (c : CancelClass)
  | all
deriving DecidableEq, Repr

/-- The scope that a scope byte and a class byte spell (R173): class 0 with OWN and ALL, 1 to 4 with CLASS. -/
def CancelScope.ofBytes (scope cls : Byte) : Option CancelScope :=
  match scope.toNat, cls.toNat with
  | 1, 0 => some .own
  | 3, 0 => some .all
  | 2, 4 => some (.ofClass .point)
  | 2, c => (Cls.ofCode c).map fun c => .ofClass (.transfer c)
  | _, _ => none

/-- The node of a CANCEL (R71, R173): 0 for none, or a managed node; the outer option is whether the byte is defined. -/
def cancelNode (b : Byte) : Option (Option Managed) :=
  if b.toNat = 0 then some none else (Managed.ofNumber b.toNat).map some

/-- The record fields of a VEHICLE_DATA (R22, R173); absent where the speed or the braking byte cannot be decoded. A g_B that
is not available or above 1200 is UNORDERED, and the figure of the record before, `old`, stays (notes/assumptions/35.md). -/
def decodeVehicle (old : Nat) (speed braking : Byte) (gB : Half) : Option Vehicle :=
  let spd : Option (Option Nat) :=
    if speed.toNat ≤ speedMax then some (some speed.toNat) else if speed.toNat = 255 then some none else none
  let brk : Option Bool :=
    if braking.toNat = 0 then some false
    else if braking.toNat = 1 ∨ braking.toNat = 255 then some true else none
  match spd, brk with
  | some v, some b =>
    let valid := decide (gB.toNat ≤ pressureMax)
    some { speed := v, braking := b, link := true, gB := if valid then gB.toNat else old, gBValid := valid }
  | _, _ => none

/-- A value clamped to a range (R153), and whether it was clamped. -/
def clamp (lo hi : Nat) (v : Int) : Nat × Bool :=
  if v < lo then (lo, true) else if (hi : Int) < v then (hi, true) else (v.toNat, false)

/-! ### Kind codes (R172) and roles (R150) -/

def codeModeSet : Nat := 1
def codeTyreSet : Nat := 2
def codeProfileWrite : Nat := 3
def codeProfileRead : Nat := 4
def codeLiftSet : Nat := 5
def codeSequence : Nat := 6
def codeFaultClear : Nat := 7
def codeConfigRead : Nat := 8
def codeConfigWrite : Nat := 9
def codeStore : Nat := 10
def codeHeightSet : Nat := 11
def codeHeightAuthority : Nat := 12
def codePanelAlive : Nat := 13
def codeVehicleData : Nat := 14
def codeRideReturn : Nat := 15
def codeCancel : Nat := 16
def codeStop : Nat := 17
def codeResume : Nat := 18
def codeStatusRead : Nat := 19
def codeMaskSet : Nat := 20
def codeTestEvent : Nat := 21

/-- The kind is one of the request kinds (check 1 of R149). -/
def isRequestKind (code : Nat) : Bool := decide (1 ≤ code) && decide (code ≤ 21)

/-- The role of a master allows a kind (R150). -/
def roleAllows (code : Nat) (m : Master) : Bool :=
  if code ≤ 10 then m == .cab
  else match code with
    | 11 => m == .cab || m == .panel
    | 12 => m == .panel
    | 13 => m == .panel
    | 14 => m == .brake
    | 17 => m == .cab || m == .panel
    | 18 => m == .cab || m == .panel
    | _ => true

/-- The total lengths that R173 gives for a kind. -/
def requestLengths (code : Nat) : List Nat :=
  match code with
  | 1 => [3] | 2 => [6] | 3 => [6] | 4 => [3] | 5 => [3] | 6 => [4] | 7 => [3] | 8 => [3] | 9 => [5] | 10 => [2]
  | 11 => [4, 5] | 12 => [3] | 13 => [2] | 14 => [6] | 15 => [2] | 16 => [5] | 17 => [2] | 18 => [2] | 19 => [2]
  | 20 => [4] | 21 => [2] | _ => []

/-! ### Frames as commands -/

/-- The command that a frame of a master spells (R172, R173): its kind, its data, and whether it is a group of one frame. A frame
whose shape fails check 3 has its fields taken as 0. The tag of a frame without data is 0 for every reply, NOT_PERMITTED too
(notes/assumptions/45.md). -/
def requestOf (m : Master) (kind : Byte) (single : Bool) (data : List Byte) : Instr :=
  let shape := single && (requestLengths kind.toNat).contains data.length
  let h : Hdr := { sender := m, tag := data.getD 0 0, flags := data.getD 1 0, shapeOk := shape }
  let f (k : Nat) : Byte := if shape then data.getD k 0 else 0
  let w (k : Nat) : Half := BitVec.ofNat 16 ((f k).toNat + 256 * (f (k + 1)).toNat)
  match kind.toNat with
  | 1 => .modeSet h (f 2)
  | 2 => if (f 3).toNat = 1 then .tyreSetClear h (f 2) (w 4) else .tyreSet h (f 2) (f 3) (w 4)
  | 3 => .profileWrite h (f 2) (f 3) (w 4)
  | 4 => .profileRead h (f 2)
  | 5 => .liftSet h (f 2)
  | 6 => .sequence h (f 2) (f 3)
  | 7 => .faultClear h (f 2)
  | 8 => .configRead h (f 2)
  | 9 => .configWrite h (f 2) (w 3)
  | 10 => .store h
  | 11 =>
    .heightSet h <|
      if (f 2).toNat = 1 ∧ data.length = 5 then .absolute (w 3)
      else if (f 2).toNat = 2 ∧ data.length = 4 then .step (f 3)
      else .other (f 2)
  | 12 => if (f 2).toNat = 2 then .heightAuthorityRelease h else .heightAuthorityTake h (f 2)
  | 13 => .panelAlive h
  | 14 => .vehicleData h (f 2) (f 3) (w 4)
  | 15 => .rideReturn h
  | 16 => .cancel h (f 2) (f 3) (f 4)
  | 17 => .stop h
  | 18 => .resume h
  | 19 => .statusRead h
  | 20 => .maskSet h (w 2)
  | 21 => .testEvent h
  | _ => .unknownRequest h kind

/-- The command that a frame of the receive FIFO spells. -/
def RxFrame.request (f : RxFrame) : Instr :=
  requestOf f.sender f.kind (f.groupIndex == 0 && f.groupCount == 0) f.data

/-- The command that a good panel frame spells. -/
def PanelFrame.request (f : PanelFrame) : Instr := requestOf .panel f.kind true f.payload

/-- The frame behind a request leaves its receiver (R144): the head of the FIFO, or the first good panel frame, where it spells the
command. The second part is the address it came from. -/
def State.takeFrame (s : State) (sender : Master) (c : Instr) : State × Option Byte :=
  if sender = .panel then
    match s.lku.good with
    | f :: r => if f.request = c then ({ s with lku.good := r }, none) else (s, none)
    | [] => (s, none)
  else
    match s.lku.fifo with
    | f :: r => if f.request = c then ({ s with lku.fifo := r }, some f.address) else (s, none)
    | [] => (s, none)

end Sys2Proof.Machine
end

