-- ==== Sys2Proof/Machine/Requests.lean ====
section
/-! DEFINITION. Taking a request: the common checks (R149), the reply and its withholding (R151, R152), and the frame of a
request's event. The meanings of the kinds are in the files that follow. -/

namespace Sys2Proof

/-- NO_REPLY, bit 0 of the flags byte. -/
def Hdr.noReply (h : Hdr) : Bool := h.flags.getLsbD 0

/-- Check 3 of R149: the shape, and a flags byte that holds NO_REPLY set or clear. -/
def Hdr.wellShaped (h : Hdr) : Bool := h.shapeOk && decide (h.flags.toNat ≤ 1)

end Sys2Proof

namespace Sys2Proof.Machine

/-- The outcome of every command. -/
abbrev Outcome := Host.Outcome State Fault Refusal

/-- The result that a reply tells (R151). -/
inductive Answer where
  | accepted (clamped merged : Bool) (id : Option Nat) (data : List Byte)
  | refused (r : Reason)
deriving DecidableEq, Repr

/-- ACCEPTED with no flags, no id and no data. -/
def Answer.plain : Answer := .accepted false false none []

/-- The answer for what became of an ask (R27, R103, R129), with CLAMPED as given. -/
def AskResult.answer (clamped : Bool) : AskResult → Answer
  | .allocated id => .accepted clamped false (some id) []
  | .merged id => .accepted clamped true (some id) []
  | .refused => .refused .noDescriptor

/-- Checks 2 to 4 of R149, in order. -/
def State.commonRefusal (s : State) (h : Hdr) (code : Nat) : Option Reason :=
  if !roleAllows code h.sender then some .notPermitted
  else if !h.wellShaped then some .badFormat
  else if s.sts.phase ≠ .run ∧ code ≠ codeStatusRead then some .notReady
  else none

/-- VEHICLE_DATA and PANEL_ALIVE, which are replied to only when the sender may not send them (R149). -/
def silentKind (code : Nat) : Bool := code == codeVehicleData || code == codePanelAlive

/-- A reply to the sender, with the addresses in force in a state (R145) and the request kind as received. -/
def State.reply (s : State) (h : Hdr) (kind : Byte) (dst : Byte) (a : Answer) : OutMsg :=
  let body : Nat × List Byte := match a with
    | .accepted clamped merged id data => (codeAccepted, acceptedBytes h.tag kind clamped merged id data)
    | .refused r => (codeRefused, refusedBytes h.tag kind r)
  { master := h.sender, src := byteOf s.ws.ownAddr, dst := dst, code := body.1, bytes := body.2, periodic := false }

/-- A request leaves its receiver; a good panel frame taken in RUN is heard before anything else (R155). -/
def State.receive (s : State) (h : Hdr) (c : Instr) : State × Option Byte :=
  let r := s.takeFrame h.sender c
  (if h.sender = .panel ∧ s.sts.phase = .run then r.1.panelHeard else r.1, r.2)

/-- The reply to a request that a common check refuses (R149, R152): BAD_FORMAT whatever the flags hold, the others unless
NO_REPLY is set; for VEHICLE_DATA and PANEL_ALIVE only NOT_PERMITTED. -/
def repliesToRefusal (h : Hdr) (code : Nat) (r : Reason) : Bool :=
  match r with
  | .badFormat => !silentKind code
  | .notPermitted => !h.noReply
  | _ => !h.noReply && !silentKind code

/-- A request's event (R149, R151, R152). The handler is the owning block's part. `fromFrame` says for which answers the reply
goes to the address that the request came from (R145). -/
def request (c : Instr) (h : Hdr) (code : Nat) (handler : Ev → Ev × Answer) (fromFrame : Answer → Bool) (s : State) :
    State :=
  if s.sts.phase = .reset then s
  else
    let t := s.receive h c
    match t.1.commonRefusal h code with
    | some r =>
      let reply := t.1.reply h (byteOf code) (t.1.ws.address h.sender) (.refused r)
      (Ev.of t.1).close (if repliesToRefusal h code r then some reply else none)
    | none =>
      let r := handler (Ev.of t.1)
      let dst := if fromFrame r.2 then t.2.getD (t.1.ws.address h.sender) else t.1.ws.address h.sender
      r.1.close (if h.noReply || silentKind code then none else some (t.1.reply h (byteOf code) dst r.2))

/-- No reply of this kind goes to the frame's own address. -/
def noFrame (_ : Answer) : Bool := false

/-- An event that no request makes (R170): nothing happens while the reset line is asserted. -/
def event (f : Ev → Ev) (s : State) : State :=
  if s.sts.phase = .reset then s else (f (Ev.of s)).close none

/-- An event of a port, which changes the state alone; nothing happens while the reset line is asserted (R170). -/
def portEvent (f : State → State) (s : State) : State :=
  if s.sts.phase = .reset then s else f s

end Sys2Proof.Machine
end

