-- ==== Sys2Proof/Machine/Events.lean ====
section
/-! DEFINITION. The reset line and the start (R169 to R171), and the reading arrivals (R7 to R12). -/

namespace Sys2Proof.Machine

/-! ### Reset and start -/

/-- RESET_ASSERT (R170): the phase becomes RESET and every block takes its start values; the stored image alone is kept, and it is
absent where a store write was cut short (R168). -/
def execResetAssert (s : State) : Outcome :=
  .next (State.startValues .reset Settings.default Settings.default.road s.sts.image s.now s.freeCount s.pending)

/-- The working set that a stored image gives at start, and whether the image failed (R169). -/
def loadImage (image : Option (List Half)) : Settings × Bool :=
  match image with
  | some ws => if imageGood ws then (Settings.ofWords ws, false) else (Settings.default, true)
  | none => (Settings.default, true)

/-- The start event (R169, R170): release of the reset line, or power-up. Every block takes its start values around the working set
that the image gives, and a failed image latches STORE_LOST. -/
def State.start (s : State) : State :=
  let r := loadImage s.sts.image
  let s' := State.startValues .starting r.1 (startTargets r.1) s.sts.image s.now s.freeCount s.pending
  Ev.close none (if r.2 then (Ev.of s').latch .storeLost [] else Ev.of s')

/-- START (R170). -/
def execStart (s : State) : Outcome := .next s.start

/-! ### The measurement unit (R7 to R12) -/

/-- A pressure sample is valid (R8). -/
def pressureValid (x : Sample) : Bool := x.inBand && decide (0 ≤ x.value) && decide (x.value ≤ (pressureMax : Int))

/-- A height sample is valid (R10). -/
def heightValid (x : Sample) : Bool := x.inBand && decide (0 ≤ x.value) && decide (x.value ≤ (travelMax : Int))

/-- An entry of the reading table after a sample (R8). -/
def Reading.after (r : Reading) (x : Sample) : Reading :=
  if pressureValid x then { value := x.value.toNat, valid := true, run := 0 }
  else { r with valid := false, run := min runMax (r.run + 1) }

/-- A height entry after a sample (R10, R11). -/
def HeightEntry.after (h : HeightEntry) (x : Sample) : HeightEntry :=
  if heightValid x then
    { valid := true, run := 0, ring := (h.ring ++ [x.value.toNat]).drop (h.ring.length + 1 - ringSize) }
  else { h with valid := false, run := min runMax (h.run + 1) }

/-- The arrival of a node taken in the sample round in progress (R7). -/
def State.takePressure (s : State) (n : Node) (x : Sample) : State :=
  { s with
    msu.nodes := s.msu.nodes.modify n fun r => r.after x
    msu.nodeSeen := s.msu.nodeSeen.set n true }

/-- The arrival of a side taken in the sample round in progress (R7). -/
def State.takeHeight (s : State) (sd : Side) (x : Sample) : State :=
  { s with
    msu.heights := s.msu.heights.modify sd fun h => h.after x
    msu.sideSeen := s.msu.sideSeen.set sd true }

/-- All twelve arrivals of the round have been taken (R7). -/
def Msu.roundComplete (x : Msu) : Bool := Node.list.all x.nodeSeen.get && x.sideSeen.left && x.sideSeen.right

/-- The entry to RUN (R171): the phase, and the three period timers (R163). The monitors' states follow from the phase. -/
def State.enterRun (s : State) : State :=
  { s with
    sts.phase := .run
    evu.stateT := s.timer stateTime
    evu.nodesT := s.timer nodesTime
    evu.loadT := s.timer loadTime }

/-- The end of an arrival at the measurement unit: a complete round begins the next one (R7), and the first round after the start
moves the phase to RUN (R171). -/
def State.endRound (s : State) : State :=
  if s.msu.roundComplete then
    let s' := { s with msu.nodeSeen := PerNode.fill false, msu.sideSeen := PerSide.fill false }
    if s.sts.phase = .starting then s'.enterRun else s'
  else s

/-! ### Arrivals -/

/-- An RSV arrival at the gallery controller (R47, R78): the floor test of a fill in FLOWING, and a scan of gallery A while some
QUEUED descriptor waits AIR. -/
def Ev.rsvArrival (e : Ev) : Ev :=
  let e' := e.floorTest
  if (e'.st.findDesc fun d => d.state == .queued && d.wait == .air).isSome then e'.trigger .a else e'

/-- The end tests of both galleries on a pressure arrival. -/
def Ev.pressureEnds (m : Managed) (e : Ev) : Ev := (e.pressureEnd .a m).pressureEnd .b m

/-- A decay monitor's part of an arrival, where the node has one (R133, R134). -/
def Ev.watch (n : Node) (e : Ev) : Ev :=
  match n.watched with
  | some w => e.monitorArrival w
  | none => e

/-- A pressure arrival handed to its receivers, in the order in which R9 lists them (notes/assumptions/9.md). -/
def Ev.pressureReceivers (n : Node) (e : Ev) : Ev :=
  let e' :=
    match n with
    | .rsv => (e.on State.supplyArrival).rsvArrival
    | .bll => (e.settledLoad .left).pressureEnds .bll
    | .blr => (e.settledLoad .right).pressureEnds .blr
    | .lft => e.lftArrival.pressureEnds .lft
    | n =>
      match n.tyre with
      | some t => (e.tyreLoop t).pressureEnds t.managed
      | none => e
  (e'.watch n).sensorFault n

/-- PRESSURE_ARRIVAL (R8, R9). -/
def execPressureArrival (n : Node) (x : Sample) (s : State) : Outcome :=
  .next <| event (fun e => ((e.on fun s => s.takePressure n x).pressureReceivers n).on State.endRound) s

/-- A height arrival handed on (R10, R12): lockout and recovery, the loop's hand-off in RUN, and the end tests of both
galleries. -/
def Ev.heightReceivers (sd : Side) (valid reached : Bool) (e : Ev) : Ev :=
  let e1 := e.heightSensor sd valid reached
  let e2 := if e1.st.sts.phase = .run then e1.heightHandOff else e1
  (e2.heightEnd .a sd).heightEnd .b sd

/-- HEIGHT_ARRIVAL (R10 to R12). -/
def execHeightArrival (sd : Side) (x : Sample) (s : State) : Outcome :=
  let reached := decide ((s.msu.heights.get sd).run + 1 = runMax)
  .next <| event (fun e =>
    ((e.on fun s => s.takeHeight sd x).heightReceivers sd (heightValid x) (!heightValid x && reached)).on State.endRound) s

end Sys2Proof.Machine
end

