-- ==== Sys2Proof/Machine/Timers.lean ====
section
/-! DEFINITION. The expiries of the part's own timers, the end of a store write, and the periodic reports. An expiry of a timer
that is stopped does not occur: its command then changes nothing. -/

namespace Sys2Proof.Machine

/-! ### Step timers (R83, R88, R89) -/

/-- The descriptor that a gallery serves, when it is in a given state. -/
def State.servedIn (s : State) (g : Gallery) (x : DescState) : Option Desc :=
  match s.served g with
  | some d => if d.state = x then some d else none
  | none => none

/-- The open timer expires (R83): OPENING becomes FLOWING. -/
def State.openExpiry (s : State) (g : Gallery) : State :=
  match (s.glc.galleries.get g).openT, s.servedIn g .opening with
  | some _, some d => (s.modGallery g fun x => { x with openT := none }).modDesc d.id fun d => { d with state := .flowing }
  | _, _ => s

/-- OPEN_TIMER_EXPIRY (R83). -/
def execOpenTimerExpiry (g : Gallery) (s : State) : Outcome := .next (event (fun e => e.on fun s => s.openExpiry g) s)

/-- The step timeout expires in FLOWING (R83): the step ends with TIMEOUT. -/
def State.stepExpiry (s : State) (g : Gallery) : State :=
  match (s.glc.galleries.get g).stepT, s.servedIn g .flowing with
  | some _, some _ => s.endStep g .timeout
  | _, _ => s

/-- STEP_TIMEOUT (R83). -/
def execStepTimeout (g : Gallery) (s : State) : Outcome := .next (event (fun e => e.on fun s => s.stepExpiry g) s)

/-- A HEIGHT or LIFT step leaves CLOSING (R98). -/
def State.leaveClosing (s : State) (c : Cls) : State := if c.movesDeck then s.stepCloses else s

/-- The close timer expires (R88): a torn descriptor is freed with the outcome its teardown or fault gave, any other goes to
SETTLING for its class settle interval. -/
def Ev.closeExpiry (g : Gallery) (e : Ev) : Ev :=
  match (e.st.glc.galleries.get g).closeT, e.st.servedIn g .closing with
  | some _, some d =>
    let e' := e.on fun s => s.leaveClosing d.cls
    match d.torn with
    | some by_ => (e'.finishStep g).freeTransfer d by_.ending
    | none =>
      e'.on fun s =>
        (s.modGallery g fun x =>
          { x with closeT := none, settleT := s.timer (s.ws.settle.get d.cls) }).modDesc d.id
            fun d => { d with state := .settling }
  | _, _ => e

/-- CLOSE_TIMER_EXPIRY (R88). -/
def execCloseTimerExpiry (g : Gallery) (s : State) : Outcome := .next (event (Ev.closeExpiry g) s)

/-- The settle interval expires (R89): the step in flight is removed, the gallery goes to IDLE and the descriptor is evaluated
against the step's end reason. -/
def Ev.settleExpiry (g : Gallery) (e : Ev) : Ev :=
  let x := e.st.glc.galleries.get g
  match x.settleT, e.st.servedIn g .settling with
  | some _, some d => (e.finishStep g).evaluate d.id (x.flight.bind Flight.ending)
  | _, _ => e

/-- SETTLE_EXPIRY (R89). -/
def execSettleExpiry (g : Gallery) (s : State) : Outcome := .next (event (Ev.settleExpiry g) s)

/-! ### Persistence (R37, R112) -/

/-- TYRE_PERSISTENCE_EXPIRY (R37). -/
def execTyrePersistenceExpiry (t : Tyre) (s : State) : Outcome :=
  .next (event (fun e => if (e.st.tgu.tyres.get t).timer.isSome then e.tyreExpiry t else e) s)

/-- HEIGHT_PERSISTENCE_EXPIRY (R112). -/
def execHeightPersistenceExpiry (s : State) : Outcome :=
  .next (event (fun e => if e.st.hlc.persist.isSome then e.heightExpiry else e) s)

/-! ### The speed guard (R34) -/

/-- OVER_SPEED_EXPIRY (R34, R35): the guard turns ON. -/
def execOverSpeedExpiry (s : State) : Outcome :=
  .next (event (fun e => if e.st.tgu.guard.overT.isSome ∧ !e.st.tgu.guard.on then e.guardOn else e) s)

/-- UNDER_SPEED_EXPIRY (R34, R35): the guard turns OFF. -/
def execUnderSpeedExpiry (s : State) : Outcome :=
  .next (event (fun e => if e.st.tgu.guard.underT.isSome ∧ e.st.tgu.guard.on then e.guardOff else e) s)

/-! ### Links (R154, R155) and height authority (R108) -/

/-- BRAKE_SILENCE_EXPIRY (R154): the timer stops, and a link that is PRESENT becomes LOST. -/
def execBrakeSilenceExpiry (s : State) : Outcome :=
  .next <| event (fun e =>
    if e.st.lku.brakeSilence.isSome then
      let e' := e.on fun s => { s with lku.brakeSilence := none }
      if e'.st.tgu.vehicle.link then e'.brakeLinkLost else e'
    else e) s

/-- A stop set replaced; when it becomes empty each IDLE gallery scans (R97). -/
def Ev.setStop (x : StopSet) (e : Ev) : Ev :=
  let was := e.st.glc.stop.occupied
  let e' := e.on fun s => { s with glc.stop := x }
  if was && !x.occupied then e'.triggerBoth else e'

/-- The panel link becomes LOST (R155): PANEL leaves the stop set (R97) and its height authority lapses (R109). -/
def Ev.panelLinkLost (e : Ev) : Ev :=
  let e' := e.on fun s => { s with lku.panelLink := false }
  Ev.lapse (e'.setStop { e'.st.glc.stop with panel := false })

/-- PANEL_SILENCE_EXPIRY (R155). -/
def execPanelSilenceExpiry (s : State) : Outcome :=
  .next <| event (fun e =>
    if e.st.lku.panelSilence.isSome then
      let e' := e.on fun s => { s with lku.panelSilence := none }
      if e'.st.lku.panelLink then e'.panelLinkLost else e'
    else e) s

/-- PANEL_AUTHORITY_EXPIRY (R108). -/
def execPanelAuthorityExpiry (s : State) : Outcome :=
  .next <| event (fun e =>
    if e.st.hlc.authT.isSome then Ev.lapse (e.on fun s => { s with hlc.authT := none }) else e) s

/-! ### Beacon (R116), freshness (R122), lift (R125) -/

/-- The stretch timer expires: STRETCH becomes UNLIT (R116). -/
def State.stretchEnd (s : State) : State :=
  if s.evu.stretch.isSome then
    { s with evu.stretch := none, evu.beacon := if s.evu.beacon = .stretch then .unlit else s.evu.beacon }
  else s

/-- STRETCH_EXPIRY (R116, R117). -/
def execStretchExpiry (s : State) : Outcome := .next (event (fun e => e.on State.stretchEnd) s)

/-- FRESHNESS_EXPIRY (R122): the side becomes STALE. -/
def execFreshnessExpiry (sd : Side) (s : State) : Outcome :=
  .next (event (fun e => e.on fun s => { s with llu.fresh := s.llu.fresh.set sd none }) s)

/-- LIFT_TIMER_EXPIRY (R124, R125): the aim becomes LIFTED and the decision follows. -/
def execLiftTimerExpiry (s : State) : Outcome :=
  .next <| event (fun e =>
    if e.st.llu.liftT.isSome then Ev.aimTo true (e.on fun s => { s with llu.liftT := none }) else e) s

/-! ### Decay monitors (R133, R135) -/

/-- SNAPSHOT_EXPIRY (R133). -/
def execSnapshotExpiry (w : Watched) (s : State) : Outcome :=
  .next (event (fun e => if (e.st.spu.monitors.get w).snapshot.isSome then e.on fun s => s.snapshot w else e) s)

/-- WINDOW_EXPIRY (R135). -/
def execWindowExpiry (w : Watched) (s : State) : Outcome :=
  .next (event (fun e => if (e.st.spu.monitors.get w).window.isSome then e.windowEnd w else e) s)

/-! ### Supply window (R52) and store write (R168) -/

/-- SUPPLY_WINDOW_EXPIRY (R52). -/
def execSupplyWindowExpiry (s : State) : Outcome :=
  .next (event (fun e => if e.st.aac.window.isSome then e.supplyExpiry else e) s)

/-- The 60 ms of a store write expire (R168): the new image stands complete and the flag is cleared. -/
def State.endWrite (s : State) : State :=
  match s.sts.writing with
  | some w => { s with sts.image := some w.image, sts.writing := none }
  | none => s

/-- STORE_WRITE_END (R168). -/
def execStoreWriteEnd (s : State) : Outcome := .next (event (fun e => e.on State.endWrite) s)

/-! ### Periodic reports (R163) -/

/-- STATE_PERIOD (R163): the timer starts afresh and a STATE report goes to CAB and to PANEL. -/
def execStatePeriod (s : State) : Outcome :=
  .next <| event (fun e =>
    if e.st.evu.stateT.isSome then
      let e' := e.on fun s => { s with evu.stateT := s.timer stateTime }
      (e'.send .cab codeState (stateBytes e'.st) true).send .panel codeState (stateBytes e'.st) true
    else e) s

/-- NODES_PERIOD (R163): the timer starts afresh and a NODES report goes to CAB. -/
def execNodesPeriod (s : State) : Outcome :=
  .next <| event (fun e =>
    if e.st.evu.nodesT.isSome then
      let e' := e.on fun s => { s with evu.nodesT := s.timer nodesTime }
      e'.send .cab codeNodes (nodeString e'.st) true
    else e) s

/-- LOAD_PERIOD (R122, R163): the timer starts afresh and a LOAD report goes to BRAKE. -/
def execLoadPeriod (s : State) : Outcome :=
  .next <| event (fun e =>
    if e.st.evu.loadT.isSome then
      let e' := e.on fun s => { s with evu.loadT := s.timer loadTime }
      e'.send .brake codeLoad (loadBytes e'.st) true
    else e) s

end Sys2Proof.Machine
end

