-- ==== Sys2Proof/Machine/Ports.lean ====
section
/-! DEFINITION. The events of the two ports (R143, R144, R146, R147). -/

namespace Sys2Proof.Machine

/-- BUS_IDLE (R143). -/
def execBusIdle (s : State) : Outcome := .next (portEvent State.busIdle s)

/-- BUS_OFF (R143, R144). -/
def execBusOff (s : State) : Outcome := .next (portEvent State.busOff s)

/-- CAN_FRAME_RECEIVED (R143, R144). -/
def execCanFrameReceived (f : CanFrame) (s : State) : Outcome := .next (portEvent (fun s => s.canReceive f) s)

/-- CAN_FRAME_SENT (R143, R148). -/
def execCanFrameSent (s : State) : Outcome := .next (portEvent State.canSent s)

/-- CAN_TRANSMIT_RETRY (R143). -/
def execCanTransmitRetry (s : State) : Outcome := .next (portEvent State.canRetry s)

/-- PANEL_BYTE_RECEIVED (R146, R147). -/
def execPanelByteReceived (b : Byte) (framingError : Bool) (s : State) : Outcome :=
  .next (portEvent (fun s => s.panelByte b framingError) s)

/-- PANEL_GAP_TIMEOUT (R146). -/
def execPanelGapTimeout (s : State) : Outcome := .next (portEvent State.panelGap s)

/-- PANEL_SEND_START (R147). -/
def execPanelSendStart (s : State) : Outcome := .next (portEvent State.panelSend s)

/-- PANEL_FRAME_SENT (R147). -/
def execPanelFrameSent (s : State) : Outcome := .next (portEvent State.panelSent s)

end Sys2Proof.Machine
end

