-- ==== Sys2Proof/Machine/TyreRequests.lean ====
section
/-! DEFINITION. The requests that the target unit owns: MODE_SET, TYRE_SET, PROFILE_WRITE, VEHICLE_DATA, and PROFILE_READ of the
settings store. -/

namespace Sys2Proof.Machine

/-! ### MODE_SET (R18) -/

/-- MODE_SET at the target unit: the checks of R18 in order, then the change of mode. -/
def Ev.modeSet (mode : Byte) (e : Ev) : Ev × Answer :=
  match Mode.ofByte mode with
  | none => (e, .refused .badFormat)
  | some m =>
    if e.st.hlc.holder then (e, .refused .noAuthority)
    else if m = .loading ∧ e.st.tgu.mode ≠ .loading ∧ e.st.speedState ≠ .standstill then (e, .refused .speed)
    else if m = e.st.tgu.mode then (e, .plain)
    else (e.changeMode m, .plain)

/-- MODE_SET (R18). -/
def execModeSet (h : Hdr) (mode : Byte) (s : State) : Outcome :=
  .next (request (.modeSet h mode) h codeModeSet (Ev.modeSet mode) noFrame s)

/-! ### TYRE_SET (R27, R28) -/

/-- A tyre's override and active target written together, on acceptance (R27). -/
def State.setTyre (s : State) (t : Tyre) (override : Option Nat) (target : Nat) : State :=
  (s.setOverride t override).setTarget t target

/-- The four outcomes of R27 for a tyre whose override would become the given one. -/
def Ev.applyTyre (t : Tyre) (override : Option Nat) (clamped : Bool) (e : Ev) : Ev × Answer :=
  let target := e.st.formTarget t override
  if (e.st.descOf t.managed).isNone
      && holdsOf (e.st.pressure t.node) (fun g => decide (absDiff g target ≤ tyreTolerance)) then
    (e.on fun s => s.setTyre t override target, .accepted clamped false none [])
  else
    let r := e.ask (e.st.tyreAsk t target (.master .cab))
    match r.2 with
    | .refused => (r.1, .refused .noDescriptor)
    | x => (r.1.on fun s => (s.tyreServed t).setTyre t override target, x.answer clamped)

/-- The checks of R27 on the tyre that a request names. -/
def State.tyreRefusal (s : State) (t : Tyre) : Option Reason :=
  if s.tgu.mode = .loading then some .mode
  else if s.faulted t.node then some .nodeFault
  else if s.glc.stop.occupied then some .stopped
  else none

/-- TYRE_SET with a value at the target unit (R27). A form that is neither value nor clear is not defined (R173). -/
def Ev.tyreSet (node form : Byte) (value : Half) (e : Ev) : Ev × Answer :=
  match Tyre.ofNumber node.toNat with
  | none => (e, .refused .badFormat)
  | some t =>
    if form.toNat ≠ 0 then (e, .refused .badFormat)
    else
      match e.st.tyreRefusal t with
      | some r => (e, .refused r)
      | none =>
        let v := clamp tyreMin tyreMax value.toNat
        e.applyTyre t (some v.1) v.2

/-- TYRE_SET with a value (R27). -/
def execTyreSet (h : Hdr) (node form : Byte) (value : Half) (s : State) : Outcome :=
  .next (request (.tyreSet h node form value) h codeTyreSet (Ev.tyreSet node form value) noFrame s)

/-- TYRE_SET with clear at the target unit (R28); its value field is 0 (R173). -/
def Ev.tyreSetClear (node : Byte) (value : Half) (e : Ev) : Ev × Answer :=
  match Tyre.ofNumber node.toNat with
  | none => (e, .refused .badFormat)
  | some t =>
    if value.toNat ≠ 0 then (e, .refused .badFormat)
    else
      match e.st.tyreRefusal t with
      | some r => (e, .refused r)
      | none => if (e.st.tgu.tyres.get t).override.isNone then (e, .plain) else e.applyTyre t none false

/-- TYRE_SET with clear (R28). -/
def execTyreSetClear (h : Hdr) (node : Byte) (value : Half) (s : State) : Outcome :=
  .next (request (.tyreSetClear h node value) h codeTyreSet (Ev.tyreSetClear node value) noFrame s)

/-! ### Profiles (R26, R166) -/

/-- A holding value of the working set replaced. -/
def State.setHolding (s : State) (t : Tyre) (p : Basis) (v : Nat) : State :=
  match p with
  | .road => { s with sts.ws.road := s.sts.ws.road.set t v }
  | .field => { s with sts.ws.field := s.sts.ws.field.set t v }

/-- PROFILE_WRITE at the target unit (R26). -/
def Ev.profileWrite (node profile : Byte) (value : Half) (e : Ev) : Ev × Answer :=
  match Tyre.ofNumber node.toNat, Basis.ofByte profile with
  | some t, some p =>
    if e.st.sts.busy then (e, .refused .storeBusy)
    else
      let v := clamp tyreMin tyreMax value.toNat
      let e' := e.on fun s => s.setHolding t p v.1
      let answer := Answer.accepted v.2 false none []
      if p = e'.st.tgu.basis ∧ (e'.st.tgu.tyres.get t).override.isNone then (e'.recompute .other t, answer)
      else (e', answer)
  | _, _ => (e, .refused .badFormat)

/-- PROFILE_WRITE (R26). -/
def execProfileWrite (h : Hdr) (node profile : Byte) (value : Half) (s : State) : Outcome :=
  .next (request (.profileWrite h node profile value) h codeProfileWrite (Ev.profileWrite node profile value) noFrame s)

/-- PROFILE_READ at the settings store (R166). -/
def Ev.profileRead (node : Byte) (e : Ev) : Ev × Answer :=
  match Tyre.ofNumber node.toNat with
  | none => (e, .refused .badFormat)
  | some t =>
    (e, .accepted false false none (bytesOf 2 (e.st.ws.road.get t) ++ bytesOf 2 (e.st.ws.field.get t)))

/-- PROFILE_READ (R166). -/
def execProfileRead (h : Hdr) (node : Byte) (s : State) : Outcome :=
  .next (request (.profileRead h node) h codeProfileRead (Ev.profileRead node) noFrame s)

/-! ### VEHICLE_DATA (R22, R154) -/

/-- VEHICLE_DATA at the link unit and the target unit: undecodable fields discard it; any other restarts the silence timer and
updates the record. -/
def Ev.vehicleData (speed braking : Byte) (gB : Half) (e : Ev) : Ev × Answer :=
  match decodeVehicle e.st.tgu.vehicle.gB speed braking gB with
  | none => (e, .plain)
  | some v => ((e.on fun s => { s with lku.brakeSilence := s.timer brakeSilenceTime }).vehicleUpdate v, .plain)

/-- VEHICLE_DATA (R22). -/
def execVehicleData (h : Hdr) (speed braking : Byte) (gB : Half) (s : State) : Outcome :=
  .next (request (.vehicleData h speed braking gB) h codeVehicleData (Ev.vehicleData speed braking gB) noFrame s)

end Sys2Proof.Machine
end

