-- ==== Sys2Proof/Machine/DeckRequests.lean ====
section
/-! DEFINITION. The requests of the height loop and of the load and lift unit: HEIGHT_SET, HEIGHT_AUTHORITY, RIDE_RETURN and
LIFT_SET. -/

namespace Sys2Proof.Machine

/-! ### LIFT_SET (R129) -/

/-- The checks of R129, in order. -/
def State.liftRefusal (s : State) (x : LiftSetting) : Option Reason :=
  if x = .up ∧ s.tgu.mode ≠ .road then some .mode
  else if s.faulted .lft then some .nodeFault
  else if s.glc.stop.occupied then some .stopped
  else if x = .up ∧ !holdsOf s.llu.total (fun t => decide (t ≤ s.ws.lowerAbove)) then some .overload
  else none

/-- The setting taken, with the aim that R124 gives and the test of the lift timer (R125). -/
def State.setLiftSetting (s : State) (x : LiftSetting) : State :=
  let s' := { s with llu.setting := x }
  match x with
  | .up => s'.setAim true
  | .down => s'.setAim false
  | .auto => if s'.overloaded then s'.setAim false else s'.liftTimerTest

/-- LIFT_SET at the load and lift unit: a refused ask restores the setting, the aim and the timer. -/
def Ev.liftSet (setting : Byte) (e : Ev) : Ev × Answer :=
  match LiftSetting.ofByte setting with
  | none => (e, .refused .badFormat)
  | some x =>
    match e.st.liftRefusal x with
    | some r => (e, .refused r)
    | none =>
      let old := e.st.llu
      let r := (e.on fun s => s.setLiftSetting x).liftDecide (.master .cab)
      match r.2 with
      | none => (r.1, .plain)
      | some .refused =>
        (r.1.on fun s => { s with llu.setting := old.setting, llu.aim := old.aim, llu.liftT := old.liftT },
          .refused .noDescriptor)
      | some y => (r.1, y.answer false)

/-- LIFT_SET (R129). -/
def execLiftSet (h : Hdr) (setting : Byte) (s : State) : Outcome :=
  .next (request (.liftSet h setting) h codeLiftSet (Ev.liftSet setting) noFrame s)

/-! ### The height target by request (R103, R105, R106) -/

/-- A new target asked for by a master: equal to the current one, nothing is done; otherwise the target changes and the immediate
ask is made with the master as origin. A refusal leaves the target as it was and sets no mark (R103 line 3), for a RIDE_RETURN
too (notes/assumptions/54.md). -/
def Ev.requestTarget (m : Master) (target : Nat) (clamped : Bool) (e : Ev) : Ev × Answer :=
  if e.st.hlc.target = target then (e, .accepted clamped false none [])
  else
    let r := e.immediateAsk target (.master m) false
    match r.2 with
    | .asked .refused => (r.1, .refused .noDescriptor)
    | .asked x => (r.1.on fun s => s.setHeightTarget target, x.answer clamped)
    | _ => (r.1.on fun s => s.setHeightTarget target, .accepted clamped false none [])

/-- BLL or BLR is faulted. -/
def State.bellowsFaulted (s : State) : Bool := s.faulted .bll || s.faulted .blr

/-- The checks of R105, in order. -/
def State.heightRefusal (s : State) (m : Master) : Option Reason :=
  if m = .panel ∧ !s.hlc.holder then some .noAuthority
  else if m = .cab ∧ s.tgu.mode = .loading ∧ s.hlc.holder then some .noAuthority
  else if m = .cab ∧ s.tgu.mode ≠ .loading ∧ (s.speedState = .moving ∨ s.speedState = .unknown) then some .speed
  else if s.glc.stop.occupied then some .stopped
  else if s.bellowsFaulted then some .nodeFault
  else none

/-- The height that a HEIGHT_SET gives, before it is clamped; absent for a form that is not defined. -/
def State.heightValue (s : State) : HeightArg → Option Int
  | .absolute mm => some mm.toNat
  | .step delta => some (s.hlc.target + delta.toInt)
  | .other _ => none

/-- HEIGHT_SET at the height loop (R105): an accepted one of the panel restarts the authority timer (R108). -/
def Ev.heightSet (m : Master) (arg : HeightArg) (e : Ev) : Ev × Answer :=
  match e.st.heightValue arg with
  | none => (e, .refused .badFormat)
  | some v =>
    match e.st.heightRefusal m with
    | some r => (e, .refused r)
    | none =>
      let c := clamp hMin hMax v
      let r := e.requestTarget m c.1 c.2
      match r.2 with
      | .refused x => (r.1, .refused x)
      | a => (if m = .panel then r.1.on State.takeAuthority else r.1, a)

/-- HEIGHT_SET (R105). -/
def execHeightSet (h : Hdr) (arg : HeightArg) (s : State) : Outcome :=
  .next (request (.heightSet h arg) h codeHeightSet (Ev.heightSet h.sender arg) noFrame s)

/-- RIDE_RETURN at the height loop (R106). -/
def Ev.rideReturn (m : Master) (e : Ev) : Ev × Answer :=
  if m ≠ .panel ∧ e.st.hlc.holder then (e, .refused .noAuthority)
  else if e.st.glc.stop.occupied then (e, .refused .stopped)
  else if e.st.bellowsFaulted then (e, .refused .nodeFault)
  else e.requestTarget m e.st.nominal false

/-- RIDE_RETURN (R106). -/
def execRideReturn (h : Hdr) (s : State) : Outcome :=
  .next (request (.rideReturn h) h codeRideReturn (Ev.rideReturn h.sender) noFrame s)

/-! ### Height authority (R107) -/

/-- HEIGHT_AUTHORITY with TAKE, or with a value that is neither TAKE nor RELEASE. -/
def Ev.authorityTake (value : Byte) (e : Ev) : Ev × Answer :=
  if value.toNat ≠ 1 then (e, .refused .badFormat)
  else if e.st.tgu.mode = .loading then (e.on State.takeAuthority, .plain)
  else (e, .refused .mode)

/-- HEIGHT_AUTHORITY TAKE (R107). -/
def execHeightAuthorityTake (h : Hdr) (value : Byte) (s : State) : Outcome :=
  .next (request (.heightAuthorityTake h value) h codeHeightAuthority (Ev.authorityTake value) noFrame s)

/-- HEIGHT_AUTHORITY with RELEASE: no effect while the holder is NONE. -/
def Ev.authorityRelease (e : Ev) : Ev × Answer :=
  (if e.st.hlc.holder then e.on State.dropAuthority else e, .plain)

/-- HEIGHT_AUTHORITY RELEASE (R107). -/
def execHeightAuthorityRelease (h : Hdr) (s : State) : Outcome :=
  .next (request (.heightAuthorityRelease h) h codeHeightAuthority Ev.authorityRelease noFrame s)

end Sys2Proof.Machine
end

