-- ==== Sys2Proof/Machine/PoolRequests.lean ====
section
/-! DEFINITION. The requests of the descriptor manager, the gallery controller and the supervision unit: SEQUENCE, CANCEL, STOP,
RESUME and FAULT_CLEAR. -/

namespace Sys2Proof.Machine

/-! ### SEQUENCE (R66) -/

/-- SEQUENCE at the descriptor manager. -/
def Ev.sequence (pred succ : Byte) (e : Ev) : Ev × Answer :=
  match FamilySet.ofByte pred, FamilySet.ofByte succ with
  | some p, some q =>
    let r := e.placePoint p q (.master .cab)
    match r.2 with
    | some id => (r.1, .accepted false false (some id) [])
    | none => (r.1, .refused .noDescriptor)
  | _, _ => (e, .refused .badFormat)

/-- SEQUENCE (R66). -/
def execSequence (h : Hdr) (pred succ : Byte) (s : State) : Outcome :=
  .next (request (.sequence h pred succ) h codeSequence (Ev.sequence pred succ) noFrame s)

/-! ### CANCEL (R71, R72) -/

/-- The scopes that a sender may use (R71). -/
def CancelScope.allowed (x : CancelScope) (m : Master) : Bool :=
  match m, x with
  | .cab, _ => true
  | .brake, .own => true
  | .brake, .ofClass (.transfer .height) => true
  | .panel, .own => true
  | _, _ => false

/-- A live record is selected (R71): by the scope, and by the node where one is given. A torn descriptor is not. -/
def CancelScope.selects (x : CancelScope) (m : Master) (node : Option Managed) (r : LiveRec) : Bool :=
  match r with
  | .transfer d =>
    let own := d.origin == .master m || (d.pending.map PendingGoal.origin) == some (.master m)
    let inScope := match x with
      | .own => own
      | .ofClass (.transfer c) => d.cls == c
      | .ofClass .point => false
      | .all => true
    let named := match node with
      | some n => d.nodes.contains n
      | none => true
    inScope && named && d.torn.isNone
  | .point p =>
    node.isNone && match x with
      | .own => p.origin == .master m
      | .ofClass .point => true
      | .ofClass _ => false
      | .all => true

/-- The selected records torn down in live-list order (R72). The second part lists the transfers that have left the live list,
whose owning loops are still to be told. -/
def Ev.cancelRecords : List LiveRec → Ev → Ev × List Desc
  | [], e => (e, [])
  | .point p :: rs, e => Ev.cancelRecords rs ((e.on fun s => s.unlink p.id).triggerBoth)
  | .transfer d :: rs, e =>
    let r := e.tearDown .cancel d
    let k := Ev.cancelRecords rs r.1
    (k.1, if r.2 then d :: k.2 else k.2)

/-- The owning loops told of transfers freed TORN, in order (R63). -/
def Ev.ownersTold : List Desc → Ev → Ev
  | [], e => e
  | d :: ds, e => Ev.ownersTold ds (e.ownerFreed d .torn)

/-- CANCEL at the descriptor manager: the selected records are torn down, the points that stay are tested where a transfer was freed,
and the owning loops are told. The reply carries the count. -/
def Ev.cancel (m : Master) (scope cls node : Byte) (e : Ev) : Ev × Answer :=
  match CancelScope.ofBytes scope cls, cancelNode node with
  | some x, some n =>
    if x.allowed m then
      let chosen := e.st.dqm.live.filter (x.selects m n)
      let r := Ev.cancelRecords chosen e
      let e' := if r.2.isEmpty then r.1 else r.1.testPoints
      (e'.ownersTold r.2, .accepted false false none [byteOf chosen.length])
    else (e, .refused .notPermitted)
  | _, _ => (e, .refused .badFormat)

/-- CANCEL (R71). -/
def execCancel (h : Hdr) (scope cls node : Byte) (s : State) : Outcome :=
  .next (request (.cancel h scope cls node) h codeCancel (Ev.cancel h.sender scope cls node) noFrame s)

/-! ### STOP and RESUME (R96, R97) -/

/-- The stop set with a master's membership written; BRAKE is never a member. -/
def StopSet.put (x : StopSet) (m : Master) (b : Bool) : StopSet :=
  match m with
  | .cab => { x with cab := b }
  | .panel => { x with panel := b }
  | .brake => x

/-- STOP at the gallery controller: the sender joins the stop set and every step is cut. -/
def Ev.stopAll (m : Master) (e : Ev) : Ev × Answer :=
  (e.on fun s => State.cutBoth { s with glc.stop := s.glc.stop.put m true } fun _ => true, .plain)

/-- STOP (R96). -/
def execStop (h : Hdr) (s : State) : Outcome :=
  .next (request (.stop h) h codeStop (Ev.stopAll h.sender) noFrame s)

/-- RESUME at the gallery controller: the sender leaves the stop set. -/
def Ev.resume (m : Master) (e : Ev) : Ev × Answer := (e.setStop (e.st.glc.stop.put m false), .plain)

/-- RESUME (R97). -/
def execResume (h : Hdr) (s : State) : Outcome :=
  .next (request (.resume h) h codeResume (Ev.resume h.sender) noFrame s)

/-! ### FAULT_CLEAR (R139) -/

/-- FAULT_CLEAR at the supervision unit. -/
def Ev.faultClear (node : Byte) (e : Ev) : Ev × Answer :=
  match clearTargets node with
  | none => (e, .refused .badFormat)
  | some ns => if e.st.speedState = .standstill then (e.clearFaults ns, .plain) else (e, .refused .speed)

/-- FAULT_CLEAR (R139). -/
def execFaultClear (h : Hdr) (node : Byte) (s : State) : Outcome :=
  .next (request (.faultClear h node) h codeFaultClear (Ev.faultClear node) noFrame s)

end Sys2Proof.Machine
end

