-- ==== Sys2Proof/Machine/SettingsRequests.lean ====
section
/-! DEFINITION. The requests of the settings store, the event unit and the link unit: CONFIG_READ, CONFIG_WRITE, STORE,
STATUS_READ, MASK_SET, TEST_EVENT, PANEL_ALIVE, and a frame of no request kind. -/

namespace Sys2Proof.Machine

/-! ### CONFIG_READ and CONFIG_WRITE (R165) -/

/-- CONFIG_READ at the settings store. -/
def Ev.configRead (number : Byte) (e : Ev) : Ev × Answer :=
  match e.st.ws.param number.toNat with
  | some v => (e, .accepted false false none (number :: bytesOf 2 v))
  | none => (e, .refused .badFormat)

/-- CONFIG_READ (R165). -/
def execConfigRead (h : Hdr) (number : Byte) (s : State) : Outcome :=
  .next (request (.configRead h number) h codeConfigRead (Ev.configRead number) noFrame s)

/-- The checks of R165, in order. -/
def State.configRefusal (s : State) (n v : Nat) : Option Reason :=
  if !paramEncodes n v then some .badFormat
  else if s.sts.busy then some .storeBusy
  else if s.speedState ≠ .standstill then some .speed
  else if !s.ws.accepts n v then some .badValue
  else none

/-- A parameter written into the working set. -/
def State.writeParam (s : State) (n v : Nat) : State := { s with sts.ws := s.sts.ws.setParam n v }

/-- An accepted write handed to the block that uses the parameter, where its rule acts at once: RATED, GUARD_FLOOR and LOAD_FOLLOW
(R33), BRAKE_MIN (R49), LIFT_BELOW (R125) and LOWER_ABOVE (R124). -/
def Ev.paramWritten (n : Nat) (e : Ev) : Ev :=
  match n with
  | 13 => e.recomputeAll .other
  | 15 => e.brakeDecision
  | 17 => e.recomputeAll .other
  | 20 => e.on State.liftTimerTest
  | 21 => e.overloadTest
  | 22 => e.recomputeAll .other
  | _ => e

/-- CONFIG_WRITE at the settings store. -/
def Ev.configWrite (number : Byte) (value : Half) (e : Ev) : Ev × Answer :=
  match e.st.configRefusal number.toNat value.toNat with
  | some r => (e, .refused r)
  | none => ((e.on fun s => s.writeParam number.toNat value.toNat).paramWritten number.toNat, .plain)

/-- The reply to an accepted write of an address goes to the address that the request came from (R145). -/
def writesAddress (number : Byte) (a : Answer) : Bool :=
  match a with
  | .accepted .. => decide (33 ≤ number.toNat) && decide (number.toNat ≤ 35)
  | .refused _ => false

/-- CONFIG_WRITE (R165). -/
def execConfigWrite (h : Hdr) (number : Byte) (value : Half) (s : State) : Outcome :=
  .next (request (.configWrite h number value) h codeConfigWrite (Ev.configWrite number value) (writesAddress number) s)

/-! ### STORE (R168) -/

/-- A store write begun: the working set is taken as the new image, and until the write ends the store holds no good image. -/
def State.beginWrite (s : State) : State :=
  { s with
    sts.image := none
    sts.writing := some { image := s.sts.ws.image, timer := ⟨s.now, storeTime⟩ } }

/-- STORE at the settings store. -/
def Ev.storeSettings (e : Ev) : Ev × Answer :=
  if e.st.sts.busy then (e, .refused .storeBusy) else (e.on State.beginWrite, .plain)

/-- STORE (R168). -/
def execStore (h : Hdr) (s : State) : Outcome :=
  .next (request (.store h) h codeStore Ev.storeSettings noFrame s)

/-! ### STATUS_READ (R161) -/

/-- The STATUS reply of a state to a sender (R151, R161). -/
def State.statusReply (s : State) (h : Hdr) : OutMsg where
  master := h.sender
  src := byteOf s.ws.ownAddr
  dst := s.ws.address h.sender
  code := codeStatus
  bytes := statusBytes s h.sender h.tag
  periodic := false

/-- A STATUS_READ that passes its checks: the reply is queued; if it was, or if NO_REPLY is set, the sender's latch set is cleared
and its latch-low conditions are rearmed (R161). -/
def State.readStatus (s : State) (h : Hdr) : State :=
  if h.noReply then s.rearm h.sender
  else
    let r := s.enqueue (s.statusReply h)
    if r.2 then r.1.rearm h.sender else r.1

/-- STATUS_READ (R161): taken in STARTING as in RUN. -/
def execStatusRead (h : Hdr) (s : State) : Outcome :=
  .next <|
    if s.sts.phase = .reset then s
    else
      let t := (s.receive h (.statusRead h)).1
      match t.commonRefusal h codeStatusRead with
      | some r =>
        let reply := t.reply h (byteOf codeStatusRead) (t.ws.address h.sender) (.refused r)
        (Ev.of t).close (if repliesToRefusal h codeStatusRead r then some reply else none)
      | none => t.readStatus h

/-! ### MASK_SET and TEST_EVENT (R158, R159) -/

/-- A mask word as a set of event kinds: bit k for code k. -/
def maskOf (x : Half) : PerKind Bool :=
  EventKind.list.foldl (fun p k => p.set k (x.getLsbD k.code)) (PerKind.fill false)

/-- MASK_SET at the event unit: a mask with bit 14 (TEST) or bit 15 set is not defined. -/
def Ev.maskSet (m : Master) (mask : Half) (e : Ev) : Ev × Answer :=
  if mask.getLsbD 14 || mask.getLsbD 15 then (e, .refused .badFormat)
  else (e.on fun s => { s with evu.masks := s.evu.masks.set m (maskOf mask) }, .plain)

/-- MASK_SET (R158). -/
def execMaskSet (h : Hdr) (mask : Half) (s : State) : Outcome :=
  .next (request (.maskSet h mask) h codeMaskSet (Ev.maskSet h.sender mask) noFrame s)

/-- TEST_EVENT (R159). -/
def execTestEvent (h : Hdr) (s : State) : Outcome :=
  .next (request (.testEvent h) h codeTestEvent (fun e => (e.latchTest h.sender, .plain)) noFrame s)

/-! ### PANEL_ALIVE (R155) and frames of no request kind (R149) -/

/-- PANEL_ALIVE: no effect beyond the restart of the panel silence timer that every good panel frame makes. -/
def execPanelAlive (h : Hdr) (s : State) : Outcome :=
  .next (request (.panelAlive h) h codePanelAlive (fun e => (e, .plain)) noFrame s)

/-- UNKNOWN_REQUEST: a frame whose kind is no request kind fails check 1 of R149. Its BAD_FORMAT reply carries the kind byte as
received and is queued whatever the flags byte holds (R152). -/
def execUnknownRequest (h : Hdr) (kind : Byte) (s : State) : Outcome :=
  .next <|
    if s.sts.phase = .reset then s
    else
      let t := (s.receive h (.unknownRequest h kind)).1
      (Ev.of t).close (some (t.reply h kind (t.ws.address h.sender) (.refused .badFormat)))

end Sys2Proof.Machine
end

