-- ==== Sys2Proof/Machine/Dispatch.lean ====
section
/-! DEFINITION. The dispatch: one arm for each command, each one call of the command's meaning. -/

namespace Sys2Proof.Machine

/-- The effect of a command on everything but the queue. -/
def exec (i : Instr) (s : State) : Host.Outcome State Fault Refusal :=
  match i with
  | .resetAssert => Sys2Proof.Machine.execResetAssert s
  | .start => Sys2Proof.Machine.execStart s
  | .pressureArrival n x => Sys2Proof.Machine.execPressureArrival n x s
  | .heightArrival sd x => Sys2Proof.Machine.execHeightArrival sd x s
  | .openTimerExpiry g => Sys2Proof.Machine.execOpenTimerExpiry g s
  | .stepTimeout g => Sys2Proof.Machine.execStepTimeout g s
  | .closeTimerExpiry g => Sys2Proof.Machine.execCloseTimerExpiry g s
  | .settleExpiry g => Sys2Proof.Machine.execSettleExpiry g s
  | .tyrePersistenceExpiry t => Sys2Proof.Machine.execTyrePersistenceExpiry t s
  | .heightPersistenceExpiry => Sys2Proof.Machine.execHeightPersistenceExpiry s
  | .overSpeedExpiry => Sys2Proof.Machine.execOverSpeedExpiry s
  | .underSpeedExpiry => Sys2Proof.Machine.execUnderSpeedExpiry s
  | .brakeSilenceExpiry => Sys2Proof.Machine.execBrakeSilenceExpiry s
  | .panelSilenceExpiry => Sys2Proof.Machine.execPanelSilenceExpiry s
  | .panelAuthorityExpiry => Sys2Proof.Machine.execPanelAuthorityExpiry s
  | .stretchExpiry => Sys2Proof.Machine.execStretchExpiry s
  | .freshnessExpiry sd => Sys2Proof.Machine.execFreshnessExpiry sd s
  | .liftTimerExpiry => Sys2Proof.Machine.execLiftTimerExpiry s
  | .snapshotExpiry w => Sys2Proof.Machine.execSnapshotExpiry w s
  | .windowExpiry w => Sys2Proof.Machine.execWindowExpiry w s
  | .supplyWindowExpiry => Sys2Proof.Machine.execSupplyWindowExpiry s
  | .storeWriteEnd => Sys2Proof.Machine.execStoreWriteEnd s
  | .statePeriod => Sys2Proof.Machine.execStatePeriod s
  | .nodesPeriod => Sys2Proof.Machine.execNodesPeriod s
  | .loadPeriod => Sys2Proof.Machine.execLoadPeriod s
  | .busIdle => Sys2Proof.Machine.execBusIdle s
  | .busOff => Sys2Proof.Machine.execBusOff s
  | .canFrameReceived f => Sys2Proof.Machine.execCanFrameReceived f s
  | .canFrameSent => Sys2Proof.Machine.execCanFrameSent s
  | .canTransmitRetry => Sys2Proof.Machine.execCanTransmitRetry s
  | .panelByteReceived b framingError => Sys2Proof.Machine.execPanelByteReceived b framingError s
  | .panelGapTimeout => Sys2Proof.Machine.execPanelGapTimeout s
  | .panelSendStart => Sys2Proof.Machine.execPanelSendStart s
  | .panelFrameSent => Sys2Proof.Machine.execPanelFrameSent s
  | .unknownRequest h kind => Sys2Proof.Machine.execUnknownRequest h kind s
  | .modeSet h mode => Sys2Proof.Machine.execModeSet h mode s
  | .tyreSet h node form value => Sys2Proof.Machine.execTyreSet h node form value s
  | .tyreSetClear h node value => Sys2Proof.Machine.execTyreSetClear h node value s
  | .profileWrite h node profile value => Sys2Proof.Machine.execProfileWrite h node profile value s
  | .profileRead h node => Sys2Proof.Machine.execProfileRead h node s
  | .liftSet h setting => Sys2Proof.Machine.execLiftSet h setting s
  | .sequence h pred succ => Sys2Proof.Machine.execSequence h pred succ s
  | .faultClear h node => Sys2Proof.Machine.execFaultClear h node s
  | .configRead h number => Sys2Proof.Machine.execConfigRead h number s
  | .configWrite h number value => Sys2Proof.Machine.execConfigWrite h number value s
  | .store h => Sys2Proof.Machine.execStore h s
  | .heightSet h arg => Sys2Proof.Machine.execHeightSet h arg s
  | .heightAuthorityTake h value => Sys2Proof.Machine.execHeightAuthorityTake h value s
  | .heightAuthorityRelease h => Sys2Proof.Machine.execHeightAuthorityRelease h s
  | .rideReturn h => Sys2Proof.Machine.execRideReturn h s
  | .vehicleData h speed braking gB => Sys2Proof.Machine.execVehicleData h speed braking gB s
  | .panelAlive h => Sys2Proof.Machine.execPanelAlive h s
  | .cancel h scope cls node => Sys2Proof.Machine.execCancel h scope cls node s
  | .stop h => Sys2Proof.Machine.execStop h s
  | .resume h => Sys2Proof.Machine.execResume h s
  | .statusRead h => Sys2Proof.Machine.execStatusRead h s
  | .maskSet h mask => Sys2Proof.Machine.execMaskSet h mask s
  | .testEvent h => Sys2Proof.Machine.execTestEvent h s

end Sys2Proof.Machine
end

