-- ==== Sys2Proof/Machine/Step.lean ====
section
/-! DEFINITION. One step of the machine: the command at the front of the queue is taken and carried out with the queue's rest; on an
empty queue a millisecond passes. -/

namespace Sys2Proof.Machine

/-- A millisecond of the model's clock with no event in it: only `now` advances (DESIGN CHOICE, notes/assumptions/2.md). The expiries
of timers are commands of the table, so nothing else is due to time alone. -/
def State.tick (s : State) : State := { s with now := s.now + 1 }

/-- One step: the command at the front of the queue, run on the state with the queue's rest. -/
def step (s : State) : Host.Outcome State Fault Refusal :=
  match s.pending with
  | c :: rest => exec c { s with pending := rest }
  | [] => .next s.tick

/-- The state with the command that a table word spells at the front of its queue, and the state itself where the word spells none.
The table gives no row any bits, so no word spells a command. -/
def State.withFetchWord (s : State) (nbits w : Nat) : State :=
  match decodeTableWord nbits w with
  | some c => { s with pending := c :: s.pending }
  | none => s

end Sys2Proof.Machine
end

