-- ==== Sys2Proof/Safety.lean ====
section
/-! DEFINITION. What counts as a safe state, in the terms that claims use: the pool is whole (R55), a node is named once (R59), a
descriptor has the nodes and the kind of its class (section 4.2, R57), the steps in flight and the descriptors they serve agree
(R75), every restriction keeps the air from moving (R50, R93, R96), no valve is open without a step (R3, R88), the readings lie in
their ranges (R8, R10), and the settings are legal (R26, R165, R169). -/

namespace Sys2Proof.Machine

/-- The live transfer descriptors, oldest first. -/
def State.transfers (s : State) : List Desc := s.dqm.live.filterMap LiveRec.desc

/-- The ids of the live records, oldest first. -/
def State.liveIds (s : State) : List Nat := s.dqm.live.map LiveRec.id

/-- R55: the free list and the live list together hold the eight records, each once. -/
def PoolWhole (s : State) : Prop := (s.dqm.free ++ s.liveIds).Perm [0, 1, 2, 3, 4, 5, 6, 7]

/-- R59: each managed node is named by at most one live transfer descriptor. -/
def NodesOnce (s : State) : Prop :=
  s.transfers.Pairwise fun d e => ∀ m ∈ d.nodes, m ∉ e.nodes

/-- The node list that a class names (section 4.2). -/
def Cls.names (c : Cls) (ns : List Managed) : Prop :=
  match c with
  | .height => ns = [.bll, .blr]
  | .lift => ns = [.lft]
  | .tyre => ∃ t : Tyre, ns = [t.managed]

/-- The step kinds that a class takes (R57). -/
def Cls.takes (c : Cls) (k : StepKind) : Prop :=
  match c with
  | .height => k ≠ .fill ∧ k ≠ .vent
  | _ => k = .fill ∨ k = .vent

/-- A descriptor names the nodes of its class and has a step kind of its class (section 4.2, R57). -/
structure Desc.Shaped (d : Desc) : Prop where
  names : d.cls.names d.nodes
  takes : d.cls.takes d.kind

/-- Every live descriptor has the nodes and the step kind of its class. -/
def AllShaped (s : State) : Prop := ∀ d ∈ s.transfers, d.Shaped

/-- R75: a step in flight serves a live descriptor in flight whose kind maps to the gallery, and every descriptor in flight is
served by the gallery of its kind. -/
structure StepsCoupled (s : State) : Prop where
  served : ∀ g f, (s.glc.galleries.get g).flight = some f →
    ∃ d ∈ s.transfers, d.id = f.id ∧ d.kind.gallery = g ∧ d.state ≠ .queued
  carried : ∀ d ∈ s.transfers, d.state ≠ .queued →
    ∃ f, (s.glc.galleries.get d.kind.gallery).flight = some f ∧ f.id = d.id

/-- No live descriptor that meets a test is in OPENING or FLOWING. -/
def AirStill (s : State) (test : Desc → Bool) : Prop :=
  ∀ d ∈ s.transfers, test d = true → d.state.airMoves = false

/-- The three restrictions that cut a step: a stop in force (R96), the hold (R93) and brake priority (R50). -/
structure Restrained (s : State) : Prop where
  stopped : s.glc.stop.occupied = true → AirStill s fun _ => true
  held : s.held = true → AirStill s fun d => d.cls.movesDeck
  braked : s.aac.priority = true → AirStill s fun d => d.kind.isFill

/-- Some output of a gallery is energised. -/
def Valves.anyOpen (v : Valves) : Gallery → Bool
  | .a => v.rsv || v.a != PerManaged.fill false
  | .b => v.exhaust || v.b != PerManaged.fill false

/-- An output of a gallery is energised only while a step of that gallery is in OPENING or FLOWING (R3, R88). -/
def ValvesServed (s : State) : Prop :=
  ∀ g, s.glc.valves.anyOpen g = true → ∃ d ∈ s.transfers, d.kind.gallery = g ∧ d.state.airMoves = true

/-- An entry of the reading table lies in its ranges (R8). -/
def Reading.inRange (r : Reading) : Prop := r.value ≤ pressureMax ∧ r.run ≤ runMax ∧ (r.valid = true → r.run = 0)

/-- A height entry lies in its ranges (R10, R11). -/
def HeightEntry.inRange (h : HeightEntry) : Prop :=
  h.ring.length ≤ ringSize ∧ (∀ v ∈ h.ring, v ≤ travelMax) ∧ h.run ≤ runMax ∧ (h.valid = true → h.run = 0)

/-- The measurement unit's tables lie in their ranges. -/
structure ReadingsInRange (s : State) : Prop where
  nodes : ∀ n, (s.msu.nodes.get n).inRange
  sides : ∀ sd, (s.msu.heights.get sd).inRange

/-- The working set is legal: every value in its range and every relation of section 11.1 met. -/
def SettingsLegal (s : State) : Prop := s.sts.ws.legal = true

/-- A safe state. -/
structure Safe (s : State) : Prop where
  pool : PoolWhole s
  nodes : NodesOnce s
  shaped : AllShaped s
  coupled : StepsCoupled s
  restrained : Restrained s
  valves : ValvesServed s

/-- Every tyre's override and active target lies within 300 to 820 kPa, and the height target within HMIN to HMAX (section 2.3,
R100). -/
structure TargetsInRange (s : State) : Prop where
  overrides : ∀ t v, (s.tgu.tyres.get t).override = some v → tyreMin ≤ v ∧ v ≤ tyreMax
  tyres : ∀ t, tyreMin ≤ (s.tgu.tyres.get t).target ∧ (s.tgu.tyres.get t).target ≤ tyreMax
  height : hMin ≤ s.hlc.target ∧ s.hlc.target ≤ hMax

/-- What one latch set holds, the other holds (R157). -/
def LatchesLe (a b : LatchSet) : Prop :=
  ∀ k p, a.get k = some p → ∃ q, b.get k = some q ∧ ∀ n, p.get n = true → q.get n = true

/-- The queues of the link unit hold no more frames than they have room for (R144, R148). -/
structure QueuesBounded (s : State) : Prop where
  fifo : s.lku.fifo.length ≤ fifoSize
  canTx : queueLength s.lku.canTx ≤ canQueueSize
  panelTx : queueLength s.lku.panelTx ≤ panelQueueSize

/-- The header and kind code of a request command; events carry none. -/
def headerOf : Instr → Option (Hdr × Nat)
  | .modeSet h _ => some (h, codeModeSet)
  | .tyreSet h _ _ _ => some (h, codeTyreSet)
  | .tyreSetClear h _ _ => some (h, codeTyreSet)
  | .profileWrite h _ _ _ => some (h, codeProfileWrite)
  | .profileRead h _ => some (h, codeProfileRead)
  | .liftSet h _ => some (h, codeLiftSet)
  | .sequence h _ _ => some (h, codeSequence)
  | .faultClear h _ => some (h, codeFaultClear)
  | .configRead h _ => some (h, codeConfigRead)
  | .configWrite h _ _ => some (h, codeConfigWrite)
  | .store h => some (h, codeStore)
  | .heightSet h _ => some (h, codeHeightSet)
  | .heightAuthorityTake h _ => some (h, codeHeightAuthority)
  | .heightAuthorityRelease h => some (h, codeHeightAuthority)
  | .rideReturn h => some (h, codeRideReturn)
  | .vehicleData h _ _ _ => some (h, codeVehicleData)
  | .panelAlive h => some (h, codePanelAlive)
  | .cancel h _ _ _ => some (h, codeCancel)
  | .stop h => some (h, codeStop)
  | .resume h => some (h, codeResume)
  | .statusRead h => some (h, codeStatusRead)
  | .maskSet h _ => some (h, codeMaskSet)
  | .testEvent h => some (h, codeTestEvent)
  | .resetAssert => none | .start => none | .pressureArrival .. => none | .heightArrival .. => none
  | .openTimerExpiry _ => none | .stepTimeout _ => none | .closeTimerExpiry _ => none | .settleExpiry _ => none
  | .tyrePersistenceExpiry _ => none | .heightPersistenceExpiry => none | .overSpeedExpiry => none
  | .underSpeedExpiry => none | .brakeSilenceExpiry => none | .panelSilenceExpiry => none
  | .panelAuthorityExpiry => none | .stretchExpiry => none | .freshnessExpiry _ => none | .liftTimerExpiry => none
  | .snapshotExpiry _ => none | .windowExpiry _ => none | .supplyWindowExpiry => none | .storeWriteEnd => none
  | .statePeriod => none | .nodesPeriod => none | .loadPeriod => none | .busIdle => none | .busOff => none
  | .canFrameReceived _ => none | .canFrameSent => none | .canTransmitRetry => none | .panelByteReceived .. => none
  | .panelGapTimeout => none | .panelSendStart => none | .panelFrameSent => none | .unknownRequest .. => none

end Sys2Proof.Machine
end

