-- ==== Sys2Proof/Frame.lean ====
section
/-! DEFINITION. What a frame speaks of: the fields of the state that no shared operation of an event writes, so that a statement can
list the ones that a command changes; what queueing a message changes; when a request is taken and what it is answered; and the tables of
R79, R82, R103 and R127, line by line. -/

namespace Sys2Proof.Machine

/-- The fields of the state that the shared operations of an event leave alone: the readings, the settings, the link unit, the
mode, the vehicle state record, the guard, the overrides, the air account's flags, the stop set, the height target and authority, the
lift setting, the side loads, the latch-low conditions, the masks and the report timers. -/
structure Fixed where
  msu       : Msu
  sts       : Sts
  lku       : Lku
  now       : Nat
  freeCount : Nat
  pending   : List Instr
  mode      : Mode
  basis     : Basis
  vehicle   : Vehicle
  guard     : Guard
  overrides : PerTyre (Option Nat)
  priority  : Bool
  reported  : Nat
  supply    : Bool
  recovery  : Option Nat
  stop      : StopSet
  target    : Nat
  holder    : Bool
  authT     : Timer
  recounts  : PerSide Nat
  setting   : LiftSetting
  load      : PerSide (Option Nat)
  fresh     : PerSide Timer
  lftSeen   : Bool
  supplyOk  : PerMaster Bool
  brakeOk   : PerMaster Bool
  masks     : PerMaster (PerKind Bool)
  stateT    : Timer
  nodesT    : Timer
  loadT     : Timer

/-- The overrides of the six tyres. -/
def Tgu.overrides (x : Tgu) : PerTyre (Option Nat) :=
  ⟨x.tyres.t1l.override, x.tyres.t1r.override, x.tyres.t2l.override, x.tyres.t2r.override, x.tyres.t3l.override,
   x.tyres.t3r.override⟩

/-- The fixed fields of a state. -/
def State.fixed (s : State) : Fixed where
  msu := s.msu
  sts := s.sts
  lku := s.lku
  now := s.now
  freeCount := s.freeCount
  pending := s.pending
  mode := s.tgu.mode
  basis := s.tgu.basis
  vehicle := s.tgu.vehicle
  guard := s.tgu.guard
  overrides := s.tgu.overrides
  priority := s.aac.priority
  reported := s.aac.reported
  supply := s.aac.supply
  recovery := s.aac.recovery
  stop := s.glc.stop
  target := s.hlc.target
  holder := s.hlc.holder
  authT := s.hlc.authT
  recounts := s.hlc.recovery
  setting := s.llu.setting
  load := s.llu.load
  fresh := s.llu.fresh
  lftSeen := s.llu.lftSeen
  supplyOk := s.evu.supplyOk
  brakeOk := s.evu.brakeOk
  masks := s.evu.masks
  stateT := s.evu.stateT
  nodesT := s.evu.nodesT
  loadT := s.evu.loadT

/-- The link unit of t is that of s but for the transmit queues. -/
def SameLink (s t : State) : Prop := t.lku = { s.lku with canTx := t.lku.canTx, panelTx := t.lku.panelTx }

/-- t is s but for the transmit queues and the counter of the free value: messages have been queued (R148). -/
def Queued (s t : State) : Prop :=
  t = { s with lku.canTx := t.lku.canTx, lku.panelTx := t.lku.panelTx, freeCount := t.freeCount }

/-- A request that passes checks 2 to 4 of R149 in RUN: its sender may send the kind, and its shape and flags byte are defined. -/
structure Passes (s : State) (h : Hdr) (code : Nat) : Prop where
  run : s.sts.phase = .run
  role : roleAllows code h.sender = true
  shape : h.wellShaped = true

/-- The state once a request's frame has left its receiver and a panel frame has been heard (R144, R155). -/
def State.heard (s : State) (h : Hdr) (c : Instr) : State := (s.receive h c).1

/-- What a request that has passed its checks is sent in answer (R151, R152): one reply, or none where NO_REPLY is set. -/
def State.replies (s : State) (h : Hdr) (code : Nat) (a : Answer) : List OutMsg :=
  if h.noReply then [] else [s.reply h (byteOf code) (s.ws.address h.sender) a]

/-- The state after a request that ends in this state and is answered so, with nothing behind the answer. -/
def State.answered (s r : State) (h : Hdr) (code : Nat) (a : Answer) : State := s.enqueueAll (r.replies h code a)

/-- Every queued transfer is queued for a gallery with a step in flight: a grant scan finds nothing to grant (R78, R79). -/
def NoGrant (s : State) : Prop := ∀ d ∈ s.transfers, d.state = .queued → s.idle d.kind.gallery = false

/-- Both galleries have a step in flight. -/
def Busy (s : State) : Prop := s.idle .a = false ∧ s.idle .b = false

/-- The panel receiver over a run of bytes without a framing error: its state after them, and the good frames they completed. -/
def PanelRx.takeAll (x : PanelRx) : List Byte → PanelRx × List PanelFrame
  | [] => (x, [])
  | b :: bs =>
    let r := x.take b false
    let k := PanelRx.takeAll r.1 bs
    (k.1, r.2.toList ++ k.2)

/-- The kind is in a latch set and names these nodes at least. -/
def LatchSet.holds (x : LatchSet) (k : EventKind) (ns : List Node) : Prop :=
  ∃ p, x.get k = some p ∧ ∀ n ∈ ns, p.get n = true

/-- Every master's latch set holds the kind with these nodes (R157). -/
def LatchedAll (s : State) (k : EventKind) (ns : List Node) : Prop := ∀ m, LatchSet.holds (s.evu.latches.get m) k ns

/-! ### Answers -/

/-- A request taken in r ends in t with this answer queued first and its reports behind it (R151): before them the transmit queues are
those of r. -/
def Answers (r t : State) (h : Hdr) (code : Nat) (a : Answer) : Prop :=
  ∃ (u : State) (reports : List OutMsg),
    u.lku = r.lku ∧ u.freeCount = r.freeCount ∧ t = u.enqueueAll (r.replies h code a ++ reports)

/-- A request whose ask is refused ends in t (R60): the reply is REFUSED with NO_DESCRIPTOR, STARVED is latched naming the nodes, only its
EVENT reports stand behind the reply, and the rest of t is r. -/
def AnswersStarved (r t : State) (h : Hdr) (code : Nat) (ns : List Node) : Prop :=
  ∃ (x : PerMaster LatchSet) (reports : List OutMsg),
    t = ({ r with evu.latches := x }).enqueueAll (r.replies h code (.refused .noDescriptor) ++ reports) ∧
    (∀ m, LatchSet.holds (x.get m) .starved ns ∧ ∀ k, k ≠ .starved → (x.get m).get k = (r.evu.latches.get m).get k) ∧
    ∀ o ∈ reports, o.code = 27 ∧ o.bytes.head? = some 12 ∧ o.periodic = false

/-! ### Tables -/

/-- The answer to a master whose new height target is taken (R103): LOCKED_OUT asks nothing (line 1), a live HEIGHT descriptor that is not
torn is merged into (line 2), an UNORDERED height or a goal met asks nothing (lines 4 and 5), and any other choice takes the record at the head
of the free list (line 6). -/
def State.deckAnswer (s : State) (goal : Nat) (clamped : Bool) : Answer :=
  if s.hlc.lockout.occupied then .accepted clamped false none []
  else
    match s.descOfClass .height, s.height .left, s.height .right with
    | some d, _, _ => .accepted clamped true (some d.id) []
    | none, some l, some r =>
      .accepted clamped false (if (chooseKind goal l r (s.pressure .bll) (s.pressure .blr)).isSome then s.dqm.free.head? else none) []
    | none, _, _ => .accepted clamped false none []

/-- The table of R127 for an aim: the goal that the lift decision asks for and the lift state when the ask is taken. -/
def State.liftTable (s : State) (aim : Bool) : Option (Nat × LiftState) :=
  let free := (s.descOfClass .lift).isNone
  match s.llu.lift, aim, s.pressure .lft with
  | .lowered, true, _ => some (450, .lifting)
  | .lowering, true, _ => some (450, .lifting)
  | .lifted, false, _ => some (0, .lowering)
  | .lifting, false, _ => some (0, .lowering)
  | .lowered, false, some g => if free = true ∧ 20 < g then some (0, .lowering) else none
  | .lifted, true, some g => if free = true ∧ g < 430 then some (450, .lifted) else none
  | _, _, _ => none

/-- The transfers that a scan of a gallery tests (R79), oldest first. -/
def State.scanned (s : State) (g : Gallery) : List Desc :=
  s.transfers.filter fun d => d.state == .queued && d.kind.gallery == g

/-- Conditions 1 to 6 of R79 in their order: the wait reason of the first that fails. -/
def State.barred (s : State) (d : Desc) : Option Wait :=
  let older := s.dqm.live.takeWhile fun l => l.id != d.id
  let holds (l : LiveRec) : Bool :=
    match l with
    | .point p => if d.kind.isFill then p.succ.fill else p.succ.vent
    | .transfer _ => false
  if older.any holds = true then some .point
  else if s.glc.stop.cab = true ∨ s.glc.stop.panel = true then some .stop
  else if d.cls ≠ .tyre ∧ (s.tgu.vehicle.braking = true ∨ s.speedState = .unknown) then some .hold
  else if d.cls = .tyre ∧ s.tgu.mode = .loading then some .mode
  else if (d.nodes.any fun m => s.faulted m.node) = true then some .fault
  else if d.kind.isFill = true ∧ s.aac.priority = true then some .brake
  else none

/-- The seven conditions of R79: a FILL that no other condition bars waits with AIR on an AIR answer. -/
def State.scanWait (s : State) (d : Desc) : Option Wait :=
  match s.barred d with
  | some w => some w
  | none => if d.kind.isFill = true ∧ s.fillAnswer d = .air then some .air else none

/-- The descriptors that a scan of a gallery finds eligible, oldest first. -/
def State.eligible (s : State) (g : Gallery) : List Desc := (s.scanned g).filter fun d => (s.scanWait d).isNone

/-- The step goal of a grant (R82): of the STEP answer for a fill, none for CROSS, else the descriptor's goal. -/
def State.grantGoal (s : State) (d : Desc) : Option Nat :=
  match d.kind with
  | .cross => none
  | .vent => some d.goal
  | .pairVent => some d.goal
  | .sideVent _ => some d.goal
  | _ =>
    match s.fillAnswer d with
    | .step goal _ => some goal
    | _ => none

/-- The step node list and the step start reading of a grant (R75, R82): the side's bellows and height for a SIDE step, both bellows and
heights for a PAIR step, those and both pressures for CROSS, else the node and its pressure. -/
def State.grantStart (s : State) (d : Desc) : List Managed × StartReading :=
  match d.kind with
  | .sideFill .left => ([.bll], .heights (s.height .left) none)
  | .sideVent .left => ([.bll], .heights (s.height .left) none)
  | .sideFill .right => ([.blr], .heights none (s.height .right))
  | .sideVent .right => ([.blr], .heights none (s.height .right))
  | .pairFill => ([.bll, .blr], .heights (s.height .left) (s.height .right))
  | .pairVent => ([.bll, .blr], .heights (s.height .left) (s.height .right))
  | .cross => ([.bll, .blr], .cross (s.height .left) (s.height .right) (s.pressure .bll) (s.pressure .blr))
  | _ => (d.nodes, .pressure (d.nodes.head?.bind fun m => s.pressure m.node))

end Sys2Proof.Machine
end

