-- ==== Sys2Proof/Certificates/Slice0/Obligations.lean ====
section
/-! DEFINITION. The statements for the provers. Each docstring says which rules of the manual a statement rests on. -/

set_option Elab.async false

open Sys2Proof Sys2Proof.Machine

/-! ## The machine -/

/-- A step takes the command at the front of the queue and is that command's effect on the state with the queue's rest. On an empty queue
it is a millisecond of the model's clock and nothing else: the model's choice (notes/assumptions/2.md). -/
def Obligations.StepRunsFront : Prop :=
  (∀ (c : Instr) (rest : List Instr) (s : State), s.pending = c :: rest → step s = exec c { s with pending := rest }) ∧
  (∀ s : State, s.pending = [] → step s = .next { s with now := s.now + 1 })

/-- Every command has a next state in every state; it leaves the queue and the clock alone, and in RESET every command but START and
RESET_ASSERT changes nothing (R170). -/
def Obligations.EveryCommandCompletes : Prop :=
  ∀ (c : Instr) (s : State), ∃ t, exec c s = .next t ∧ t.pending = s.pending ∧ t.now = s.now ∧
    (s.sts.phase = .reset → c ≠ .start → c ≠ .resetAssert → t = s)

/-- RESET_ASSERT (R170): phase RESET, every valve output de-energised, every block at its start values and nothing kept apart from the
stored image; that the working set is then the defaults is the model's choice (notes/assumptions/5.md). START (R169, R170, R39, R118): the
working set comes from a good image, else from the defaults with STORE_LOST latched in all three sets; the image stays as it is, the phase
is STARTING and every block has its start values. -/
def Obligations.ResetAndStartTakeStartValues : Prop :=
  ∀ s : State,
    (∃ t, exec .resetAssert s = .next t ∧
      t.sts = { phase := .reset, ws := Settings.default, image := s.sts.image, writing := none } ∧
      t.glc.valves = Valves.off ∧ t.dqm.live = [] ∧ t.dqm.free = [0, 1, 2, 3, 4, 5, 6, 7] ∧
      t = { State.reset with sts := t.sts, now := s.now, freeCount := s.freeCount, pending := s.pending }) ∧
    (∀ w, s.sts.image = some w → imageGood w = true →
      exec .start s = .next (State.startValues .starting (Settings.ofWords w) (startTargets (Settings.ofWords w)) (some w) s.now
        s.freeCount s.pending)) ∧
    ((∀ w, s.sts.image = some w → imageGood w = false) →
      ∃ t, exec .start s = .next t ∧ LatchedAll t .storeLost [] ∧
        t.sts = { phase := .starting, ws := Settings.default, image := s.sts.image, writing := none } ∧
        t = { State.startValues .starting Settings.default (startTargets Settings.default) s.sts.image s.now s.freeCount
                s.pending with evu.latches := t.evu.latches })

/-- The state after reset is safe, with every reading and every queue in its range (R16, R55, R99, R156); that its settings are legal and its
targets in range is the model's choice, which holds the default working set and the targets of the defaults in RESET
(notes/assumptions/5.md). -/
def Obligations.ResetIsSafe : Prop :=
  Safe State.reset ∧ SettingsLegal State.reset ∧ ReadingsInRange State.reset ∧ TargetsInRange State.reset ∧
    QueuesBounded State.reset

/-- Every step keeps a safe state safe: the pool whole (R55), nodes named once (R59), shapes of class and kind (section 4.2, R57), steps
and descriptors in agreement (R75), restrictions in force (R50, R93, R96), and valves open only in a step (R3, R88). -/
def Obligations.SafeKept : Prop :=
  ∀ s t : State, Safe s → step s = .next t → Safe t

/-- Every step keeps the working set legal (section 11.1, R26, R165, R169). -/
def Obligations.SettingsLegalKept : Prop :=
  ∀ s t : State, SettingsLegal s → step s = .next t → SettingsLegal t

/-- Every step keeps the readings in their ranges (R8, R10, R11). -/
def Obligations.ReadingsInRangeKept : Prop :=
  ∀ s t : State, ReadingsInRange s → step s = .next t → ReadingsInRange t

/-- Every step keeps the link unit's queues within their room (R144, R148). -/
def Obligations.QueuesBoundedKept : Prop :=
  ∀ s t : State, QueuesBounded s → step s = .next t → QueuesBounded t

/-- Every step keeps the overrides, the active targets and the height target in their ranges while the settings are legal (section 2.3,
R29, R100, R105). -/
def Obligations.TargetsInRangeKept : Prop :=
  ∀ s t : State, SettingsLegal s → TargetsInRange s → step s = .next t → TargetsInRange t

/-- Only the commands that the rules name change these fields: the mode (R18, R21), the working set (R26, R165, R169), the stored image
(R168), the overrides (R27, R28), the stop set (R96, R97), the masks (R158), the lift setting (R129), height authority, taken or given
up (R107 to R109), and the readings (R8, R10). -/
def Obligations.WhoChangesWhat : Prop :=
  ∀ (c : Instr) (s t : State), exec c s = .next t →
    let restart := c = .resetAssert ∨ c = .start
    (t.tgu.mode ≠ s.tgu.mode →
      restart ∨ c = .brakeSilenceExpiry ∨ (∃ h m, c = .modeSet h m) ∨ ∃ h v b g, c = .vehicleData h v b g) ∧
    (t.sts.ws ≠ s.sts.ws →
      restart ∨ (∃ h n v, c = .configWrite h n v) ∨ ∃ h n p v, c = .profileWrite h n p v) ∧
    (t.sts.image ≠ s.sts.image → c = .storeWriteEnd ∨ ∃ h, c = .store h) ∧
    (t.tgu.overrides ≠ s.tgu.overrides →
      restart ∨ (∃ h n f v, c = .tyreSet h n f v) ∨ ∃ h n v, c = .tyreSetClear h n v) ∧
    (t.glc.stop ≠ s.glc.stop →
      restart ∨ c = .panelSilenceExpiry ∨ (∃ h, c = .stop h) ∨ ∃ h, c = .resume h) ∧
    (t.evu.masks ≠ s.evu.masks → restart ∨ ∃ h m, c = .maskSet h m) ∧
    (t.llu.setting ≠ s.llu.setting → restart ∨ ∃ h x, c = .liftSet h x) ∧
    (t.hlc.holder = true → s.hlc.holder = false → ∃ h x, c = .heightAuthorityTake h x) ∧
    (t.hlc.holder = false → s.hlc.holder = true →
      restart ∨ (∃ h, c = .heightAuthorityRelease h) ∨ c = .panelAuthorityExpiry ∨ c = .panelSilenceExpiry ∨
        c = .brakeSilenceExpiry ∨ ∃ h v b g, c = .vehicleData h v b g) ∧
    (t.msu ≠ s.msu → restart ∨ (∃ n x, c = .pressureArrival n x) ∨ ∃ sd x, c = .heightArrival sd x)

/-- What is latched stays until that master's STATUS_READ or a start (R157, R161); a fault flag stays until FAULT_CLEAR or a start
(R136, R139); a starvation counter never falls but at a start (R60). -/
def Obligations.LatchesAndFaultsStay : Prop :=
  ∀ (c : Instr) (s t : State), exec c s = .next t → c ≠ .resetAssert → c ≠ .start →
    (∀ m, (∀ h, c = .statusRead h → h.sender ≠ m) → LatchesLe (s.evu.latches.get m) (t.evu.latches.get m)) ∧
    ((∀ h n, c ≠ .faultClear h n) → ∀ n, s.faulted n = true → t.faulted n = true) ∧
    s.dqm.starve.height ≤ t.dqm.starve.height ∧ s.dqm.starve.lift ≤ t.dqm.starve.lift ∧
    s.dqm.starve.tyre ≤ t.dqm.starve.tyre ∧ s.dqm.starve.point ≤ t.dqm.starve.point

/-! ## Encodings -/

/-- The image of a legal working set is good and spells that working set (R167, R169). -/
def Obligations.ImageRoundTrip : Prop :=
  ∀ w : Settings, w.legal = true → imageGood w.image = true ∧ Settings.ofWords w.image = w

/-- Frames are read as they were laid. A frame that the part builds for the panel line is taken by the receiver as one good frame with its
kind and payload (R146). The fields of a CAN identifier are read back at their bits (R172): priority in 27 and 28, kind in 22 to 26, group
index in 19 to 21, count less one in 16 to 18, source in 8 to 15 and destination in 0 to 7. -/
def Obligations.FramesRoundTrip : Prop :=
  (∀ (code : Nat) (payload : List Byte), payload.length ≤ 40 →
    PanelRx.takeAll .hunt (panelFrame code payload) = (.hunt, [{ kind := byteOf code, payload := payload }])) ∧
  (∀ priority kind index count source dest : Nat,
    priority < 4 → kind < 32 → index < 8 → 1 ≤ count → count ≤ 8 → source < 256 → dest < 256 →
      identField (canIdent priority kind index count source dest) 27 2 = priority ∧
      identField (canIdent priority kind index count source dest) 22 5 = kind ∧
      identField (canIdent priority kind index count source dest) 19 3 = index ∧
      identField (canIdent priority kind index count source dest) 16 3 = count - 1 ∧
      identField (canIdent priority kind index count source dest) 8 8 = source ∧
      identField (canIdent priority kind index count source dest) 0 8 = dest)

/-! ## Readings -/

/-- PRESSURE_ARRIVAL (R8): a valid sample becomes the node's value with run 0; an invalid one keeps the value, marks the entry UNORDERED
and adds 1 to the run, held at 10. The other entries and the heights stay. Beside the readings only the end of the sample round and the
receivers' own fields change (R7, R9): the account's for RSV, the side loads for a bellows. -/
def Obligations.PressureArrivalUpdatesEntry : Prop :=
  ∀ (s : State) (n : Node) (x : Sample), s.sts.phase ≠ .reset →
    ∃ t, exec (.pressureArrival n x) s = .next t ∧
      t.msu.nodes = s.msu.nodes.set n
        (if x.inBand = true ∧ 0 ≤ x.value ∧ x.value ≤ 1200 then { value := x.value.toNat, valid := true, run := 0 }
         else { value := (s.msu.nodes.get n).value, valid := false, run := min 10 ((s.msu.nodes.get n).run + 1) }) ∧
      t.msu.heights = s.msu.heights ∧
      t.fixed = { s.fixed with
        msu := t.msu, sts.phase := t.sts.phase, lku := t.lku, freeCount := t.freeCount
        reported := if n = .rsv then t.aac.reported else s.aac.reported
        supply := if n = .rsv then t.aac.supply else s.aac.supply
        recovery := if n = .rsv then t.aac.recovery else s.aac.recovery
        load := if n = .bll ∨ n = .blr then t.llu.load else s.llu.load
        fresh := if n = .bll ∨ n = .blr then t.llu.fresh else s.llu.fresh
        lftSeen := s.llu.lftSeen || n == .lft
        stateT := t.evu.stateT, nodesT := t.evu.nodesT, loadT := t.evu.loadT } ∧
      SameLink s t

/-- HEIGHT_ARRIVAL (R10, R11): a valid sample joins the ring, which keeps its newest eight, with run 0; an invalid one leaves the ring,
marks the side UNORDERED and adds 1 to the run, held at 10. The other side and the pressures stay. The filtered height that the arrival
leaves is floor((S + 4) / 8) of the eight samples of a full ring while the run is below 10, and UNORDERED otherwise (R12). -/
def Obligations.HeightArrivalUpdatesRing : Prop :=
  ∀ (s : State) (sd : Side) (x : Sample), s.sts.phase ≠ .reset → (s.msu.heights.get sd).ring.length ≤ 8 →
    ∃ t, exec (.heightArrival sd x) s = .next t ∧
      t.msu.heights = s.msu.heights.set sd
        (if x.inBand = true ∧ 0 ≤ x.value ∧ x.value ≤ 400 then
          { valid := true, run := 0
            ring := if (s.msu.heights.get sd).ring.length = 8 then (s.msu.heights.get sd).ring.tail ++ [x.value.toNat]
                    else (s.msu.heights.get sd).ring ++ [x.value.toNat] }
         else { valid := false, run := min 10 ((s.msu.heights.get sd).run + 1), ring := (s.msu.heights.get sd).ring }) ∧
      t.msu.nodes = s.msu.nodes ∧
      t.fixed = { s.fixed with
        msu := t.msu, sts.phase := t.sts.phase, lku := t.lku, freeCount := t.freeCount, recounts := t.hlc.recovery
        stateT := t.evu.stateT, nodesT := t.evu.nodesT, loadT := t.evu.loadT } ∧
      SameLink s t ∧
      (∀ a b c d e f g h : Nat, (t.msu.heights.get sd).ring = [a, b, c, d, e, f, g, h] → (t.msu.heights.get sd).run < 10 →
        t.height sd = some ((a + b + c + d + e + f + g + h + 4) / 8)) ∧
      ((t.msu.heights.get sd).ring.length ≠ 8 ∨ 10 ≤ (t.msu.heights.get sd).run → t.height sd = none)

/-- The last arrival of a sample round, of a node or of a side, begins the next round (R7); the first complete round moves the phase from
STARTING to RUN and starts the three period timers (R163, R170, R171). Any other arrival is marked as taken and leaves phase and timers. -/
def Obligations.RoundEntersRun : Prop :=
  (∀ (s : State) (n : Node) (x : Sample), s.sts.phase ≠ .reset →
    ∃ t, exec (.pressureArrival n x) s = .next t ∧
      (((∀ n', n' ≠ n → s.msu.nodeSeen.get n' = true) ∧ s.msu.sideSeen.left = true ∧ s.msu.sideSeen.right = true) →
        t.sts.phase = .run ∧ t.msu.nodeSeen = PerNode.fill false ∧ t.msu.sideSeen = PerSide.fill false ∧
        (s.sts.phase = .starting →
          t.evu.stateT = some ⟨s.now, 500⟩ ∧ t.evu.nodesT = some ⟨s.now, 1000⟩ ∧ t.evu.loadT = some ⟨s.now, 100⟩) ∧
        (s.sts.phase = .run →
          t.evu.stateT = s.evu.stateT ∧ t.evu.nodesT = s.evu.nodesT ∧ t.evu.loadT = s.evu.loadT)) ∧
      (¬ ((∀ n', n' ≠ n → s.msu.nodeSeen.get n' = true) ∧ s.msu.sideSeen.left = true ∧ s.msu.sideSeen.right = true) →
        t.sts.phase = s.sts.phase ∧ t.msu.nodeSeen = s.msu.nodeSeen.set n true ∧ t.msu.sideSeen = s.msu.sideSeen ∧
        t.evu.stateT = s.evu.stateT ∧ t.evu.nodesT = s.evu.nodesT ∧ t.evu.loadT = s.evu.loadT)) ∧
  (∀ (s : State) (sd : Side) (x : Sample), s.sts.phase ≠ .reset →
    ∃ t, exec (.heightArrival sd x) s = .next t ∧
      (((∀ n, s.msu.nodeSeen.get n = true) ∧ ∀ sd', sd' ≠ sd → s.msu.sideSeen.get sd' = true) →
        t.sts.phase = .run ∧ t.msu.nodeSeen = PerNode.fill false ∧ t.msu.sideSeen = PerSide.fill false ∧
        (s.sts.phase = .starting →
          t.evu.stateT = some ⟨s.now, 500⟩ ∧ t.evu.nodesT = some ⟨s.now, 1000⟩ ∧ t.evu.loadT = some ⟨s.now, 100⟩) ∧
        (s.sts.phase = .run →
          t.evu.stateT = s.evu.stateT ∧ t.evu.nodesT = s.evu.nodesT ∧ t.evu.loadT = s.evu.loadT)) ∧
      (¬ ((∀ n, s.msu.nodeSeen.get n = true) ∧ ∀ sd', sd' ≠ sd → s.msu.sideSeen.get sd' = true) →
        t.sts.phase = s.sts.phase ∧ t.msu.nodeSeen = s.msu.nodeSeen ∧ t.msu.sideSeen = s.msu.sideSeen.set sd true ∧
        t.evu.stateT = s.evu.stateT ∧ t.evu.nodesT = s.evu.nodesT ∧ t.evu.loadT = s.evu.loadT))

/-- A pressure arrival that brings a node's invalid run to 10, or finds it there, faults a node that is not faulted (R136, R137): its
fault flag is set and NODE_FAULT is latched naming it in all three sets. -/
def Obligations.SensorFaultFlagsNode : Prop :=
  ∀ (s : State) (n : Node) (x : Sample), s.sts.phase ≠ .reset → s.faulted n = false →
    (x.inBand = false ∨ x.value < 0 ∨ 1200 < x.value) → 9 ≤ (s.msu.nodes.get n).run →
    ∃ t, exec (.pressureArrival n x) s = .next t ∧ t.faulted n = true ∧ LatchedAll t .nodeFault [n]

/-! ## The air account -/

/-- An RSV arrival at the air account: the reported headroom is floor(V_R × (g − FLOOR) / 100), or 0 at or below FLOOR or UNORDERED (R40,
R41); the supply condition and its recovery reference follow R53, and an UNORDERED arrival leaves them. -/
def Obligations.RsvArrivalAccounts : Prop :=
  ∀ (s : State) (x : Sample), s.sts.phase ≠ .reset →
    ∃ t, exec (.pressureArrival .rsv x) s = .next t ∧
      ((x.inBand = true ∧ 0 ≤ x.value ∧ x.value ≤ 1200) →
        t.aac.reported =
          (if s.ws.floor < x.value.toNat then s.ws.volume.rsv * (x.value.toNat - s.ws.floor) / 100 else 0) ∧
        (s.aac.supply = true → t.aac.supply = true ∧ t.aac.recovery = s.aac.recovery) ∧
        (∀ r, s.aac.supply = false → s.aac.recovery = some r →
          (x.value.toNat < r → t.aac.supply = false ∧ t.aac.recovery = some x.value.toNat) ∧
          (r ≤ x.value.toNat → x.value.toNat < r + 10 → t.aac.supply = false ∧ t.aac.recovery = some r) ∧
          (r + 10 ≤ x.value.toNat → t.aac.supply = true ∧ t.aac.recovery = none))) ∧
      (¬ (x.inBand = true ∧ 0 ≤ x.value ∧ x.value ≤ 1200) →
        t.aac.reported = 0 ∧ t.aac.supply = s.aac.supply ∧ t.aac.recovery = s.aac.recovery)

/-- A usable fill step (R43, R44): a step goal of a pressure fill gains at least 10 kPa and is the least of the goal, the gain ceiling and
the equalisation ceiling; one of a height fill gains at least 3 mm; its cost is as the rule gives it and never more than the headroom. -/
def Obligations.FillGoalsBounded : Prop :=
  (∀ h vR vN gR gN goal stepGoal cost : Nat, 0 < vN → 30 ≤ gR → pressureFill h vR vN gR gN goal = .step stepGoal cost →
    gN + 10 ≤ stepGoal ∧ stepGoal ≤ goal ∧ (stepGoal - gN) * vN ≤ h * 100 ∧
    stepGoal * (vR + vN) ≤ vR * (gR - 30) + vN * gN ∧
    (stepGoal = goal ∨ h * 100 < (stepGoal + 1 - gN) * vN ∨ vR * (gR - 30) + vN * gN < (stepGoal + 1) * (vR + vN)) ∧
    vN * (stepGoal - gN) ≤ 100 * cost ∧ 100 * cost < vN * (stepGoal - gN) + 100 ∧ cost ≤ h) ∧
  (∀ (h hc sides low target stepGoal cost : Nat) (drive : Bool), 0 < hc → 0 < sides →
    heightFill h hc sides low target drive = .step stepGoal cost →
    drive = true ∧ low + 3 ≤ stepGoal ∧ stepGoal ≤ target ∧ cost = hc * sides * (stepGoal - low) ∧ cost ≤ h ∧
    (stepGoal = target ∨ h < hc * sides * (stepGoal + 1 - low)))

/-- SUPPLY_WINDOW_EXPIRY (R52): with the window running, a valid RSV entry makes the condition LOST, latches SUPPLY_LOST, lowers SUPPLY_OK
for every master and becomes the recovery reference; an UNORDERED one decides nothing; either way the window stops. A stopped window does
not expire. -/
def Obligations.SupplyWindowDecides : Prop :=
  ∀ s : State, s.sts.phase ≠ .reset → ∃ t, exec .supplyWindowExpiry s = .next t ∧
    (s.aac.window = none → t = s) ∧
    (∀ w, s.aac.window = some w →
      (∀ g, s.pressure .rsv = some g →
        LatchedAll t .supplyLost [] ∧
        t = { s with
          aac := { s.aac with supply := false, window := none, recovery := some g }
          evu := { s.evu with supplyOk := ⟨false, false, false⟩, latches := t.evu.latches }
          lku := { s.lku with canTx := t.lku.canTx, panelTx := t.lku.panelTx }
          freeCount := t.freeCount }) ∧
      (s.pressure .rsv = none → t = { s with aac.window := none }))

/-! ## Tyre targets -/

/-- The active target of a tyre (R29, R30): an override first, then the FIELD holding value, then in ROAD with LOAD_FOLLOW off or on a
lifted axle the ROAD holding value, else the load-follow result, which while the side's load L is unset or P is below GUARD_FLOOR is P,
and otherwise ceil(P × floor(L / A) / RATED) held between GUARD_FLOOR and P; and while the guard is on at least GUARD_FLOOR. -/
def Obligations.ActiveTargetFormed : Prop :=
  ∀ (s : State) (t : Tyre) (o : Option Nat),
    let p := s.ws.road.get t
    let lifted := (t = .t1l ∨ t = .t1r) ∧ s.llu.lift = .lifted
    let base := s.baseTarget t o
    s.formTarget t o = (if s.tgu.guard.on = true then max base s.ws.guardFloor else base) ∧
    (∀ v, o = some v → base = v) ∧
    (o = none → s.tgu.basis = .field → base = s.ws.field.get t) ∧
    (o = none → s.tgu.basis = .road → (s.ws.loadFollow = false ∨ lifted) → base = p) ∧
    (o = none → s.tgu.basis = .road → s.ws.loadFollow = true → ¬ lifted →
      (s.llu.load.get t.side = none → base = p) ∧
      (p < s.ws.guardFloor → base = p) ∧
      (∀ l, s.llu.load.get t.side = some l → s.ws.guardFloor ≤ p → 0 < s.ws.rated →
        let w := l / (if s.llu.lift = .lifted then 2 else 3)
        s.ws.guardFloor ≤ base ∧ base ≤ p ∧
        (base < p → p * w ≤ base * s.ws.rated) ∧
        (s.ws.guardFloor < base → (base - 1) * s.ws.rated < p * w)))

/-- TYRE_SET with a value and with clear (R27, R28), accepted: with the tyre not faulted, the mode not LOADING, the stop set empty, and a
record to be had (a live descriptor that is not torn, a reading within tolerance, or two free records), the override is the value clamped
to 300 to 820, or none, and every other setting stays. While no grant scan can start, because both galleries are busy, the active target
is the one R29 forms and a descriptor with that goal and origin CAB is allocated, merged or given the goal as its pending goal; a reading
within tolerance asks for none. The reply is ACCEPTED, with CLAMPED where the value was clamped, and with the new id, with MERGED and the
existing id, or without an id. A clear without an override changes nothing. A pending goal carries the class maximum of steps in force
(R74, notes/assumptions/26.md). -/
def Obligations.TyreSetWritesOverride : Prop :=
  ∀ (s : State) (h : Hdr) (node : Byte) (u : Tyre), Passes s h codeTyreSet → Tyre.ofNumber node.toNat = some u →
    s.tgu.mode ≠ .loading → s.faulted u.node = false → s.glc.stop.occupied = false →
    (∀ (c : Instr) (o : Option Nat) (k : Bool),
      ((∃ value : Half, c = .tyreSet h node 0 value ∧ k = decide (value.toNat < 300 ∨ 820 < value.toNat) ∧
          o = some (if value.toNat < 300 then 300 else if 820 < value.toNat then 820 else value.toNat)) ∨
        (c = .tyreSetClear h node 0 ∧ k = false ∧ o = none ∧ (s.tgu.tyres.get u).override ≠ none)) →
      (∀ d, s.descOf u.managed = some d → d.torn = none) →
      (s.descOf u.managed = none → s.offTolerance u (s.formTarget u o) = false ∨ 2 ≤ s.dqm.free.length) →
      let goal := s.formTarget u o
      ∃ t, exec c s = .next t ∧
        (t.tgu.tyres.get u).override = o ∧
        t.fixed = { (s.heard h c).fixed with
          overrides := s.tgu.overrides.set u o, lku := t.lku, freeCount := t.freeCount } ∧
        SameLink (s.heard h c) t ∧
        (∀ d, s.descOf u.managed = some d → Answers (s.heard h c) t h codeTyreSet (.accepted k true (some d.id) [])) ∧
        (s.descOf u.managed = none → s.offTolerance u goal = false →
          Answers (s.heard h c) t h codeTyreSet (.accepted k false none [])) ∧
        (s.descOf u.managed = none → s.offTolerance u goal = true → ∀ id rest, s.dqm.free = id :: rest →
          Answers (s.heard h c) t h codeTyreSet (.accepted k false (some id) [])) ∧
        (Busy s →
          (t.tgu.tyres.get u).target = goal ∧ (∀ v, v ≠ u → t.tgu.tyres.get v = s.tgu.tyres.get v) ∧
          (s.descOf u.managed = none → s.offTolerance u goal = false → t.dqm = s.dqm) ∧
          (s.descOf u.managed = none → s.offTolerance u goal = true → ∀ id rest, s.dqm.free = id :: rest →
            t.dqm.free = rest ∧ (t.tgu.tyres.get u).timer = none ∧ (t.tgu.tyres.get u).pending = false ∧
            t.dqm.live = s.dqm.live ++ [.transfer {
              id := id, cls := .tyre, nodes := [u.managed], goal := goal, pending := none, origin := .master .cab
              state := .queued, kind := tyreKind (s.pressure u.node) goal, stepGoal := none, start := none
              stepsLeft := s.ws.maxSteps.tyre, noProgress := 0, wait := .clear, torn := none }]) ∧
          (∀ d, s.descOf u.managed = some d → d.state ≠ .queued →
            t.dqm = (s.putDesc { d with pending := some { goal := goal, origin := .master .cab, steps := s.ws.maxSteps.get d.cls } }).dqm) ∧
          (∀ d, s.descOf u.managed = some d → d.state = .queued →
            { d with goal := goal, origin := .master .cab, kind := tyreKind (s.pressure u.node) goal
                     stepsLeft := s.ws.maxSteps.get d.cls, noProgress := 0, wait := .clear } ∈ t.transfers))) ∧
    ((s.tgu.tyres.get u).override = none →
      let c := Instr.tyreSetClear h node 0
      exec c s = .next ((s.heard h c).answered (s.heard h c) h codeTyreSet .plain))

/-- TYRE_SET with a value and with clear, refused (R27, R28, R60, R153): an unknown node or form, LOADING, a faulted node and a stop set that
is not empty are answered in that order with nothing changed; an ask that meets a torn descriptor, or finds no record, is answered
NO_DESCRIPTOR with the target unit as it was, the TYRE counter moved and STARVED latched naming the tyre. That a clear whose value is not 0 is
BAD_FORMAT is the model's reading (notes/assumptions/21.md). -/
def Obligations.TyreSetRefusedUnchanged : Prop :=
  ∀ (s : State) (h : Hdr) (node form : Byte) (value : Half), Passes s h codeTyreSet →
    (let c := Instr.tyreSet h node form value
     let r := s.heard h c
     (Tyre.ofNumber node.toNat = none ∨ (form ≠ 0 ∧ form ≠ 1)) →
      exec c s = .next (r.answered r h codeTyreSet (.refused .badFormat))) ∧
    (let c := Instr.tyreSetClear h node value
     let r := s.heard h c
     (Tyre.ofNumber node.toNat = none ∨ value ≠ 0) →
      exec c s = .next (r.answered r h codeTyreSet (.refused .badFormat))) ∧
    (∀ (u : Tyre) (c : Instr) (o : Option Nat), Tyre.ofNumber node.toNat = some u →
      ((c = .tyreSet h node 0 value ∧
          o = some (if value.toNat < 300 then 300 else if 820 < value.toNat then 820 else value.toNat)) ∨
        (c = .tyreSetClear h node 0 ∧ o = none)) →
      let r := s.heard h c
      (s.tgu.mode = .loading → exec c s = .next (r.answered r h codeTyreSet (.refused .mode))) ∧
      (s.tgu.mode ≠ .loading → s.faulted u.node = true →
        exec c s = .next (r.answered r h codeTyreSet (.refused .nodeFault))) ∧
      (s.tgu.mode ≠ .loading → s.faulted u.node = false → s.glc.stop.occupied = true →
        exec c s = .next (r.answered r h codeTyreSet (.refused .stopped))) ∧
      (s.tgu.mode ≠ .loading → s.faulted u.node = false → s.glc.stop.occupied = false →
        (o = none → (s.tgu.tyres.get u).override ≠ none) →
        ((∃ d, s.descOf u.managed = some d ∧ d.torn ≠ none) ∨
          (s.descOf u.managed = none ∧ s.offTolerance u (s.formTarget u o) = true ∧ s.dqm.free.length ≤ 1)) →
        ∃ t, exec c s = .next t ∧
          AnswersStarved
            { r with dqm.starve.tyre := if s.dqm.starve.tyre < 255 then s.dqm.starve.tyre + 1 else s.dqm.starve.tyre }
            t h codeTyreSet [u.node]))

/-- PROFILE_WRITE (R26): with no store write in progress the holding value becomes the value clamped to 300 to 820 and nothing else of the
settings, modes and overrides changes; where the profile is not the basis, the mode is LOADING or the tyre has an override, the rest of
the state stays too. An unknown node or profile and a store write are answered BAD_FORMAT and STORE_BUSY with nothing changed. -/
def Obligations.ProfileWriteWritesHolding : Prop :=
  ∀ (s : State) (h : Hdr) (node profile : Byte) (value : Half), Passes s h codeProfileWrite →
    let c := Instr.profileWrite h node profile value
    let r := s.heard h c
    let v := if value.toNat < 300 then 300 else if 820 < value.toNat then 820 else value.toNat
    ((Tyre.ofNumber node.toNat = none ∨ 2 ≤ profile.toNat) →
      exec c s = .next (r.answered r h codeProfileWrite (.refused .badFormat))) ∧
    (∀ u, Tyre.ofNumber node.toNat = some u → profile.toNat < 2 → s.sts.writing ≠ none →
      exec c s = .next (r.answered r h codeProfileWrite (.refused .storeBusy))) ∧
    (∀ u, Tyre.ofNumber node.toNat = some u → profile.toNat < 2 → s.sts.writing = none →
      let w := if profile = 0 then { s.ws with road := s.ws.road.set u v } else { s.ws with field := s.ws.field.set u v }
      let r' := { r with sts.ws := w }
      ∃ t, exec c s = .next t ∧
        t.fixed = { r'.fixed with lku := t.lku, freeCount := t.freeCount } ∧ SameLink r t ∧
        ((profile.toNat = 0 ↔ s.tgu.basis = .field) ∨ s.tgu.mode = .loading ∨ (s.tgu.tyres.get u).override ≠ none →
          t = r'.answered r h codeProfileWrite (.accepted (decide (v ≠ value.toNat)) false none [])))

/-- PROFILE_READ (R166) and CONFIG_READ (R165): the reply carries the two holding values of the tyre, or the number and the working value
of the parameter; nothing else changes, whatever the speed, the mode and a store write. A node or number out of the table is answered
BAD_FORMAT. -/
def Obligations.ReadsReplyValues : Prop :=
  (∀ (s : State) (h : Hdr) (node : Byte), Passes s h codeProfileRead →
    let c := Instr.profileRead h node
    let r := s.heard h c
    ((node.toNat < 5 ∨ 10 < node.toNat) → exec c s = .next (r.answered r h codeProfileRead (.refused .badFormat))) ∧
    (∀ u : Tyre, u.node.number = node.toNat →
      exec c s = .next (r.answered r h codeProfileRead (.accepted false false none
        (bytesOf 2 (s.ws.road.get u) ++ bytesOf 2 (s.ws.field.get u)))))) ∧
  (∀ (s : State) (h : Hdr) (number : Byte), Passes s h codeConfigRead →
    let c := Instr.configRead h number
    let r := s.heard h c
    (s.ws.param number.toNat = none → exec c s = .next (r.answered r h codeConfigRead (.refused .badFormat))) ∧
    (∀ v, s.ws.param number.toNat = some v →
      exec c s = .next (r.answered r h codeConfigRead (.accepted false false none (number :: bytesOf 2 v)))))

/-- CONFIG_WRITE (R165): the checks in order; a refused write changes nothing; an accepted one replaces the parameter's working value,
read back by its number, and no other parameter, and only BRAKE_MIN may also move the brake-priority flag (R49). -/
def Obligations.ConfigWriteWritesParameter : Prop :=
  ∀ (s : State) (h : Hdr) (number : Byte) (value : Half), Passes s h codeConfigWrite →
    let c := Instr.configWrite h number value
    let r := s.heard h c
    let n := number.toNat
    let v := value.toNat
    (paramEncodes n v = false → exec c s = .next (r.answered r h codeConfigWrite (.refused .badFormat))) ∧
    (paramEncodes n v = true → s.sts.writing ≠ none →
      exec c s = .next (r.answered r h codeConfigWrite (.refused .storeBusy))) ∧
    (paramEncodes n v = true → s.sts.writing = none → s.speedState ≠ .standstill →
      exec c s = .next (r.answered r h codeConfigWrite (.refused .speed))) ∧
    (paramEncodes n v = true → s.sts.writing = none → s.speedState = .standstill → s.ws.accepts n v = false →
      exec c s = .next (r.answered r h codeConfigWrite (.refused .badValue))) ∧
    (paramEncodes n v = true → s.sts.writing = none → s.speedState = .standstill → s.ws.accepts n v = true →
      s.ws.slots.length = 16 →
      ∃ t, exec c s = .next t ∧
        t.ws.param n = some v ∧ (∀ k, k ≠ n → t.ws.param k = s.ws.param k) ∧
        t.ws.road = s.ws.road ∧ t.ws.field = s.ws.field ∧
        t.fixed = { r.fixed with
          sts.ws := t.ws, lku := t.lku, freeCount := t.freeCount
          priority := if n = 15 then t.aac.priority else s.aac.priority } ∧
        SameLink r t)

/-- STORE, the end of its write and a start (R168, R169): the image is the working set of the moment of the STORE, a second STORE is
answered STORE_BUSY, the end of the write completes the image, a start loads it, and a RESET_ASSERT before the end leaves no image, so
that the start after it loads the defaults and latches STORE_LOST. -/
def Obligations.StoreAndReload : Prop :=
  ∀ (s : State) (h : Hdr), Passes s h codeStore →
    let c := Instr.store h
    let r := s.heard h c
    (s.sts.writing ≠ none → exec c s = .next (r.answered r h codeStore (.refused .storeBusy))) ∧
    (s.sts.writing = none →
      ∃ t u, exec c s = .next t ∧ exec .storeWriteEnd t = .next u ∧
        t = ({ r with sts := { r.sts with image := none, writing := some { image := s.ws.image, timer := ⟨s.now, 60⟩ } } }).answered
              r h codeStore .plain ∧
        u = { t with sts := { t.sts with image := some s.ws.image, writing := none } } ∧
        (s.ws.legal = true → ∃ v, exec .start u = .next v ∧ v.ws = s.ws ∧ (v.evu.latches.get .cab).get .storeLost = none) ∧
        ∃ v w, exec .resetAssert t = .next v ∧ exec .start v = .next w ∧ w.ws = Settings.default ∧ LatchedAll w .storeLost [])

/-! ## Travel mode and vehicle state -/

/-- MODE_SET (R18, R17, R100): an unknown mode, authority held by PANEL, and LOADING asked for off STANDSTILL are answered in that order
with nothing changed; the current mode is accepted with nothing changed; any other mode is taken with its basis, ROAD and FIELD with their
nominal height target, and LOADING with the tyre targets held and their timers and marks cleared (R19, R32). -/
def Obligations.ModeSetTakesMode : Prop :=
  ∀ (s : State) (h : Hdr) (mode : Byte), Passes s h codeModeSet →
    let c := Instr.modeSet h mode
    let r := s.heard h c
    (3 ≤ mode.toNat → exec c s = .next (r.answered r h codeModeSet (.refused .badFormat))) ∧
    (mode.toNat < 3 → s.hlc.holder = true → exec c s = .next (r.answered r h codeModeSet (.refused .noAuthority))) ∧
    (mode = 2 → s.hlc.holder = false → s.tgu.mode ≠ .loading → s.speedState ≠ .standstill →
      exec c s = .next (r.answered r h codeModeSet (.refused .speed))) ∧
    (mode.toNat = s.tgu.mode.code → s.hlc.holder = false →
      exec c s = .next (r.answered r h codeModeSet .plain)) ∧
    (∀ m : Mode, m.code = mode.toNat → m ≠ s.tgu.mode → s.hlc.holder = false → (m = .loading → s.speedState = .standstill) →
      let basis := match m with
        | .road => Basis.road
        | .field => Basis.field
        | .loading => s.tgu.basis
      let target := match m with
        | .road => s.ws.ride
        | .field => s.ws.ride + s.ws.fieldOffset
        | .loading => s.hlc.target
      ∃ t, exec c s = .next t ∧
        t.fixed = { r.fixed with mode := m, basis := basis, target := target, lku := t.lku, freeCount := t.freeCount } ∧
        SameLink r t ∧
        (m = .loading → ∀ u, t.tgu.tyres.get u = { s.tgu.tyres.get u with timer := none, pending := false }))

/-- VEHICLE_DATA (R22, R23, R34, R49, R154): decodable fields make the record, braking not available counting as SET and a pressure above
1200 as UNORDERED, its figure kept (the model's reading, notes/assumptions/35.md), and restart the silence timer; the guard and its timers follow the table of R34 and brake priority that of R49 on the
new record; the mode changes only where LOADING is left on a change away from STANDSTILL (R21). A frame whose fields cannot be decoded is discarded:
it changes no more than its receipt does, and is sent no reply. -/
def Obligations.VehicleDataWritesRecord : Prop :=
  ∀ (s : State) (h : Hdr) (speed braking : Byte) (gB : Half), Passes s h codeVehicleData →
    let c := Instr.vehicleData h speed braking gB
    let r := s.heard h c
    ((250 < speed.toNat ∧ speed.toNat < 255 ∨ 1 < braking.toNat ∧ braking.toNat < 255) → exec c s = .next r) ∧
    ((speed.toNat ≤ 250 ∨ speed = 255) → (braking.toNat ≤ 1 ∨ braking = 255) →
      let v : Vehicle := {
        speed := if speed = 255 then none else some speed.toNat
        braking := braking != 0
        gB := if gB.toNat ≤ 1200 then gB.toNat else s.tgu.vehicle.gB
        gBValid := decide (gB.toNat ≤ 1200)
        link := true }
      let fast := s.ws.guardSpeed < speed.toNat
      let forced := s.tgu.mode = .loading ∧ v.speedState ≠ s.speedState ∧ v.speedState ≠ .standstill
      ∃ t, exec c s = .next t ∧
        t.fixed = { r.fixed with
          vehicle := v
          guard :=
            if s.tgu.guard.on = true then
              { s.tgu.guard with underT := if speed = 255 ∨ fast then none else s.timerKeep s.tgu.guard.underT 60000 }
            else if speed = 255 then ⟨true, none, none⟩
            else { s.tgu.guard with overT := if fast then s.timerKeep s.tgu.guard.overT 10000 else none }
          mode := if forced then .road else s.tgu.mode
          basis := if forced then .road else s.tgu.basis
          priority :=
            if s.aac.priority = true then !(decide (s.ws.brakeMin + 30 ≤ gB.toNat ∧ gB.toNat ≤ 1200) && speed != 255)
            else !decide (s.ws.brakeMin ≤ gB.toNat ∧ gB.toNat ≤ 1200) || speed == 255
          target := t.hlc.target, holder := t.hlc.holder, authT := t.hlc.authT
          lku := t.lku, freeCount := t.freeCount } ∧
        SameLink { r with lku.brakeSilence := some ⟨s.now, 500⟩ } t ∧
        (v.speedState = .moving → s.speedState ≠ .moving →
          t.hlc.target = if t.tgu.mode = .field then s.ws.ride + s.ws.fieldOffset else s.ws.ride) ∧
        (v.speedState ≠ s.speedState → v.speedState ≠ .standstill → t.hlc.holder = false ∧ (s.hlc.holder = true → t.hlc.authT = none)))

/-- OVER_SPEED_EXPIRY and UNDER_SPEED_EXPIRY (R34, R35): the guard turns ON, latching SPEED_FORCED, or OFF, and both timers are stopped;
beside it the shared operations alone act. A stopped timer does not expire. -/
def Obligations.SpeedGuardExpires : Prop :=
  ∀ s : State, s.sts.phase ≠ .reset →
    (∃ t, exec .overSpeedExpiry s = .next t ∧
      ((s.tgu.guard.overT = none ∨ s.tgu.guard.on = true) → t = s) ∧
      (s.tgu.guard.overT ≠ none → s.tgu.guard.on = false →
        LatchedAll t .speedForced [] ∧ SameLink s t ∧
        t.fixed = { s.fixed with guard := ⟨true, none, none⟩, lku := t.lku, freeCount := t.freeCount })) ∧
    (∃ t, exec .underSpeedExpiry s = .next t ∧
      ((s.tgu.guard.underT = none ∨ s.tgu.guard.on = false) → t = s) ∧
      (s.tgu.guard.underT ≠ none → s.tgu.guard.on = true →
        SameLink s t ∧
        t.fixed = { s.fixed with guard := ⟨false, none, none⟩, lku := t.lku, freeCount := t.freeCount }))

/-- BRAKE_SILENCE_EXPIRY (R154, R25, R49, R160): the timer stops; a link that is PRESENT becomes LOST with the speed not available, braking
SET and g_B UNORDERED (its figure kept: notes/assumptions/35.md), the guard ON, brake priority ON, every BRAKE_LINK_OK at 0 and BRAKE_LINK_LOST latched; a link that is LOST stays so
with nothing else changed. A stopped timer does not expire. -/
def Obligations.BrakeSilenceLosesLink : Prop :=
  ∀ s : State, s.sts.phase ≠ .reset → ∃ t, exec .brakeSilenceExpiry s = .next t ∧
    (s.lku.brakeSilence = none → t = s) ∧
    (s.lku.brakeSilence ≠ none → s.tgu.vehicle.link = false → t = { s with lku.brakeSilence := none }) ∧
    (s.lku.brakeSilence ≠ none → s.tgu.vehicle.link = true →
      LatchedAll t .brakeLinkLost [] ∧ t.tgu.guard.on = true ∧ t.speedState = .unknown ∧
      SameLink { s with lku.brakeSilence := none } t ∧
      t.fixed = { s.fixed with
        vehicle := { speed := none, braking := true, gB := s.tgu.vehicle.gB, gBValid := false, link := false }
        guard := t.tgu.guard, priority := true, brakeOk := ⟨false, false, false⟩
        mode := t.tgu.mode, basis := t.tgu.basis, target := t.hlc.target, holder := t.hlc.holder, authT := t.hlc.authT
        lku := t.lku, freeCount := t.freeCount })

/-! ## Persistence and the pool -/

/-- TYRE_PERSISTENCE_EXPIRY (R37, R38, R58, R60), with both galleries busy: the timer stops in every case; a valid reading more than 20 kPa
off the target, of a tyre with no live descriptor, not faulted, outside LOADING, asks AUTO for the target: with two free records the head of
the free list is appended to the live list and the mark cleared; with fewer the mark is set, the TYRE counter moves and STARVED is latched.
Otherwise nothing is asked. A stopped timer does not expire. -/
def Obligations.TyrePersistenceAsks : Prop :=
  ∀ (s : State) (u : Tyre), s.sts.phase ≠ .reset → ∃ t, exec (.tyrePersistenceExpiry u) s = .next t ∧
    t.fixed = { s.fixed with lku := t.lku, freeCount := t.freeCount } ∧ SameLink s t ∧
    ((s.tgu.tyres.get u).timer = none → t = s) ∧
    ((s.tgu.tyres.get u).timer ≠ none →
      let goal := (s.tgu.tyres.get u).target
      let asks := (∃ g, s.pressure u.node = some g ∧ (g + 20 < goal ∨ goal + 20 < g)) ∧ s.descOf u.managed = none ∧
        s.faulted u.node = false ∧ s.tgu.mode ≠ .loading
      (¬ asks → t = s.setTyreTimer u none) ∧
      (asks → Busy s → ∀ id second rest, s.dqm.free = id :: second :: rest →
        t.dqm.free = second :: rest ∧
        t.tgu.tyres.get u = { s.tgu.tyres.get u with timer := none, pending := false } ∧
        t.dqm.live = s.dqm.live ++ [.transfer {
          id := id, cls := .tyre, nodes := [u.managed], goal := goal, pending := none, origin := .auto
          state := .queued, kind := tyreKind (s.pressure u.node) goal, stepGoal := none, start := none
          stepsLeft := s.ws.maxSteps.tyre, noProgress := 0, wait := .clear, torn := none }]) ∧
      (asks → s.dqm.free.length ≤ 1 →
        t.tgu.tyres.get u = { s.tgu.tyres.get u with timer := none, pending := true } ∧
        t.dqm.live = s.dqm.live ∧ t.dqm.free = s.dqm.free ∧ LatchedAll t .starved [u.node] ∧
        t.dqm.starve.tyre = if s.dqm.starve.tyre < 255 then s.dqm.starve.tyre + 1 else s.dqm.starve.tyre))

/-- HEIGHT_PERSISTENCE_EXPIRY (R112): the timer stops; a loop in PENDING with a side still out of its deadband and both heights VALID asks
AUTO for the height target with the kind that R101 gives, which with a free record and both galleries busy is appended to the live list;
otherwise nothing is asked. A stopped timer does not expire. -/
def Obligations.HeightPersistenceAsks : Prop :=
  ∀ s : State, s.sts.phase ≠ .reset → ∃ t, exec .heightPersistenceExpiry s = .next t ∧
    t.fixed = { s.fixed with lku := t.lku, freeCount := t.freeCount } ∧ SameLink s t ∧
    (s.hlc.persist = none → t = s) ∧
    (s.hlc.persist ≠ none →
      let goal := s.hlc.target
      let out := s.sideOut .left = true ∨ s.sideOut .right = true
      (s.loopState ≠ .pending ∨ ¬ out ∨ s.height .left = none ∨ s.height .right = none → t = s.stopPersist) ∧
      (∀ l r k id rest, s.loopState = .pending → out → s.height .left = some l → s.height .right = some r →
        chooseKind goal l r (s.pressure .bll) (s.pressure .blr) = some k →
        s.descSharing [.bll, .blr] = none → s.dqm.free = id :: rest → Busy s →
        t.dqm.free = rest ∧ t.hlc.persist = none ∧ t.hlc.pending = false ∧
        t.dqm.live = s.dqm.live ++ [.transfer {
          id := id, cls := .height, nodes := [.bll, .blr], goal := goal, pending := none, origin := .auto
          state := .queued, kind := k, stepGoal := none, start := none
          stepsLeft := s.ws.maxSteps.height, noProgress := 0, wait := .clear, torn := none }]))

/-- An ask for a new record (R58): with two free records, or one and the class HEIGHT, the head of the free list becomes the youngest live
record; otherwise it is refused, the class's counter moves up to 255 and STARVED is latched naming the ask's nodes (R60), and the lists
stay. -/
def Obligations.AllocationKeepsReserve : Prop :=
  ∀ (a : Ask) (e : Ev), e.st.descSharing a.nodes = none →
    (∀ id rest, e.st.dqm.free = id :: rest → (rest ≠ [] ∨ a.cls = .height) →
      (e.ask a).2 = .allocated id ∧ (e.ask a).1.st.dqm.free = rest ∧
      (e.ask a).1.st.dqm.live = e.st.dqm.live ++ [.transfer (a.record id (e.st.ws.maxSteps.get a.cls))] ∧
      (e.ask a).1.st.dqm.starve = e.st.dqm.starve) ∧
    ((e.st.dqm.free = [] ∨ (e.st.dqm.free.length = 1 ∧ a.cls ≠ .height)) →
      (e.ask a).2 = .refused ∧ (e.ask a).1.st.dqm.free = e.st.dqm.free ∧ (e.ask a).1.st.dqm.live = e.st.dqm.live ∧
      LatchedAll (e.ask a).1.st .starved (a.nodes.map Managed.node) ∧
      (e.ask a).1.st.dqm.starve =
        (let up (n : Nat) := if n < 255 then n + 1 else n
         match a.cls with
         | .height => { e.st.dqm.starve with height := up e.st.dqm.starve.height }
         | .lift => { e.st.dqm.starve with lift := up e.st.dqm.starve.lift }
         | .tyre => { e.st.dqm.starve with tyre := up e.st.dqm.starve.tyre }))

/-- The test of the sequence points (R68): a point stays exactly while some older transfer has its current kind's family in the pred set;
the transfers stay in their order, and the points that retire do so oldest first. -/
def Obligations.PointsRetire : Prop :=
  ∀ (older younger : List LiveRec) (p : Point),
    let held := ∃ d, LiveRec.transfer d ∈ older ∧ (if d.kind.isFill = true then p.pred.fill = true else p.pred.vent = true)
    ∃ kept freed,
      ((held → retireWalk false false (older ++ .point p :: younger) =
          ((retireWalk false false older).1 ++ .point p :: kept, (retireWalk false false older).2 ++ freed)) ∧
        (¬ held → retireWalk false false (older ++ .point p :: younger) =
          ((retireWalk false false older).1 ++ kept, (retireWalk false false older).2 ++ p.id :: freed))) ∧
      kept.filterMap LiveRec.desc = younger.filterMap LiveRec.desc

/-- SEQUENCE (R66, R58, R60): sets of 1 to 3 with two free records place a point of origin CAB as the youngest record under the id at the
head of the free list, after which every point is tested (R68), and the reply is ACCEPTED with that id; with fewer the reply is NO_DESCRIPTOR,
the POINT counter moves and STARVED is latched; other sets are answered BAD_FORMAT. The whole next state is given where no queued transfer has
an IDLE gallery. -/
def Obligations.SequencePlacesPoint : Prop :=
  ∀ (s : State) (h : Hdr) (pred succ : Byte), Passes s h codeSequence →
    let c := Instr.sequence h pred succ
    let r := s.heard h c
    let valid := (1 ≤ pred.toNat ∧ pred.toNat ≤ 3) ∧ (1 ≤ succ.toNat ∧ succ.toNat ≤ 3)
    (¬ valid → exec c s = .next (r.answered r h codeSequence (.refused .badFormat))) ∧
    (∀ id second rest, valid → s.dqm.free = id :: second :: rest → NoGrant s →
      let p : Point := {
        id := id, origin := .master .cab
        pred := ⟨pred.getLsbD 0, pred.getLsbD 1⟩, succ := ⟨succ.getLsbD 0, succ.getLsbD 1⟩ }
      let k := retireWalk false false (s.dqm.live ++ [.point p])
      exec c s = .next (({ r with dqm := { s.dqm with live := k.1, free := second :: rest ++ k.2 } }).answered r h codeSequence
        (.accepted false false (some id) []))) ∧
    (∀ id second rest, valid → s.dqm.free = id :: second :: rest →
      ∃ t, exec c s = .next t ∧ Answers r t h codeSequence (.accepted false false (some id) [])) ∧
    (valid → s.dqm.free.length ≤ 1 →
      ∃ t, exec c s = .next t ∧
        AnswersStarved
          { r with dqm.starve.point := if s.dqm.starve.point < 255 then s.dqm.starve.point + 1 else s.dqm.starve.point }
          t h codeSequence [])

/-- CANCEL (R71, R72): encodings and then the sender's scopes are checked, with nothing changed on a refusal; a selection of nothing is
answered with count 0 and nothing changed, any other with the count of the selected records. In a safe state where no queued transfer that
stays has a gallery to itself: while no LIFT descriptor leaves, the selected points, and the transfers in QUEUED and SETTLING, leave the live
list for the tail of the free list, the gallery of one in SETTLING is IDLE, and a transfer in OPENING, FLOWING or CLOSING is torn in its place and
in CLOSING; the points are tested where a transfer has left (all selected records before any test: notes/assumptions/19.md). The step of one in
OPENING or FLOWING is cut in any case. A lone LIFT descriptor that leaves sets lift state and aim as R128 and R124 give, where R127 asks for
nothing after it. -/
def Obligations.CancelTearsDown : Prop :=
  ∀ (s : State) (h : Hdr) (scope cls node : Byte), Passes s h codeCancel →
    let c := Instr.cancel h scope cls node
    let r := s.heard h c
    ((CancelScope.ofBytes scope cls = none ∨ cancelNode node = none) →
      exec c s = .next (r.answered r h codeCancel (.refused .badFormat))) ∧
    (∀ x n, CancelScope.ofBytes scope cls = some x → cancelNode node = some n →
      ((h.sender = .brake ∧ x ≠ .own ∧ x ≠ .ofClass (.transfer .height)) ∨ (h.sender = .panel ∧ x ≠ .own) →
        exec c s = .next (r.answered r h codeCancel (.refused .notPermitted))) ∧
      ((h.sender = .cab ∨ x = .own ∨ (h.sender = .brake ∧ x = .ofClass (.transfer .height))) →
        ((∀ l ∈ s.dqm.live, x.selects h.sender n l = false) →
          exec c s = .next (r.answered r h codeCancel (.accepted false false none [0]))) ∧
        (∀ d, s.dqm.live.filter (x.selects h.sender n) = [.transfer d] → d.cls ≠ .lift →
          ∃ t, exec c s = .next t ∧
            t.fixed = { r.fixed with lku := t.lku, freeCount := t.freeCount } ∧ SameLink r t ∧
            (d.state = .queued → NoGrant s →
              let k := retireWalk false false (s.dqm.live.filter fun l => l.id != d.id)
              t.dqm.live = k.1 ∧ t.dqm.free = s.dqm.free ++ d.id :: k.2) ∧
            (Safe s → d.state.airMoves = true → NoGrant s →
              { d with torn := some .cancel, state := .closing } ∈ t.transfers ∧ t.dqm.free = s.dqm.free ∧
              t.liveIds = s.liveIds ∧
              ((t.glc.galleries.get d.kind.gallery).flight.bind Flight.ending) = some .cut ∧
              (t.glc.galleries.get d.kind.gallery).closeT = some ⟨s.now, 40⟩)) ∧
        (let sel := x.selects h.sender n
         let leaves (l : LiveRec) : Bool := match l with
          | .transfer d => d.state == .queued || d.state == .settling
          | .point _ => true
         let gone := (s.dqm.live.filter sel).filter leaves
         let stay := (s.dqm.live.filter fun l => !(sel l && leaves l)).map fun l => match l with
          | .transfer d => .transfer (if sel l = true then { d with state := .closing, torn := some .cancel } else d)
          | .point p => .point p
         let k := if gone.any (fun l => l.desc.isSome) = true then retireWalk false false stay else (stay, [])
         ∃ t, exec c s = .next t ∧ t.fixed = { r.fixed with lku := t.lku, freeCount := t.freeCount } ∧ SameLink r t ∧
          Answers r t h codeCancel (.accepted false false none [BitVec.ofNat 8 (s.dqm.live.filter sel).length]) ∧
          (Safe s → (∀ d ∈ s.transfers, d.state = .queued → sel (.transfer d) = false →
              s.idle d.kind.gallery = false ∧
              ∀ e ∈ s.transfers, e.state = .settling → sel (.transfer e) = true → e.kind.gallery ≠ d.kind.gallery) →
            ((∀ d ∈ gone.filterMap LiveRec.desc, d.cls ≠ .lift) →
              t.dqm.live = k.1 ∧ t.dqm.free = s.dqm.free ++ gone.map LiveRec.id ++ k.2 ∧
              (∀ d ∈ s.transfers, sel (.transfer d) = true → d.state = .settling →
                t.glc.galleries.get d.kind.gallery =
                  { s.glc.galleries.get d.kind.gallery with
                    flight := none, openT := none, stepT := none, closeT := none, settleT := none })) ∧
            (∀ d ∈ s.transfers, sel (.transfer d) = true → d.state.airMoves = true →
              ((t.glc.galleries.get d.kind.gallery).flight.bind Flight.ending) = some .cut ∧
              (t.glc.galleries.get d.kind.gallery).closeT = some ⟨s.now, 40⟩ ∧ t.glc.valves.anyOpen d.kind.gallery = false) ∧
            (∀ d, s.dqm.live.filter sel = [.transfer d] → d.cls = .lift → (d.state = .queued ∨ d.state = .settling) →
              let holds := match s.pressure .lft with
                | some g => decide (430 ≤ g)
                | none => false
              let empty := match s.pressure .lft with
                | some g => decide (g ≤ 20)
                | none => false
              let aim := s.llu.lift != .lifting && s.llu.aim
              (s.faulted .lft = true ∨ (holds = true ∧ aim = true) ∨ (empty = true ∧ aim = false)) →
              (∀ e ∈ t.transfers, e.cls ≠ .lift) ∧ t.llu.aim = aim ∧
                t.llu.lift = if holds = true then .lifted else .lowered)))))

/-! ## Steps -/

/-- A grant scan of an IDLE gallery (R78 to R82, R98) in a safe state, with RSV valid for gallery A and no NO_FILL answer: every descriptor
tested gets the wait reason of R79; where none is eligible nothing else changes; else the walk from the slot after the pointer grants the
oldest eligible descriptor of the first slot's class that has one: it goes to OPENING with step goal, start reading and step node list, the
pointer is that slot, the open timer and the class step timeout start, its valve outputs are energised, its monitors are suspended, a fill stops
the supply window, a HEIGHT step sets the height-step mark, a HEIGHT or LIFT step counts for the beacon, and the others eligible wait with GALLERY.
OPEN_TIMER_EXPIRY and STEP_TIMEOUT (R83, R88): OPENING becomes FLOWING; a step in FLOWING ends with TIMEOUT, its gallery's outputs
de-energised, its descriptor in CLOSING and the 40 ms close timer started. Where no such timer runs, or the step is in another phase,
nothing changes. -/
def Obligations.StepTimersAdvance : Prop :=
  (∀ (e : Ev) (g : Gallery), Safe e.st → e.st.idle g = true → (g = .a → e.st.pressure .rsv ≠ none) →
    (∀ d ∈ e.st.scanned g, e.st.barred d = none → d.kind.isFill = true → e.st.fillAnswer d ≠ .noFill) →
    let s := e.st
    let t := (e.scanGallery g).st
    let pointer := (s.glc.galleries.get g).pointer
    let waits (l : LiveRec) : LiveRec := match l with
      | .point p => .point p
      | .transfer d => .transfer (if d ∈ s.scanned g then { d with wait := (s.scanWait d).getD .gallery } else d)
    (e.scanGallery g).out = e.out ∧
    (s.eligible g = [] → t = { s with dqm.live := s.dqm.live.map waits }) ∧
    (∀ i d, i < 16 → (∀ j < i, ∀ d' ∈ s.eligible g, d'.cls ≠ s.ws.slot ((pointer + 1 + j) % 16)) →
      ((s.eligible g).find? fun d => d.cls == s.ws.slot ((pointer + 1 + i) % 16)) = some d →
      let nodes := (s.grantStart d).1
      t.fixed = s.fixed ∧ t.dqm.free = s.dqm.free ∧ t.dqm.starve = s.dqm.starve ∧
      t.dqm.live = (s.dqm.live.map fun l =>
        if l = .transfer d then
          .transfer { d with state := .opening, stepGoal := s.grantGoal d, start := some (s.grantStart d).2, wait := .clear }
        else waits l) ∧
      t.glc.galleries.get g = {
        flight := some { id := d.id, nodes := nodes, ending := none }, pointer := (pointer + 1 + i) % 16
        openT := some ⟨s.now, 40⟩, stepT := some ⟨s.now, s.ws.timeout.get d.cls * 1000⟩, closeT := none, settleT := none } ∧
      (∀ g', g' ≠ g → t.glc.galleries.get g' = s.glc.galleries.get g') ∧
      t.glc.valves.rsv = (if g = .a then true else s.glc.valves.rsv) ∧
      t.glc.valves.exhaust = (if g = .b then d.kind != .cross else s.glc.valves.exhaust) ∧
      (∀ m, t.glc.valves.a.get m = if g = .a then nodes.contains m else s.glc.valves.a.get m) ∧
      (∀ m, t.glc.valves.b.get m = if g = .b then nodes.contains m else s.glc.valves.b.get m) ∧
      t.aac = (if g = .a then { s.aac with window := none } else s.aac) ∧ t.tgu = s.tgu ∧ t.hlc = s.hlc ∧
      t.llu = (if d.cls = .height then { s.llu with heightStep := true } else s.llu) ∧
      t.evu.latches = s.evu.latches ∧ t.evu.activeSteps = (if d.cls = .tyre then s.evu.activeSteps else s.evu.activeSteps + 1) ∧
      t.spu.faults = s.spu.faults ∧
      (∀ w : Watched, t.spu.monitors.get w =
        if d.nodes.contains w.managed then { s.spu.monitors.get w with snapshot := none, window := none }
        else s.spu.monitors.get w))) ∧
  (∀ (s : State) (g : Gallery), s.sts.phase ≠ .reset →
    (∀ d, s.served g = some d →
      ((s.glc.galleries.get g).openT ≠ none → d.state = .opening →
        exec (.openTimerExpiry g) s = .next
          ((s.modGallery g fun x => { x with openT := none }).modDesc d.id fun d => { d with state := .flowing })) ∧
      ((s.glc.galleries.get g).stepT ≠ none → d.state = .flowing →
        exec (.stepTimeout g) s = .next
          ((State.modGallery { s with glc.valves := s.glc.valves.shut g } g fun x =>
            { x with
              flight := x.flight.map fun f => { f with ending := some .timeout }
              openT := none, stepT := none, closeT := some ⟨s.now, 40⟩ }).modDesc d.id fun d => { d with state := .closing }))) ∧
    (((s.glc.galleries.get g).openT = none ∨ s.galleryState g ≠ some .opening) → exec (.openTimerExpiry g) s = .next s) ∧
    (((s.glc.galleries.get g).stepT = none ∨ s.galleryState g ≠ some .flowing) → exec (.stepTimeout g) s = .next s))

/-- CLOSE_TIMER_EXPIRY (R88, R98): a descriptor that is not torn goes to SETTLING with its class settle interval; a torn tyre or height
descriptor is freed to the tail of the free list, its gallery IDLE with every timer stopped. Where no such timer runs nothing changes. -/
def Obligations.CloseTimerSettles : Prop :=
  ∀ (s : State) (g : Gallery), s.sts.phase ≠ .reset →
    (((s.glc.galleries.get g).closeT = none ∨ s.galleryState g ≠ some .closing) → exec (.closeTimerExpiry g) s = .next s) ∧
    (∀ d, s.served g = some d → (s.glc.galleries.get g).closeT ≠ none → d.state = .closing →
      ∃ t, exec (.closeTimerExpiry g) s = .next t ∧
        t.fixed = { s.fixed with lku := t.lku, freeCount := t.freeCount } ∧ SameLink s t ∧
        (d.torn = none →
          (t.glc.galleries.get g).closeT = none ∧
          (t.glc.galleries.get g).settleT = some ⟨s.now, s.ws.settle.get d.cls⟩ ∧
          t.dqm = (s.modDesc d.id fun d => { d with state := .settling }).dqm ∧ t.glc.valves = s.glc.valves ∧
          (t.evu.activeSteps = if d.cls = .tyre then s.evu.activeSteps else s.evu.activeSteps - 1)) ∧
        (d.torn ≠ none → d.cls ≠ .lift → (∀ d' ∈ s.transfers, d'.state ≠ .queued) →
          let k := retireWalk false false (s.dqm.live.filter fun l => l.id != d.id)
          t.dqm.live = k.1 ∧ t.dqm.free = s.dqm.free ++ d.id :: k.2 ∧
          t.glc.galleries.get g =
            { s.glc.galleries.get g with flight := none, openT := none, stepT := none, closeT := none, settleT := none }))

/-- SETTLE_EXPIRY (R89, R98, R63): with no other transfer queued, a tyre or height descriptor without a pending goal whose step did not end
with SENSOR and whose goal is met within tolerance is freed to the tail of the free list and its gallery is IDLE; where no settle timer
runs nothing changes. A descriptor with a pending goal of one step or more is not freed, unless its step ended with SENSOR: while a stop stands it is QUEUED with
that goal, its origin and its class maximum of steps (R62, R91), and is not granted. That this maximum is the one in force when the pending goal was
given is read from R74 (notes/assumptions/26.md). -/
def Obligations.SettleExpiryEvaluates : Prop :=
  ∀ (s : State) (g : Gallery), s.sts.phase ≠ .reset →
    (((s.glc.galleries.get g).settleT = none ∨ s.galleryState g ≠ some .settling) → exec (.settleExpiry g) s = .next s) ∧
    (∀ d, s.served g = some d → (s.glc.galleries.get g).settleT ≠ none → d.state = .settling →
      ∃ t, exec (.settleExpiry g) s = .next t ∧
        t.fixed = { s.fixed with lku := t.lku, freeCount := t.freeCount } ∧ SameLink s t ∧
        (d.cls ≠ .lift → d.pending = none → (∀ d' ∈ s.transfers, d'.state ≠ .queued) →
          ((s.glc.galleries.get g).flight.bind Flight.ending) ≠ some .sensor →
          (d.cls = .tyre → ∀ m ∈ d.nodes.head?, ∃ v, s.pressure m.node = some v ∧ v ≤ d.goal + 10 ∧ d.goal ≤ v + 10) →
          (d.cls = .tyre → d.nodes ≠ []) →
          (d.cls = .height → ∀ sd, ∃ v, s.height sd = some v ∧ v ≤ d.goal + 3 ∧ d.goal ≤ v + 3) →
          let k := retireWalk false false (s.dqm.live.filter fun l => l.id != d.id)
          t.dqm.live = k.1 ∧ t.dqm.free = s.dqm.free ++ d.id :: k.2 ∧ s.glc.valves = t.glc.valves ∧
          t.glc.galleries.get g =
            { s.glc.galleries.get g with flight := none, openT := none, stepT := none, closeT := none, settleT := none }) ∧
        (∀ p ∈ d.pending, p.steps ≠ 0 → ((s.glc.galleries.get g).flight.bind Flight.ending) ≠ some .sensor →
          s.glc.stop.occupied = true → Safe s →
          ∃ w ∈ [Wait.clear, .point, .stop],
            { d with goal := p.goal, origin := p.origin, pending := none, state := .queued
                     kind := s.requeueKind { d with goal := p.goal }, stepGoal := none, start := none
                     stepsLeft := p.steps, noProgress := 0, wait := w } ∈ t.transfers))

/-- STOP (R96, R92), in a safe state: the sender joins the stop set, every descriptor in OPENING or FLOWING goes to CLOSING in its place and
every valve output is de-energised; queued descriptors, the free list and the rest of the set stay, and the answer is ACCEPTED. -/
def Obligations.StopCutsSteps : Prop :=
  ∀ (s : State) (h : Hdr), Passes s h codeStop → Safe s →
    let c := Instr.stop h
    let r := s.heard h c
    ∃ t u : State, exec c s = .next t ∧ t = u.answered r h codeStop .plain ∧
      u = { r with glc := u.glc, dqm := u.dqm } ∧
      u.glc.stop.cab = (s.glc.stop.cab || h.sender == .cab) ∧ u.glc.stop.panel = (s.glc.stop.panel || h.sender == .panel) ∧
      u.glc.valves = Valves.off ∧ u.dqm.free = s.dqm.free ∧ u.dqm.starve = s.dqm.starve ∧
      u.dqm.live = s.dqm.live.map fun l =>
        match l with
        | .transfer d => .transfer (if d.state.airMoves = true then { d with state := .closing } else d)
        | .point p => .point p

/-- RESUME (R97): the sender leaves the stop set, a member of it or not, and no other master does; with no queued transfer at an IDLE
gallery nothing else changes, and the answer is ACCEPTED. -/
def Obligations.ResumeLeavesStopSet : Prop :=
  ∀ (s : State) (h : Hdr), Passes s h codeResume →
    let c := Instr.resume h
    let r := s.heard h c
    let x : StopSet := ⟨s.glc.stop.cab && h.sender != .cab, s.glc.stop.panel && h.sender != .panel⟩
    (∃ t, exec c s = .next t ∧
      t.fixed = { r.fixed with stop := x, lku := t.lku, freeCount := t.freeCount } ∧ SameLink r t) ∧
    ((NoGrant s ∨ x.occupied = true ∨ s.glc.stop.occupied = false) →
      exec c s = .next (({ r with glc.stop := x }).answered r h codeResume .plain))

/-- FAULT_CLEAR (R139, R140): at STANDSTILL the flags of the nodes named, one node or with 255 all ten, are cleared and the others stay
while both galleries are busy; off STANDSTILL the reply is SPEED, and for another node byte BAD_FORMAT, with nothing changed. -/
def Obligations.FaultClearClearsFlags : Prop :=
  ∀ (s : State) (h : Hdr) (node : Byte), Passes s h codeFaultClear →
    let c := Instr.faultClear h node
    let r := s.heard h c
    ((node = 0 ∨ (10 < node.toNat ∧ node.toNat < 255)) →
      exec c s = .next (r.answered r h codeFaultClear (.refused .badFormat))) ∧
    ((1 ≤ node.toNat ∧ node.toNat ≤ 10 ∨ node = 255) → s.speedState ≠ .standstill →
      exec c s = .next (r.answered r h codeFaultClear (.refused .speed))) ∧
    ((1 ≤ node.toNat ∧ node.toNat ≤ 10 ∨ node = 255) → s.speedState = .standstill →
      ∃ t, exec c s = .next t ∧
        t.fixed = { r.fixed with lku := t.lku, freeCount := t.freeCount } ∧ SameLink r t ∧
        (Busy s → ∀ n, t.faulted n = (s.faulted n && node != 255 && decide (n.number ≠ node.toNat))))

/-! ## Deck height -/

/-- The choice of a step kind (R101), line by line, and its need of both filtered heights (R102). -/
def Obligations.HeightChoiceFollowsTable : Prop :=
  (∀ (goal fL fR : Nat) (pL pR : Option Nat),
    let eL : Int := fL - goal
    let eR : Int := fR - goal
    let sideL := if eL < 0 then StepKind.sideFill .left else StepKind.sideVent .left
    let sideR := if eR < 0 then StepKind.sideFill .right else StepKind.sideVent .right
    let larger := if eR.natAbs < eL.natAbs then sideL else if eL.natAbs < eR.natAbs then sideR
      else if 0 < eL then StepKind.sideVent .left else StepKind.sideVent .right
    let margin := (0 < eL ∧ eR < 0 ∧ ∃ l r, pL = some l ∧ pR = some r ∧ r + 20 ≤ l) ∨
      (0 < eR ∧ eL < 0 ∧ ∃ l r, pL = some l ∧ pR = some r ∧ l + 20 ≤ r)
    let roll := 12 < (eL - eR).natAbs
    let offL := 3 < eL.natAbs
    let offR := 3 < eR.natAbs
    (roll → margin → chooseKind goal fL fR pL pR = some .cross) ∧
    (roll → ¬ margin → chooseKind goal fL fR pL pR = some larger) ∧
    (¬ roll → offL → offR → eL < 0 → eR < 0 → chooseKind goal fL fR pL pR = some .pairFill) ∧
    (¬ roll → offL → offR → 0 < eL → 0 < eR → chooseKind goal fL fR pL pR = some .pairVent) ∧
    (¬ roll → offL → offR → (0 < eL ∧ eR < 0 ∨ eL < 0 ∧ 0 < eR) → chooseKind goal fL fR pL pR = some larger) ∧
    (¬ roll → offL → ¬ offR → chooseKind goal fL fR pL pR = some sideL) ∧
    (¬ roll → ¬ offL → offR → chooseKind goal fL fR pL pR = some sideR) ∧
    (chooseKind goal fL fR pL pR = none ↔ ¬ offL ∧ ¬ offR)) ∧
  (∀ (s : State) (goal : Nat),
    ((s.height .left = none ∨ s.height .right = none) → s.heightChoice goal = none) ∧
    (∀ l r, s.height .left = some l → s.height .right = some r →
      s.heightChoice goal = some (chooseKind goal l r (s.pressure .bll) (s.pressure .blr))))

/-- HEIGHT_SET (R105): its checks in order with nothing changed on a refusal; the target becomes the absolute value, or the target plus the
signed step, held to 80 to 360; a target equal to the current one changes nothing but the panel's authority timer, which an accepted panel
request restarts. The target moves wherever no live height descriptor is torn and a record can be had, with the answer that R103 gives; with
an UNORDERED height it sets the ask-pending mark, and a new record has the kind of R101 and the sender as origin. A torn one is answered
NO_DESCRIPTOR with the target as it was; that the ask stops the persistence timer all the same is notes/assumptions/16.md. -/
def Obligations.HeightSetMovesTarget : Prop :=
  ∀ (s : State) (h : Hdr) (arg : HeightArg), Passes s h codeHeightSet →
    let c := Instr.heightSet h arg
    let r := s.heard h c
    (∀ form, arg = .other form → exec c s = .next (r.answered r h codeHeightSet (.refused .badFormat))) ∧
    (∀ v : Int, (∃ mm : Half, arg = .absolute mm ∧ v = mm.toNat) ∨ (∃ d : Byte, arg = .step d ∧ v = s.hlc.target + d.toInt) →
      let goal := if v < 80 then 80 else if 360 < v then 360 else v.toNat
      let clamped := decide (v < 80 ∨ 360 < v)
      let noAuthority := (h.sender = .panel ∧ s.hlc.holder = false) ∨
        (h.sender = .cab ∧ s.tgu.mode = .loading ∧ s.hlc.holder = true)
      let fast := h.sender = .cab ∧ s.tgu.mode ≠ .loading ∧ (s.speedState = .moving ∨ s.speedState = .unknown)
      let stopped := s.glc.stop.occupied = true
      let faulted := s.faulted .bll = true ∨ s.faulted .blr = true
      let auth : Timer := if h.sender = .panel then some ⟨s.now, 120000⟩ else s.hlc.authT
      (noAuthority → exec c s = .next (r.answered r h codeHeightSet (.refused .noAuthority))) ∧
      (¬ noAuthority → fast → exec c s = .next (r.answered r h codeHeightSet (.refused .speed))) ∧
      (¬ noAuthority → ¬ fast → stopped → exec c s = .next (r.answered r h codeHeightSet (.refused .stopped))) ∧
      (¬ noAuthority → ¬ fast → ¬ stopped → faulted →
        exec c s = .next (r.answered r h codeHeightSet (.refused .nodeFault))) ∧
      (¬ noAuthority → ¬ fast → ¬ stopped → ¬ faulted →
        (goal = s.hlc.target →
          exec c s = .next (({ r with hlc.authT := auth }).answered r h codeHeightSet (.accepted clamped false none []))) ∧
        (Safe s → (∀ d ∈ s.transfers, d.cls = .height → d.torn = none) → s.dqm.free ≠ [] →
          ∃ t, exec c s = .next t ∧ SameLink r t ∧
            t.fixed = { r.fixed with target := goal, authT := auth, lku := t.lku, freeCount := t.freeCount } ∧
            (goal ≠ s.hlc.target → Answers r t h codeHeightSet (s.deckAnswer goal clamped)) ∧
            (goal ≠ s.hlc.target → s.hlc.lockout.occupied = false → s.descOfClass .height = none →
              ((s.height .left = none ∨ s.height .right = none) → t.hlc.pending = true) ∧
              (∀ a b, s.height .left = some a → s.height .right = some b →
                ∀ k, chooseKind goal a b (s.pressure .bll) (s.pressure .blr) = some k →
                ∀ id rest, s.dqm.free = id :: rest → Busy s →
                t.dqm.free = rest ∧ t.hlc.persist = none ∧ t.hlc.pending = false ∧
                t.dqm.live = s.dqm.live ++ [.transfer {
                  id := id, cls := .height, nodes := [.bll, .blr], goal := goal, pending := none, origin := .master h.sender
                  state := .queued, kind := k, stepGoal := none, start := none
                  stepsLeft := s.ws.maxSteps.height, noProgress := 0, wait := .clear, torn := none }]))) ∧
        (Safe s → goal ≠ s.hlc.target → s.hlc.lockout.occupied = false → ∀ d, s.descOfClass .height = some d → d.torn ≠ none →
          ∃ t, exec c s = .next t ∧
            AnswersStarved
              { r with
                hlc.persist := none
                dqm.starve.height := if s.dqm.starve.height < 255 then s.dqm.starve.height + 1 else s.dqm.starve.height }
              t h codeHeightSet [.bll, .blr])))

/-- RIDE_RETURN (R106, R100): its checks in order with nothing changed on a refusal; the target becomes the nominal one of the mode, in
LOADING that of the basis it holds; a target equal to it changes nothing, and the panel's authority timer is left alone. The answer is that of
R103; a torn height descriptor is answered NO_DESCRIPTOR with the target as it was and no mark set, which is the model's choice for a ride
return that is a request (notes/assumptions/54.md; the persistence timer: notes/assumptions/16.md). -/
def Obligations.RideReturnTakesNominal : Prop :=
  ∀ (s : State) (h : Hdr), Passes s h codeRideReturn →
    let c := Instr.rideReturn h
    let r := s.heard h c
    let nominal := match s.tgu.mode, s.tgu.basis with
      | .road, _ => s.ws.ride
      | .field, _ => s.ws.ride + s.ws.fieldOffset
      | .loading, .road => s.ws.ride
      | .loading, .field => s.ws.ride + s.ws.fieldOffset
    let noAuthority := h.sender ≠ .panel ∧ s.hlc.holder = true
    let stopped := s.glc.stop.occupied = true
    let faulted := s.faulted .bll = true ∨ s.faulted .blr = true
    (noAuthority → exec c s = .next (r.answered r h codeRideReturn (.refused .noAuthority))) ∧
    (¬ noAuthority → stopped → exec c s = .next (r.answered r h codeRideReturn (.refused .stopped))) ∧
    (¬ noAuthority → ¬ stopped → faulted → exec c s = .next (r.answered r h codeRideReturn (.refused .nodeFault))) ∧
    (¬ noAuthority → ¬ stopped → ¬ faulted →
      (nominal = s.hlc.target → exec c s = .next (r.answered r h codeRideReturn .plain)) ∧
      (Safe s → (∀ d ∈ s.transfers, d.cls = .height → d.torn = none) → s.dqm.free ≠ [] →
        ∃ t, exec c s = .next t ∧ SameLink r t ∧
          t.fixed = { r.fixed with target := nominal, lku := t.lku, freeCount := t.freeCount } ∧
          (nominal ≠ s.hlc.target → Answers r t h codeRideReturn (s.deckAnswer nominal false))) ∧
      (Safe s → nominal ≠ s.hlc.target → s.hlc.lockout.occupied = false → ∀ d, s.descOfClass .height = some d → d.torn ≠ none →
        ∃ t, exec c s = .next t ∧
          AnswersStarved
            { r with
              hlc.persist := none
              dqm.starve.height := if s.dqm.starve.height < 255 then s.dqm.starve.height + 1 else s.dqm.starve.height }
            t h codeRideReturn [.bll, .blr]))

/-- HEIGHT_AUTHORITY and its timer (R107 to R109): TAKE is accepted in LOADING alone and starts the 120 s timer, RELEASE is always accepted
and latches nothing, another value is BAD_FORMAT; the expiry lapses the authority and latches AUTHORITY_LOST. -/
def Obligations.HeightAuthorityHeld : Prop :=
  (∀ (s : State) (h : Hdr) (value : Byte), Passes s h codeHeightAuthority →
    let c := Instr.heightAuthorityTake h value
    let r := s.heard h c
    (value ≠ 1 → value ≠ 2 → exec c s = .next (r.answered r h codeHeightAuthority (.refused .badFormat))) ∧
    (value = 1 → s.tgu.mode ≠ .loading → exec c s = .next (r.answered r h codeHeightAuthority (.refused .mode))) ∧
    (value = 1 → s.tgu.mode = .loading →
      exec c s = .next (({ r with hlc := { r.hlc with holder := true, authT := some ⟨s.now, 120000⟩ } }).answered r h
        codeHeightAuthority .plain))) ∧
  (∀ (s : State) (h : Hdr), Passes s h codeHeightAuthority →
    let c := Instr.heightAuthorityRelease h
    let r := s.heard h c
    (s.hlc.holder = false → exec c s = .next (r.answered r h codeHeightAuthority .plain)) ∧
    (s.hlc.holder = true →
      exec c s = .next (({ r with hlc := { r.hlc with holder := false, authT := none } }).answered r h codeHeightAuthority
        .plain))) ∧
  (∀ s : State, s.sts.phase ≠ .reset →
    (s.hlc.authT = none → exec .panelAuthorityExpiry s = .next s) ∧
    (s.hlc.authT ≠ none → s.hlc.holder = true → ∃ t, exec .panelAuthorityExpiry s = .next t ∧ LatchedAll t .authorityLost [] ∧
      t = { s with
        hlc := { s.hlc with holder := false, authT := none }
        evu := { s.evu with latches := t.evu.latches }
        lku := { s.lku with canTx := t.lku.canTx, panelTx := t.lku.panelTx }
        freeCount := t.freeCount }))

/-- PANEL_SILENCE_EXPIRY (R155, R97, R109): the timer stops; a panel link that is PRESENT becomes LOST, PANEL leaves the stop set and its
height authority lapses with AUTHORITY_LOST; the mode and the height target stay. A stopped timer does not expire. -/
def Obligations.PanelSilenceLosesLink : Prop :=
  ∀ s : State, s.sts.phase ≠ .reset → ∃ t, exec .panelSilenceExpiry s = .next t ∧
    (s.lku.panelSilence = none → t = s) ∧
    (s.lku.panelSilence ≠ none → s.lku.panelLink = false → t = { s with lku.panelSilence := none }) ∧
    (s.lku.panelSilence ≠ none → s.lku.panelLink = true →
      SameLink { s with lku.panelSilence := none, lku.panelLink := false } t ∧
      t.fixed = { s.fixed with
        stop := { s.glc.stop with panel := false }, holder := false
        authT := if s.hlc.holder = true then none else s.hlc.authT
        lku := t.lku, freeCount := t.freeCount } ∧
      (s.hlc.holder = true → LatchedAll t .authorityLost []))

/-- A height sensor's lockout and its recovery (R114, R115), with no transfer live: the arrival that brings a side's invalid run to 10 adds the
side's cause, latches SENSOR_INVALID naming its bellows and, on entry to LOCKED_OUT, stops the persistence timer and clears the mark; each
valid arrival counts while the cause stands, the eighth removes it, and an invalid one sets the count to 0. -/
def Obligations.HeightLockoutAndRecovery : Prop :=
  ∀ (s : State) (sd : Side) (x : Sample), s.sts.phase ≠ .reset → s.transfers = [] →
    let valid := x.inBand = true ∧ 0 ≤ x.value ∧ x.value ≤ 400
    let cause := s.hlc.lockout.sensor sd = true
    ∃ t, exec (.heightArrival sd x) s = .next t ∧
      (¬ valid → t.hlc.recovery = s.hlc.recovery.set sd 0 ∧
        ((s.msu.heights.get sd).run = 9 →
          t.hlc.lockout = s.hlc.lockout.setSensor sd true ∧ LatchedAll t .sensorInvalid [sd.bellows.node] ∧
          (s.hlc.lockout.occupied = false → t.hlc.persist = none ∧ t.hlc.pending = false))) ∧
      (valid → s.hlc.pending = false →
        (¬ cause → t.hlc.lockout = s.hlc.lockout ∧ t.hlc.recovery = s.hlc.recovery) ∧
        (cause → t.hlc.recovery = s.hlc.recovery.set sd (s.hlc.recovery.get sd + 1) ∧
          t.hlc.lockout = if s.hlc.recovery.get sd + 1 < 8 then s.hlc.lockout else s.hlc.lockout.setSensor sd false))

/-! ## Load and lift axle -/

/-- The settled side loads (R119) and their freshness (R122): a VALID bellows arrival while the height-step mark is clear sets the side's load
to floor(g × LF / 64) and starts its 500 ms timer; any other leaves load and timer. At the expiry the side is STALE and nothing else
changes. A changed load in RUN outside LOADING, with the setting DOWN and both galleries busy, recomputes targets (R121): those of every tyre
where no load-follow recomputation in RUN came before (R39), else those of the side, each replaced where it differs by 15 kPa or more (R31).
That R31 holds for the first one too is the model's reading (notes/assumptions/37.md). -/
def Obligations.SideLoadSettles : Prop :=
  (∀ (s : State) (sd : Side) (x : Sample), s.sts.phase ≠ .reset →
    let valid := x.inBand = true ∧ 0 ≤ x.value ∧ x.value ≤ 1200
    ∃ t, exec (.pressureArrival sd.bellows.node x) s = .next t ∧
      (valid → s.llu.heightStep = false →
        t.llu.load = s.llu.load.set sd (some (x.value.toNat * s.ws.lf / 64)) ∧
        t.llu.fresh = s.llu.fresh.set sd (some ⟨s.now, 500⟩)) ∧
      (valid → s.llu.heightStep = false → s.sts.phase = .run → s.tgu.mode ≠ .loading → s.llu.setting = .down → Busy s →
        let new := x.value.toNat * s.ws.lf / 64
        s.llu.load.get sd ≠ some new →
        t.tgu.followed = true ∧
        ∀ u, (t.tgu.tyres.get u).target =
          (let old := (s.tgu.tyres.get u).target
           let goal := State.formTarget { s with llu.load := s.llu.load.set sd (some new) } u (s.tgu.tyres.get u).override
           if (u.side = sd ∨ s.tgu.followed = false) ∧ (old + 15 ≤ goal ∨ goal + 15 ≤ old) then goal else old)) ∧
      (¬ valid ∨ s.llu.heightStep = true → t.llu.load = s.llu.load ∧ t.llu.fresh = s.llu.fresh)) ∧
  (∀ (s : State) (sd : Side), s.sts.phase ≠ .reset →
    exec (.freshnessExpiry sd) s = .next { s with llu.fresh := s.llu.fresh.set sd none })

/-- LIFT_SET (R129): its checks in order with nothing changed on a refusal. An accepted one takes the setting, the aim that R124 gives and the
timer that R125 gives, and then the ask of R127: no ask is answered ACCEPTED with nothing else changed; an ask is answered with the new id, or
with MERGED and the existing id, and with both galleries busy the lift state follows and the descriptor carries the goal with origin CAB. An ask
that meets a torn lift descriptor, or finds no record, is answered NO_DESCRIPTOR with setting, aim and timer as they were. A pending goal
carries the class maximum of steps in force (R74, notes/assumptions/26.md). -/
def Obligations.LiftSetTakesSetting : Prop :=
  ∀ (s : State) (h : Hdr) (setting : Byte), Passes s h codeLiftSet →
    let c := Instr.liftSet h setting
    let r := s.heard h c
    (setting = 0 ∨ 3 < setting.toNat → exec c s = .next (r.answered r h codeLiftSet (.refused .badFormat))) ∧
    (∀ x : LiftSetting, x.code = setting.toNat →
      let off := x = .up ∧ s.tgu.mode ≠ .road
      let heavy := x = .up ∧ ∀ a b, s.llu.load.left = some a → s.llu.load.right = some b → s.ws.lowerAbove < a + b
      let stopped := s.glc.stop.occupied = true
      let aim := match x, s.llu.load.left, s.llu.load.right with
        | .up, _, _ => true
        | .down, _, _ => false
        | .auto, some a, some b => if s.ws.lowerAbove < a + b then false else s.llu.aim
        | .auto, _, _ => s.llu.aim
      let light := match s.llu.load.left, s.llu.load.right with
        | some a, some b => decide (a + b < s.ws.liftBelow)
        | _, _ => false
      let timer : Timer :=
        if x = .auto ∧ s.tgu.mode = .road ∧ s.speedState ≠ .unknown ∧ light = true ∧ aim = false then
          s.timerKeep s.llu.liftT 10000
        else none
      (off → exec c s = .next (r.answered r h codeLiftSet (.refused .mode))) ∧
      (¬ off → s.faulted .lft = true → exec c s = .next (r.answered r h codeLiftSet (.refused .nodeFault))) ∧
      (¬ off → s.faulted .lft = false → stopped → exec c s = .next (r.answered r h codeLiftSet (.refused .stopped))) ∧
      (¬ off → s.faulted .lft = false → ¬ stopped → heavy →
        exec c s = .next (r.answered r h codeLiftSet (.refused .overload))) ∧
      (¬ off → s.faulted .lft = false → ¬ stopped → ¬ heavy →
        ((∀ d, s.descSharing [.lft] = some d → d.torn = none) → (s.descSharing [.lft] = none → 2 ≤ s.dqm.free.length) →
          ∃ t, exec c s = .next t ∧ SameLink r t ∧
            t.fixed = { r.fixed with setting := x, lku := t.lku, freeCount := t.freeCount }) ∧
        (s.liftTable aim = none →
          exec c s = .next (({ r with llu := { r.llu with setting := x, aim := aim, liftT := timer } }).answered r h codeLiftSet
            .plain)) ∧
        (∀ goal next, s.liftTable aim = some (goal, next) →
          (((∃ d, s.descSharing [.lft] = some d ∧ d.torn ≠ none) ∨ (s.descSharing [.lft] = none ∧ s.dqm.free.length ≤ 1)) →
            ∃ t, exec c s = .next t ∧
              AnswersStarved
                { r with dqm.starve.lift := if s.dqm.starve.lift < 255 then s.dqm.starve.lift + 1 else s.dqm.starve.lift }
                t h codeLiftSet [.lft]) ∧
          (∀ d, s.descSharing [.lft] = some d → d.torn = none →
            ∃ t, exec c s = .next t ∧ Answers r t h codeLiftSet (.accepted false true (some d.id) []) ∧
              (Busy s → t.llu.aim = aim ∧ t.llu.lift = next ∧ t.llu.liftT = timer) ∧
              (Safe s → Busy s →
                (if d.state = .queued then
                  { d with goal := goal, origin := .master .cab, kind := if goal = 0 then .vent else .fill
                           stepsLeft := s.ws.maxSteps.lift, noProgress := 0, wait := .clear }
                else { d with pending := some { goal := goal, origin := .master .cab, steps := s.ws.maxSteps.get d.cls } }) ∈ t.transfers)) ∧
          (s.descSharing [.lft] = none → ∀ id second rest, s.dqm.free = id :: second :: rest →
            ∃ t, exec c s = .next t ∧ Answers r t h codeLiftSet (.accepted false false (some id) []) ∧
              (Busy s → t.llu.aim = aim ∧ t.llu.lift = next ∧ t.llu.liftT = timer) ∧
              (Safe s → Busy s →
                .transfer {
                  id := id, cls := .lift, nodes := [.lft], goal := goal, pending := none, origin := .master .cab
                  state := .queued, kind := if goal = 0 then .vent else .fill, stepGoal := none, start := none
                  stepsLeft := s.ws.maxSteps.lift, noProgress := 0, wait := .clear, torn := none } ∈ t.dqm.live)))))

/-- LIFT_TIMER_EXPIRY (R125, R124, R127): the timer stops and the aim is LIFTED, as it stands while both galleries are busy. Where the aim was
LOWERED the lift decision follows: before RUN, with LFT faulted or where R127 asks nothing, nothing else changes; an ask that is refused leaves
the lift state and latches STARVED; one that merges or finds a record makes the lift state that of R127 under an AUTO goal. A stopped timer does
not expire. A pending goal carries the class maximum of steps in force (R74, notes/assumptions/26.md). -/
def Obligations.LiftTimerRaisesAim : Prop :=
  ∀ s : State, s.sts.phase ≠ .reset → ∃ t, exec .liftTimerExpiry s = .next t ∧
    t.fixed = { s.fixed with lku := t.lku, freeCount := t.freeCount } ∧ SameLink s t ∧
    (s.llu.liftT = none → t = s) ∧
    (s.llu.liftT ≠ none → Busy s → t.llu.aim = true ∧ t.llu.liftT = none) ∧
    (s.llu.liftT ≠ none → s.llu.aim = false →
      ((s.sts.phase = .starting ∨ s.faulted .lft = true ∨ s.liftTable true = none) →
        t = { s with llu := { s.llu with aim := true, liftT := none } }) ∧
      (∀ goal next, s.sts.phase = .run → s.faulted .lft = false → s.liftTable true = some (goal, next) →
        (((∃ d, s.descSharing [.lft] = some d ∧ d.torn ≠ none) ∨ (s.descSharing [.lft] = none ∧ s.dqm.free.length ≤ 1)) →
          LatchedAll t .starved [.lft] ∧ t.llu = { s.llu with aim := true, liftT := none }) ∧
        (∀ d, s.descSharing [.lft] = some d → d.torn = none → Safe s → Busy s →
          t.llu.lift = next ∧
            (if d.state = .queued then
              { d with goal := goal, origin := .auto, kind := .fill
                       stepsLeft := s.ws.maxSteps.lift, noProgress := 0, wait := .clear }
            else { d with pending := some { goal := goal, origin := .auto, steps := s.ws.maxSteps.get d.cls } }) ∈ t.transfers) ∧
        (s.descSharing [.lft] = none → Safe s → Busy s → ∀ id second rest, s.dqm.free = id :: second :: rest →
          t.llu.lift = next ∧
            .transfer {
              id := id, cls := .lift, nodes := [.lft], goal := 450, pending := none, origin := .auto
              state := .queued, kind := .fill, stepGoal := none, start := none
              stepsLeft := s.ws.maxSteps.lift, noProgress := 0, wait := .clear, torn := none } ∈ t.dqm.live)))

/-! ## Supervision and the beacon -/

/-- SNAPSHOT_EXPIRY and WINDOW_EXPIRY of a decay monitor (R133, R135), and STRETCH_EXPIRY (R116): a snapshot of a VALID entry joins the ring,
which keeps its newest four, and the 10 s timer starts again; at the end of a window a VALID entry becomes the reference, LEAK_SLOW is
latched where it lies 20 kPa or more below the old one, and the 600 s timer starts again; the beacon goes from STRETCH to UNLIT. A timer
that is stopped does not expire. -/
def Obligations.MonitorTimersExpire : Prop :=
  (∀ (s : State) (w : Watched), s.sts.phase ≠ .reset →
    let x := s.spu.monitors.get w
    (x.snapshot = none → exec (.snapshotExpiry w) s = .next s) ∧
    (x.snapshot ≠ none → x.ring.length ≤ 4 →
      let ring := match s.pressure w.node with
        | some g => if x.ring.length = 4 then x.ring.tail ++ [g] else x.ring ++ [g]
        | none => x.ring
      exec (.snapshotExpiry w) s = .next { s with
        spu.monitors := s.spu.monitors.set w { x with ring := ring, snapshot := some ⟨s.now, 10000⟩ } }) ∧
    (x.window = none → exec (.windowExpiry w) s = .next s) ∧
    (x.window ≠ none →
      let ref := match s.pressure w.node with
        | some g => some g
        | none => x.reference
      ∃ t, exec (.windowExpiry w) s = .next t ∧
        t = { s with
          spu.monitors := s.spu.monitors.set w { x with reference := ref, window := some ⟨s.now, 600000⟩ }
          evu.latches := t.evu.latches
          lku := { s.lku with canTx := t.lku.canTx, panelTx := t.lku.panelTx }
          freeCount := t.freeCount } ∧
        (∀ g r, s.pressure w.node = some g → x.reference = some r → g + 20 ≤ r → LatchedAll t .leakSlow [w.node]) ∧
        (∀ g r, s.pressure w.node = some g → x.reference = some r → r < g + 20 → t.evu = s.evu))) ∧
  (∀ s : State, s.sts.phase ≠ .reset →
    (s.evu.stretch = none → exec .stretchExpiry s = .next s) ∧
    (s.evu.stretch ≠ none → s.evu.beacon = .stretch →
      exec .stretchExpiry s = .next { s with evu := { s.evu with stretch := none, beacon := .unlit } }))

/-! ## Links -/

/-- The CAN port (R143, R144, R148): one idle sighting after a start, and the 128th after a bus-off, put the port on the bus; a bus-off empties
the transmit queue and the receive FIFO; a data frame with a 29-bit identifier from the cab or the brake controller to the part joins the
FIFO while on the bus and there is room, and any other frame is ignored; a frame sent leaves its queue, and one to be tried again stays. That
CAN_TRANSMIT_RETRY marks its item as begun, and a frame sent the rest of its item, is the model's reading, which R143 and R148 do not state
(notes/assumptions/25.md). -/
def Obligations.CanPortEvents : Prop :=
  ∀ s : State, s.sts.phase ≠ .reset →
    exec .busIdle s = .next { s with lku.port :=
      match s.lku.port with
      | .offSinceStart => .onBus
      | .offAfterBusOff n => if n + 1 < 128 then .offAfterBusOff (n + 1) else .onBus
      | .onBus => .onBus } ∧
    (s.lku.port = .onBus →
      exec .busOff s = .next { s with lku := { s.lku with port := .offAfterBusOff 0, canTx := [], fifo := [] } }) ∧
    (s.lku.port ≠ .onBus → exec .busOff s = .next s ∧ exec .canFrameSent s = .next s ∧ exec .canTransmitRetry s = .next s ∧
      ∀ f, exec (.canFrameReceived f) s = .next s) ∧
    (∀ f : CanFrame,
      let taken := f.extended = true ∧ f.remote = false ∧ f.ident.toNat % 256 = s.ws.ownAddr ∧ s.lku.fifo.length < 8
      let frame (m : Master) : RxFrame := {
        sender := m, address := byteOf (f.ident.toNat / 256 % 256), kind := byteOf (f.ident.toNat / 4194304 % 32)
        groupIndex := f.ident.toNat / 524288 % 8, groupCount := f.ident.toNat / 65536 % 8, data := f.data }
      s.lku.port = .onBus →
        (taken → f.ident.toNat / 256 % 256 = s.ws.cabAddr →
          exec (.canFrameReceived f) s = .next { s with lku.fifo := s.lku.fifo ++ [frame .cab] }) ∧
        (taken → f.ident.toNat / 256 % 256 = s.ws.brakeAddr → s.ws.brakeAddr ≠ s.ws.cabAddr →
          exec (.canFrameReceived f) s = .next { s with lku.fifo := s.lku.fifo ++ [frame .brake] }) ∧
        (¬ taken ∨ (f.ident.toNat / 256 % 256 ≠ s.ws.cabAddr ∧ f.ident.toNat / 256 % 256 ≠ s.ws.brakeAddr) →
          exec (.canFrameReceived f) s = .next s)) ∧
    (∀ i q, s.lku.port = .onBus → s.lku.canTx = i :: q →
      exec .canTransmitRetry s = .next { s with lku.canTx := { i with begun := true } :: q } ∧
      (∀ f, i.frames = [f] → exec .canFrameSent s = .next { s with lku.canTx := q }) ∧
      (∀ f g rest, i.frames = f :: g :: rest →
        exec .canFrameSent s = .next { s with lku.canTx := { i with frames := g :: rest, begun := true } :: q }))

/-- The panel line (R146, R147): a byte while the part is sending is a collision, which stops the sending and keeps the queue; otherwise the
receiver takes it, a byte with a framing error or a gap abandons a frame, and a frame of more than 40 bytes is abandoned at its length; the
part sends its oldest frame only from HUNT, and the frame leaves the queue when it has been sent. Two clauses are the model's reading: a byte
with a framing error in HUNT is discarded, a start byte too (notes/assumptions/24.md), and a queued frame whose sending began stays marked as
begun, through a collision too (notes/assumptions/25.md). -/
def Obligations.PanelLineEvents : Prop :=
  ∀ s : State, s.sts.phase ≠ .reset →
    (∀ b e, s.lku.sending = true →
      exec (.panelByteReceived b e) s = .next { s with lku := { s.lku with sending := false, rx := .hunt } }) ∧
    (∀ b, s.lku.sending = false →
      exec (.panelByteReceived b true) s = .next { s with lku.rx := .hunt } ∧
      (s.lku.rx = .hunt →
        exec (.panelByteReceived b false) s = .next { s with lku.rx := if b = 167 then .length else .hunt }) ∧
      (s.lku.rx = .length →
        exec (.panelByteReceived b false) s = .next { s with lku.rx := if b.toNat ≤ 40 then .body b.toNat [] else .hunt }) ∧
      (∀ n got, s.lku.rx = .check n got →
        exec (.panelByteReceived b false) s = .next { s with
          lku := { s.lku with
            rx := .hunt
            good := if (167 + n + (got.map BitVec.toNat).sum + b.toNat) % 256 = 0 then
                s.lku.good ++ [{ kind := got.headD 0, payload := got.drop 1 }]
              else s.lku.good } })) ∧
    exec .panelGapTimeout s = .next { s with lku.rx := .hunt } ∧
    ((s.lku.rx ≠ .hunt ∨ s.lku.sending = true ∨ s.lku.panelTx = []) → exec .panelSendStart s = .next s) ∧
    (∀ i q, s.lku.rx = .hunt → s.lku.sending = false → s.lku.panelTx = i :: q →
      exec .panelSendStart s = .next { s with lku := { s.lku with sending := true, panelTx := { i with begun := true } :: q } }) ∧
    (s.lku.sending = false → exec .panelFrameSent s = .next s) ∧
    (∀ i q, s.lku.sending = true → s.lku.panelTx = i :: q →
      (∀ f, i.frames = [f] → exec .panelFrameSent s = .next { s with lku := { s.lku with sending := false, panelTx := q } }) ∧
      (∀ f g rest, i.frames = f :: g :: rest → exec .panelFrameSent s = .next { s with
        lku := { s.lku with sending := false, panelTx := { i with frames := g :: rest, begun := true } :: q } }))

/-- The common checks (R149, R150, R152, R156) for every request kind: a sender whose role does not allow the kind is answered
NOT_PERMITTED unless NO_REPLY is set; then a shape or a flags byte that is not defined is answered BAD_FORMAT whatever the flags hold; then
in STARTING every kind but STATUS_READ is answered NOT_READY. VEHICLE_DATA and PANEL_ALIVE are answered only NOT_PERMITTED. Beside the
answer nothing changes but the receipt of the frame. That NO_REPLY is read from bit 0 of a flags byte whose other bits are not 0, in the first
of these checks, is the model's reading (notes/assumptions/22.md). -/
def Obligations.CommonChecksRefuse : Prop :=
  ∀ (c : Instr) (h : Hdr) (code : Nat) (s : State), headerOf c = some (h, code) → s.sts.phase ≠ .reset →
    let r := s.heard h c
    let silent := code = codeVehicleData ∨ code = codePanelAlive
    let refusal (x : Reason) : List OutMsg := [r.reply h (byteOf code) (s.ws.address h.sender) (.refused x)]
    (roleAllows code h.sender = false →
      exec c s = .next (r.enqueueAll (if h.noReply = true then [] else refusal .notPermitted))) ∧
    (roleAllows code h.sender = true → h.wellShaped = false →
      exec c s = .next (r.enqueueAll (if silent then [] else refusal .badFormat))) ∧
    (roleAllows code h.sender = true → h.wellShaped = true → s.sts.phase = .starting → code ≠ codeStatusRead →
      exec c s = .next (r.enqueueAll (if h.noReply = true ∨ silent then [] else refusal .notReady)))

/-- PANEL_ALIVE (R155) and a frame of no request kind (R149, R152): a good panel frame taken in RUN restarts the 2 s silence timer and makes
the panel link PRESENT, and PANEL_ALIVE does nothing more; an unknown kind is answered BAD_FORMAT with the kind byte as received, whatever
NO_REPLY holds. -/
def Obligations.PanelAliveAndUnknown : Prop :=
  (∀ (s : State) (h : Hdr), Passes s h codePanelAlive →
    let r := s.heard h (.panelAlive h)
    exec (.panelAlive h) s = .next r ∧ r.lku.panelSilence = some ⟨s.now, 2000⟩ ∧ r.lku.panelLink = true ∧
      r = { s with lku := { s.lku with
        fifo := r.lku.fifo, good := r.lku.good, panelSilence := r.lku.panelSilence, panelLink := r.lku.panelLink } }) ∧
  (∀ (s : State) (h : Hdr) (kind : Byte), s.sts.phase ≠ .reset →
    let r := s.heard h (.unknownRequest h kind)
    exec (.unknownRequest h kind) s = .next (r.enqueueAll [{
      master := h.sender, src := byteOf s.ws.ownAddr, dst := s.ws.address h.sender, code := 25
      bytes := [h.tag, kind, 9], periodic := false }]) ∧
    (h.sender = .panel → s.sts.phase = .run → r.lku.panelSilence = some ⟨s.now, 2000⟩ ∧ r.lku.panelLink = true))

/-! ## Events and reports -/

/-- STATUS_READ (R161, R152) in STARTING and RUN: with NO_REPLY the sender's latch set is cleared and its conditions are rearmed; otherwise its
reply is queued if there is room, and only then are they cleared and rearmed. No other master's set or conditions change, nor anything else
but the queues. -/
def Obligations.StatusReadClearsOwnSet : Prop :=
  ∀ (s : State) (h : Hdr), s.sts.phase ≠ .reset → h.wellShaped = true →
    let c := Instr.statusRead h
    let r := s.heard h c
    let cleared : Evu := { s.evu with
      latches := s.evu.latches.set h.sender (PerKind.fill none)
      supplyOk := s.evu.supplyOk.set h.sender s.aac.supply
      brakeOk := s.evu.brakeOk.set h.sender s.tgu.vehicle.link }
    let offered := r.enqueue {
      master := h.sender, src := byteOf s.ws.ownAddr, dst := s.ws.address h.sender, code := 26
      bytes := statusBytes s h.sender h.tag, periodic := false }
    (h.noReply = true → exec c s = .next { r with evu := cleared }) ∧
    (h.noReply = false → offered.2 = true → exec c s = .next { offered.1 with evu := cleared }) ∧
    (h.noReply = false → offered.2 = false → exec c s = .next offered.1 ∧ offered.1.evu = s.evu) ∧
    (h.sender ≠ .panel → s.lku.port ≠ .onBus → offered.2 = false)

/-- MASK_SET (R158): a mask of the fourteen kinds replaces the sender's own, bit k for the kind of code k; one with bit 14 or 15 is answered
BAD_FORMAT; no other mask and no latch set changes, and no report is queued beside the reply. TEST_EVENT (R159): TEST is latched in the
sender's set alone and an EVENT report of it stands behind the reply, whatever the mask holds. -/
def Obligations.MaskAndTestOwnSet : Prop :=
  (∀ (s : State) (h : Hdr) (mask : Half), Passes s h codeMaskSet →
    let c := Instr.maskSet h mask
    let r := s.heard h c
    (mask.getLsbD 14 = true ∨ mask.getLsbD 15 = true →
      exec c s = .next (r.answered r h codeMaskSet (.refused .badFormat))) ∧
    (mask.getLsbD 14 = false → mask.getLsbD 15 = false →
      ∃ p : PerKind Bool, (∀ k, p.get k = mask.getLsbD k.code) ∧
        exec c s = .next (({ r with evu.masks := s.evu.masks.set h.sender p }).answered r h codeMaskSet .plain))) ∧
  (∀ (s : State) (h : Hdr), Passes s h codeTestEvent →
    let c := Instr.testEvent h
    let r := s.heard h c
    ∃ x : LatchSet, LatchSet.holds x .test [] ∧ (∀ k, k ≠ .test → x.get k = (s.evu.latches.get h.sender).get k) ∧
      exec c s = .next (({ r with evu.latches := s.evu.latches.set h.sender x }).enqueueAll (r.replies h codeTestEvent .plain ++ [({
        master := h.sender, src := byteOf s.ws.ownAddr, dst := s.ws.address h.sender, code := 27, bytes := [14, 0, 0]
        periodic := false } : OutMsg)])))

/-- The periodic reports (R163, R122): each period starts its timer afresh and offers the report made up from the state as it stands: STATE to
CAB and to PANEL every 500 ms, NODES to CAB every 1000 ms, LOAD to BRAKE every 100 ms. A stopped timer does not expire. -/
def Obligations.PeriodicReportsSent : Prop :=
  ∀ s : State, s.sts.phase ≠ .reset →
    let report (m : Master) (code : Nat) (bytes : List Byte) : OutMsg := {
      master := m, src := byteOf s.ws.ownAddr, dst := s.ws.address m, code := code, bytes := bytes, periodic := true }
    (s.evu.stateT = none → exec .statePeriod s = .next s) ∧
    (s.evu.nodesT = none → exec .nodesPeriod s = .next s) ∧
    (s.evu.loadT = none → exec .loadPeriod s = .next s) ∧
    (s.evu.stateT ≠ none → exec .statePeriod s = .next (({ s with evu.stateT := some ⟨s.now, 500⟩ }).enqueueAll
      [report .cab 29 (stateBytes s), report .panel 29 (stateBytes s)])) ∧
    (s.evu.nodesT ≠ none → exec .nodesPeriod s = .next (({ s with evu.nodesT := some ⟨s.now, 1000⟩ }).enqueueAll
      [report .cab 30 (nodeString s)])) ∧
    (s.evu.loadT ≠ none → exec .loadPeriod s = .next (({ s with evu.loadT := some ⟨s.now, 100⟩ }).enqueueAll
      [report .brake 31 (field24 s.llu.load.left ++ field24 s.llu.load.right ++
        [if s.llu.lift = LiftState.lifted then (2 : Byte) else 3,
         if s.llu.fresh.left = none ∨ s.llu.fresh.right = none then 1 else 0])]))
end

