-- ==== Sys2Proof/Laws/Tables.lean ====
section
/-! SUPPORT. What the tables of Machine/Tables.lean do: reading after a write, elsewhere than a write, and after a change; and when two
tables are equal. -/

set_option Elab.async false

namespace Sys2Proof.Machine

@[simp] theorem PerNode.get_set {α : Type} (p : PerNode α) (i : Node) (x : α) : (p.set i x).get i = x := by
  cases i <;> rfl

theorem PerNode.get_set_ne {α : Type} (p : PerNode α) {i j : Node} (x : α) (h : j ≠ i) : (p.set i x).get j = p.get j := by
  cases i <;> cases j <;> first | rfl | exact absurd rfl h

@[simp] theorem PerNode.get_fill {α : Type} (x : α) (i : Node) : (PerNode.fill x).get i = x := by
  cases i <;> rfl

@[simp] theorem PerNode.get_modify {α : Type} (p : PerNode α) (i : Node) (f : α → α) : (p.modify i f).get i = f (p.get i) := by
  simp [PerNode.modify]

theorem PerNode.get_modify_ne {α : Type} (p : PerNode α) {i j : Node} (f : α → α) (h : j ≠ i) :
    (p.modify i f).get j = p.get j := PerNode.get_set_ne p _ h

theorem PerNode.get_set_if {α : Type} (p : PerNode α) (i j : Node) (x : α) :
    (p.set i x).get j = if j = i then x else p.get j := by
  split
  · next h => subst h; simp
  · next h => exact PerNode.get_set_ne p x h

@[simp] theorem PerManaged.get_set {α : Type} (p : PerManaged α) (i : Managed) (x : α) : (p.set i x).get i = x := by
  cases i <;> rfl

theorem PerManaged.get_set_ne {α : Type} (p : PerManaged α) {i j : Managed} (x : α) (h : j ≠ i) : (p.set i x).get j = p.get j := by
  cases i <;> cases j <;> first | rfl | exact absurd rfl h

@[simp] theorem PerManaged.get_fill {α : Type} (x : α) (i : Managed) : (PerManaged.fill x).get i = x := by
  cases i <;> rfl

@[simp] theorem PerManaged.get_modify {α : Type} (p : PerManaged α) (i : Managed) (f : α → α) : (p.modify i f).get i = f (p.get i) := by
  simp [PerManaged.modify]

theorem PerManaged.get_modify_ne {α : Type} (p : PerManaged α) {i j : Managed} (f : α → α) (h : j ≠ i) :
    (p.modify i f).get j = p.get j := PerManaged.get_set_ne p _ h

theorem PerManaged.get_set_if {α : Type} (p : PerManaged α) (i j : Managed) (x : α) :
    (p.set i x).get j = if j = i then x else p.get j := by
  split
  · next h => subst h; simp
  · next h => exact PerManaged.get_set_ne p x h

@[simp] theorem PerTyre.get_set {α : Type} (p : PerTyre α) (i : Tyre) (x : α) : (p.set i x).get i = x := by
  cases i <;> rfl

theorem PerTyre.get_set_ne {α : Type} (p : PerTyre α) {i j : Tyre} (x : α) (h : j ≠ i) : (p.set i x).get j = p.get j := by
  cases i <;> cases j <;> first | rfl | exact absurd rfl h

@[simp] theorem PerTyre.get_fill {α : Type} (x : α) (i : Tyre) : (PerTyre.fill x).get i = x := by
  cases i <;> rfl

@[simp] theorem PerTyre.get_modify {α : Type} (p : PerTyre α) (i : Tyre) (f : α → α) : (p.modify i f).get i = f (p.get i) := by
  simp [PerTyre.modify]

theorem PerTyre.get_modify_ne {α : Type} (p : PerTyre α) {i j : Tyre} (f : α → α) (h : j ≠ i) :
    (p.modify i f).get j = p.get j := PerTyre.get_set_ne p _ h

theorem PerTyre.get_set_if {α : Type} (p : PerTyre α) (i j : Tyre) (x : α) :
    (p.set i x).get j = if j = i then x else p.get j := by
  split
  · next h => subst h; simp
  · next h => exact PerTyre.get_set_ne p x h

@[simp] theorem PerWatched.get_set {α : Type} (p : PerWatched α) (i : Watched) (x : α) : (p.set i x).get i = x := by
  cases i <;> rfl

theorem PerWatched.get_set_ne {α : Type} (p : PerWatched α) {i j : Watched} (x : α) (h : j ≠ i) : (p.set i x).get j = p.get j := by
  cases i <;> cases j <;> first | rfl | exact absurd rfl h

@[simp] theorem PerWatched.get_fill {α : Type} (x : α) (i : Watched) : (PerWatched.fill x).get i = x := by
  cases i <;> rfl

@[simp] theorem PerWatched.get_modify {α : Type} (p : PerWatched α) (i : Watched) (f : α → α) : (p.modify i f).get i = f (p.get i) := by
  simp [PerWatched.modify]

theorem PerWatched.get_modify_ne {α : Type} (p : PerWatched α) {i j : Watched} (f : α → α) (h : j ≠ i) :
    (p.modify i f).get j = p.get j := PerWatched.get_set_ne p _ h

theorem PerWatched.get_set_if {α : Type} (p : PerWatched α) (i j : Watched) (x : α) :
    (p.set i x).get j = if j = i then x else p.get j := by
  split
  · next h => subst h; simp
  · next h => exact PerWatched.get_set_ne p x h

@[simp] theorem PerSide.get_set {α : Type} (p : PerSide α) (i : Side) (x : α) : (p.set i x).get i = x := by
  cases i <;> rfl

theorem PerSide.get_set_ne {α : Type} (p : PerSide α) {i j : Side} (x : α) (h : j ≠ i) : (p.set i x).get j = p.get j := by
  cases i <;> cases j <;> first | rfl | exact absurd rfl h

@[simp] theorem PerSide.get_fill {α : Type} (x : α) (i : Side) : (PerSide.fill x).get i = x := by
  cases i <;> rfl

@[simp] theorem PerSide.get_modify {α : Type} (p : PerSide α) (i : Side) (f : α → α) : (p.modify i f).get i = f (p.get i) := by
  simp [PerSide.modify]

theorem PerSide.get_modify_ne {α : Type} (p : PerSide α) {i j : Side} (f : α → α) (h : j ≠ i) :
    (p.modify i f).get j = p.get j := PerSide.get_set_ne p _ h

theorem PerSide.get_set_if {α : Type} (p : PerSide α) (i j : Side) (x : α) :
    (p.set i x).get j = if j = i then x else p.get j := by
  split
  · next h => subst h; simp
  · next h => exact PerSide.get_set_ne p x h

@[simp] theorem PerGallery.get_set {α : Type} (p : PerGallery α) (i : Gallery) (x : α) : (p.set i x).get i = x := by
  cases i <;> rfl

theorem PerGallery.get_set_ne {α : Type} (p : PerGallery α) {i j : Gallery} (x : α) (h : j ≠ i) : (p.set i x).get j = p.get j := by
  cases i <;> cases j <;> first | rfl | exact absurd rfl h

@[simp] theorem PerGallery.get_fill {α : Type} (x : α) (i : Gallery) : (PerGallery.fill x).get i = x := by
  cases i <;> rfl

@[simp] theorem PerGallery.get_modify {α : Type} (p : PerGallery α) (i : Gallery) (f : α → α) : (p.modify i f).get i = f (p.get i) := by
  simp [PerGallery.modify]

theorem PerGallery.get_modify_ne {α : Type} (p : PerGallery α) {i j : Gallery} (f : α → α) (h : j ≠ i) :
    (p.modify i f).get j = p.get j := PerGallery.get_set_ne p _ h

theorem PerGallery.get_set_if {α : Type} (p : PerGallery α) (i j : Gallery) (x : α) :
    (p.set i x).get j = if j = i then x else p.get j := by
  split
  · next h => subst h; simp
  · next h => exact PerGallery.get_set_ne p x h

@[simp] theorem PerMaster.get_set {α : Type} (p : PerMaster α) (i : Master) (x : α) : (p.set i x).get i = x := by
  cases i <;> rfl

theorem PerMaster.get_set_ne {α : Type} (p : PerMaster α) {i j : Master} (x : α) (h : j ≠ i) : (p.set i x).get j = p.get j := by
  cases i <;> cases j <;> first | rfl | exact absurd rfl h

@[simp] theorem PerMaster.get_fill {α : Type} (x : α) (i : Master) : (PerMaster.fill x).get i = x := by
  cases i <;> rfl

@[simp] theorem PerMaster.get_modify {α : Type} (p : PerMaster α) (i : Master) (f : α → α) : (p.modify i f).get i = f (p.get i) := by
  simp [PerMaster.modify]

theorem PerMaster.get_modify_ne {α : Type} (p : PerMaster α) {i j : Master} (f : α → α) (h : j ≠ i) :
    (p.modify i f).get j = p.get j := PerMaster.get_set_ne p _ h

theorem PerMaster.get_set_if {α : Type} (p : PerMaster α) (i j : Master) (x : α) :
    (p.set i x).get j = if j = i then x else p.get j := by
  split
  · next h => subst h; simp
  · next h => exact PerMaster.get_set_ne p x h

@[simp] theorem PerClass.get_set {α : Type} (p : PerClass α) (i : Cls) (x : α) : (p.set i x).get i = x := by
  cases i <;> rfl

theorem PerClass.get_set_ne {α : Type} (p : PerClass α) {i j : Cls} (x : α) (h : j ≠ i) : (p.set i x).get j = p.get j := by
  cases i <;> cases j <;> first | rfl | exact absurd rfl h

@[simp] theorem PerClass.get_fill {α : Type} (x : α) (i : Cls) : (PerClass.fill x).get i = x := by
  cases i <;> rfl

@[simp] theorem PerClass.get_modify {α : Type} (p : PerClass α) (i : Cls) (f : α → α) : (p.modify i f).get i = f (p.get i) := by
  simp [PerClass.modify]

theorem PerClass.get_modify_ne {α : Type} (p : PerClass α) {i j : Cls} (f : α → α) (h : j ≠ i) :
    (p.modify i f).get j = p.get j := PerClass.get_set_ne p _ h

theorem PerClass.get_set_if {α : Type} (p : PerClass α) (i j : Cls) (x : α) :
    (p.set i x).get j = if j = i then x else p.get j := by
  split
  · next h => subst h; simp
  · next h => exact PerClass.get_set_ne p x h

@[simp] theorem PerKind.get_set {α : Type} (p : PerKind α) (i : EventKind) (x : α) : (p.set i x).get i = x := by
  cases i <;> rfl

theorem PerKind.get_set_ne {α : Type} (p : PerKind α) {i j : EventKind} (x : α) (h : j ≠ i) : (p.set i x).get j = p.get j := by
  cases i <;> cases j <;> first | rfl | exact absurd rfl h

@[simp] theorem PerKind.get_fill {α : Type} (x : α) (i : EventKind) : (PerKind.fill x).get i = x := by
  cases i <;> rfl

@[simp] theorem PerKind.get_modify {α : Type} (p : PerKind α) (i : EventKind) (f : α → α) : (p.modify i f).get i = f (p.get i) := by
  simp [PerKind.modify]

theorem PerKind.get_modify_ne {α : Type} (p : PerKind α) {i j : EventKind} (f : α → α) (h : j ≠ i) :
    (p.modify i f).get j = p.get j := PerKind.get_set_ne p _ h

theorem PerKind.get_set_if {α : Type} (p : PerKind α) (i j : EventKind) (x : α) :
    (p.set i x).get j = if j = i then x else p.get j := by
  split
  · next h => subst h; simp
  · next h => exact PerKind.get_set_ne p x h

end Sys2Proof.Machine
end

