-- ==== Sys2Proof/Laws/Fixed.lean ====
section
/-! SUPPORT. What the shared operations of an event leave alone: each has one lemma that says that it leaves `State.fixed`
(Frame.lean) as it was, or which field of it it writes. -/

set_option Elab.async false

namespace Sys2Proof.Machine

/-! ### The event record -/

@[simp] theorem Ev.of_st (s : State) : (Ev.of s).st = s := rfl
@[simp] theorem Ev.of_scan (s : State) : (Ev.of s).scan = PerGallery.fill false := rfl
@[simp] theorem Ev.of_out (s : State) : (Ev.of s).out = [] := rfl
@[simp] theorem Ev.on_st (e : Ev) (f : State → State) : (e.on f).st = f e.st := rfl
@[simp] theorem Ev.on_scan (e : Ev) (f : State → State) : (e.on f).scan = e.scan := rfl
@[simp] theorem Ev.on_out (e : Ev) (f : State → State) : (e.on f).out = e.out := rfl
@[simp] theorem Ev.send_st (e : Ev) (m : Master) (c : Nat) (b : List Byte) (p : Bool) : (e.send m c b p).st = e.st := rfl
@[simp] theorem Ev.send_scan (e : Ev) (m : Master) (c : Nat) (b : List Byte) (p : Bool) :
    (e.send m c b p).scan = e.scan := rfl
@[simp] theorem Ev.trigger_st (e : Ev) (g : Gallery) : (e.trigger g).st = e.st := by
  unfold Ev.trigger; split <;> rfl
@[simp] theorem Ev.trigger_out (e : Ev) (g : Gallery) : (e.trigger g).out = e.out := by
  unfold Ev.trigger; split <;> rfl
@[simp] theorem Ev.triggerBoth_st (e : Ev) : e.triggerBoth.st = e.st := by simp [Ev.triggerBoth]
@[simp] theorem Ev.triggerBoth_out (e : Ev) : e.triggerBoth.out = e.out := by simp [Ev.triggerBoth]

/-! ### Flags (Machine/Flags.lean) -/

/-- A latch for one master writes the latch sets and nothing else. -/
theorem Ev.latchFor_st (e : Ev) (m : Master) (k : EventKind) (ns : List Node) :
    (e.latchFor m k ns).st =
      { e.st with evu.latches := e.st.evu.latches.set m (latchInto (e.st.evu.latches.get m) k ns).1 } := by
  unfold Ev.latchFor
  dsimp only
  split
  · split <;> rfl
  · rfl

@[simp] theorem Ev.latchFor_scan (e : Ev) (m : Master) (k : EventKind) (ns : List Node) :
    (e.latchFor m k ns).scan = e.scan := by
  unfold Ev.latchFor
  dsimp only
  split
  · split <;> rfl
  · rfl

@[simp] theorem Ev.latch_scan (e : Ev) (k : EventKind) (ns : List Node) : (Ev.latch k ns e).scan = e.scan := by
  simp [Ev.latch]

/-- A latch writes the latch sets and nothing else. -/
theorem Ev.latch_st (e : Ev) (k : EventKind) (ns : List Node) :
    (Ev.latch k ns e).st = { e.st with evu.latches := (Ev.latch k ns e).st.evu.latches } := by
  simp [Ev.latch, Ev.latchFor_st]

@[simp] theorem Ev.latch_fixed (e : Ev) (k : EventKind) (ns : List Node) : (Ev.latch k ns e).st.fixed = e.st.fixed := by
  rw [Ev.latch_st]; rfl

@[simp] theorem State.beaconSync_fixed (s : State) : s.beaconSync.fixed = s.fixed := by
  unfold State.beaconSync; split
  · rfl
  · split <;> rfl
@[simp] theorem State.stepOpens_fixed (s : State) : s.stepOpens.fixed = s.fixed := by
  unfold State.stepOpens; rw [State.beaconSync_fixed]; rfl
@[simp] theorem State.stepCloses_fixed (s : State) : s.stepCloses.fixed = s.fixed := by
  unfold State.stepCloses; rw [State.beaconSync_fixed]; rfl

/-! ### Descriptors (Machine/Descriptors.lean) -/

@[simp] theorem State.modDesc_fixed (s : State) (id : Nat) (f : Desc → Desc) : (s.modDesc id f).fixed = s.fixed := rfl
@[simp] theorem State.putDesc_fixed (s : State) (d : Desc) : (s.putDesc d).fixed = s.fixed := rfl
@[simp] theorem State.unlink_fixed (s : State) (id : Nat) : (s.unlink id).fixed = s.fixed := rfl

@[simp] theorem Ev.completion_st (o : Origin) (d : Desc) (g : Nat) (x : Ending) (e : Ev) :
    (e.completion o d g x).st = e.st := by
  unfold Ev.completion; split <;> rfl
@[simp] theorem Ev.completion_scan (o : Origin) (d : Desc) (g : Nat) (x : Ending) (e : Ev) :
    (e.completion o d g x).scan = e.scan := by
  unfold Ev.completion; split <;> rfl
@[simp] theorem Ev.endReports_st (d : Desc) (x : Ending) (e : Ev) : (e.endReports d x).st = e.st := by
  unfold Ev.endReports; split
  · split <;> simp
  · simp
@[simp] theorem Ev.endReports_scan (d : Desc) (x : Ending) (e : Ev) : (e.endReports d x).scan = e.scan := by
  unfold Ev.endReports; split
  · split <;> simp
  · simp

@[simp] theorem Ev.testPoints_fixed (e : Ev) : e.testPoints.st.fixed = e.st.fixed := by
  unfold Ev.testPoints; dsimp only; split
  · rfl
  · simp; rfl
@[simp] theorem Ev.refuse_fixed (c : Cls) (ns : List Managed) (e : Ev) : (e.refuse c ns).st.fixed = e.st.fixed := by
  unfold Ev.refuse; rw [Ev.latch_fixed]; cases c <;> rfl
@[simp] theorem Ev.refusePoint_fixed (e : Ev) : e.refusePoint.st.fixed = e.st.fixed := by
  unfold Ev.refusePoint; rw [Ev.latch_fixed]; rfl

@[simp] theorem Tgu.overrides_modify (x : Tgu) (t : Tyre) (f : TyreRec → TyreRec) (h : ∀ r, (f r).override = r.override) :
    Tgu.overrides { x with tyres := x.tyres.modify t f } = x.overrides := by
  cases t <;> simp [Tgu.overrides, PerTyre.modify, PerTyre.set, PerTyre.get, h]

@[simp] theorem State.setTarget_fixed (s : State) (t : Tyre) (g : Nat) : (s.setTarget t g).fixed = s.fixed := by
  unfold State.setTarget State.fixed; simp
@[simp] theorem State.setTyreTimer_fixed (s : State) (t : Tyre) (x : Timer) : (s.setTyreTimer t x).fixed = s.fixed := by
  unfold State.setTyreTimer State.fixed; simp
@[simp] theorem State.setTyrePending_fixed (s : State) (t : Tyre) (b : Bool) : (s.setTyrePending t b).fixed = s.fixed := by
  unfold State.setTyrePending State.fixed; simp
@[simp] theorem State.tyreServed_fixed (s : State) (t : Tyre) : (s.tyreServed t).fixed = s.fixed := by
  unfold State.tyreServed State.fixed; simp
@[simp] theorem State.tyresServed_fixed (ms : List Managed) (s : State) : (s.tyresServed ms).fixed = s.fixed := by
  induction ms generalizing s with
  | nil => rfl
  | cons m r ih => unfold State.tyresServed; split <;> simp [ih]
@[simp] theorem State.becameLive_fixed (s : State) (a : Ask) : (s.becameLive a).fixed = s.fixed := by
  unfold State.becameLive; split <;> simp
  rfl

@[simp] theorem Ev.allocate_fixed (a : Ask) (e : Ev) : (e.allocate a).1.st.fixed = e.st.fixed := by
  unfold Ev.allocate; split
  · simp
  · split
    · simp
    · simp; rfl
@[simp] theorem Ev.placePoint_fixed (p q : FamilySet) (o : Origin) (e : Ev) : (e.placePoint p q o).1.st.fixed = e.st.fixed := by
  unfold Ev.placePoint; split
  · simp; rfl
  · simp
@[simp] theorem Ev.mergeQueued_fixed (d : Desc) (a : Ask) (e : Ev) : (e.mergeQueued d a).st.fixed = e.st.fixed := by
  unfold Ev.mergeQueued; dsimp only; split <;> simp
@[simp] theorem Ev.mergePending_fixed (d : Desc) (a : Ask) (e : Ev) : (e.mergePending d a).st.fixed = e.st.fixed := by
  unfold Ev.mergePending; dsimp only; split <;> simp
@[simp] theorem Ev.ask_fixed (a : Ask) (e : Ev) : (e.ask a).1.st.fixed = e.st.fixed := by
  unfold Ev.ask; split
  · split
    · simp
    · split <;> simp
  · simp
@[simp] theorem Ev.dropTransfer_fixed (d : Desc) (x : Ending) (e : Ev) : (e.dropTransfer d x).st.fixed = e.st.fixed := by
  unfold Ev.dropTransfer; simp; split <;> simp
@[simp] theorem Ev.unlinkTransfer_fixed (d : Desc) (x : Ending) (e : Ev) :
    (e.unlinkTransfer d x).st.fixed = e.st.fixed := by simp [Ev.unlinkTransfer]

/-! ### Targets (Machine/Targets.lean) -/

@[simp] theorem Ev.askTyre_fixed (t : Tyre) (e : Ev) : (e.askTyre t).st.fixed = e.st.fixed := by
  unfold Ev.askTyre; dsimp only; split <;> simp
@[simp] theorem Ev.retargeted_fixed (c : Cause) (t : Tyre) (o n : Nat) (e : Ev) :
    (e.retargeted c t o n).st.fixed = e.st.fixed := by
  unfold Ev.retargeted; split
  · simp
  · split <;> simp
@[simp] theorem Ev.recompute_fixed (c : Cause) (t : Tyre) (e : Ev) : (e.recompute c t).st.fixed = e.st.fixed := by
  unfold Ev.recompute; dsimp only; split
  · rfl
  · split <;> simp
@[simp] theorem Ev.recomputeList_fixed (c : Cause) (ts : List Tyre) (e : Ev) :
    (e.recomputeList c ts).st.fixed = e.st.fixed := by
  induction ts generalizing e with
  | nil => rfl
  | cons t r ih => unfold Ev.recomputeList; simp [ih]
@[simp] theorem Ev.recomputeAll_fixed (c : Cause) (e : Ev) : (e.recomputeAll c).st.fixed = e.st.fixed := by
  simp [Ev.recomputeAll]
@[simp] theorem Ev.loadFollow_fixed (ts : List Tyre) (e : Ev) : (e.loadFollow ts).st.fixed = e.st.fixed := by
  unfold Ev.loadFollow
  split
  · rfl
  · rw [Ev.recomputeList_fixed]; rfl
@[simp] theorem Ev.recomputeSide_fixed (sd : Side) (e : Ev) : (e.recomputeSide sd).st.fixed = e.st.fixed := by
  simp [Ev.recomputeSide]
@[simp] theorem State.tyreDeadbandTest_fixed (s : State) (t : Tyre) : (s.tyreDeadbandTest t).fixed = s.fixed := by
  unfold State.tyreDeadbandTest; dsimp only; split
  · rfl
  · split <;> simp
@[simp] theorem Ev.tyreLoop_fixed (t : Tyre) (e : Ev) : (e.tyreLoop t).st.fixed = e.st.fixed := by
  unfold Ev.tyreLoop; dsimp only; split
  · split
    · split <;> simp
    · rfl
    · simp
  · rfl
@[simp] theorem Ev.tyreExpiry_fixed (t : Tyre) (e : Ev) : (e.tyreExpiry t).st.fixed = e.st.fixed := by
  unfold Ev.tyreExpiry; dsimp only; split <;> simp

/-! ### Supervision (Machine/Supervision.lean) -/

@[simp] theorem State.resetMonitor_fixed (s : State) (w : Watched) : (s.resetMonitor w).fixed = s.fixed := rfl
@[simp] theorem State.resetMonitorOf_fixed (s : State) (n : Node) : (s.resetMonitorOf n).fixed = s.fixed := by
  unfold State.resetMonitorOf; split <;> simp
@[simp] theorem State.resetMonitors_fixed (ms : List Managed) (s : State) : (s.resetMonitors ms).fixed = s.fixed := by
  induction ms generalizing s with
  | nil => rfl
  | cons m r ih => unfold State.resetMonitors; simp [ih]
@[simp] theorem State.suspendMonitors_fixed (ms : List Managed) (s : State) : (s.suspendMonitors ms).fixed = s.fixed := by
  induction ms generalizing s with
  | nil => rfl
  | cons m r ih => unfold State.suspendMonitors; split <;> rw [ih]; rfl
@[simp] theorem Ev.monitorArrival_fixed (w : Watched) (e : Ev) : (e.monitorArrival w).st.fixed = e.st.fixed := by
  unfold Ev.monitorArrival; dsimp only; split
  · split
    · split
      · exact Ev.latch_fixed e _ _
      · rfl
    · rfl
  · rfl
@[simp] theorem State.snapshot_fixed (s : State) (w : Watched) : (s.snapshot w).fixed = s.fixed := rfl
@[simp] theorem Ev.windowEnd_fixed (w : Watched) (e : Ev) : (e.windowEnd w).st.fixed = e.st.fixed := by
  unfold Ev.windowEnd; dsimp only; split
  · refine Eq.trans (b := (ite _ (Ev.latch .leakSlow [w.node] e) e).st.fixed) rfl ?_
    split
    · split
      · exact Ev.latch_fixed e _ _
      · rfl
    · rfl
  · rfl
@[simp] theorem Ev.flagFault_fixed (n : Node) (e : Ev) : (e.flagFault n).st.fixed = e.st.fixed := by
  unfold Ev.flagFault; rw [Ev.latch_fixed]; simp; rfl

/-! ### Lift (Machine/Lift.lean) -/

@[simp] theorem Ev.setLift_fixed (x : LiftState) (e : Ev) : (e.setLift x).st.fixed = e.st.fixed := by
  unfold Ev.setLift; dsimp only; split
  · rfl
  · simp; split <;> rfl
@[simp] theorem State.liftTimerTest_fixed (s : State) : s.liftTimerTest.fixed = s.fixed := rfl
@[simp] theorem State.setAim_fixed (s : State) (b : Bool) : (s.setAim b).fixed = s.fixed := rfl
@[simp] theorem Ev.liftDecide_fixed (o : Origin) (e : Ev) : (e.liftDecide o).1.st.fixed = e.st.fixed := by
  unfold Ev.liftDecide; split
  · rfl
  · split
    · rfl
    · dsimp only; split <;> simp
@[simp] theorem Ev.liftAuto_fixed (e : Ev) : e.liftAuto.st.fixed = e.st.fixed := by simp [Ev.liftAuto]
@[simp] theorem Ev.aimTo_fixed (b : Bool) (e : Ev) : (e.aimTo b).st.fixed = e.st.fixed := by
  unfold Ev.aimTo; split <;> simp
@[simp] theorem Ev.overloadTest_fixed (e : Ev) : e.overloadTest.st.fixed = e.st.fixed := by
  unfold Ev.overloadTest; split <;> simp
@[simp] theorem Ev.liftStall_fixed (x : Ending) (e : Ev) : (e.liftStall x).st.fixed = e.st.fixed := by
  unfold Ev.liftStall; split <;> simp
@[simp] theorem Ev.liftFreed_fixed (x : Ending) (e : Ev) : (e.liftFreed x).st.fixed = e.st.fixed := by
  unfold Ev.liftFreed; dsimp only; split <;> simp
@[simp] theorem Ev.ownerFreed_fixed (d : Desc) (x : Ending) (e : Ev) : (e.ownerFreed d x).st.fixed = e.st.fixed := by
  unfold Ev.ownerFreed; split <;> simp
@[simp] theorem Ev.freeTransfer_fixed (d : Desc) (x : Ending) (e : Ev) : (e.freeTransfer d x).st.fixed = e.st.fixed := by
  simp [Ev.freeTransfer]
@[simp] theorem Ev.liftMode_fixed (m : Mode) (e : Ev) : (e.liftMode m).st.fixed = e.st.fixed := by
  unfold Ev.liftMode; cases m
  · dsimp only; split <;> simp
  · simp
  · simp

/-! ### Steps (Machine/Steps.lean) -/

@[simp] theorem State.modGallery_fixed (s : State) (g : Gallery) (f : GalleryRec → GalleryRec) :
    (s.modGallery g f).fixed = s.fixed := rfl
@[simp] theorem State.endStep_fixed (s : State) (g : Gallery) (r : EndReason) : (s.endStep g r).fixed = s.fixed := by
  unfold State.endStep; split
  · rfl
  · split <;> rfl
@[simp] theorem State.cutIf_fixed (s : State) (g : Gallery) (t : Desc → Bool) : (s.cutIf g t).fixed = s.fixed := by
  unfold State.cutIf; split
  · rfl
  · split <;> simp
@[simp] theorem State.cutBoth_fixed (s : State) (t : Desc → Bool) : (s.cutBoth t).fixed = s.fixed := by
  simp [State.cutBoth]
@[simp] theorem Ev.finishStep_fixed (g : Gallery) (e : Ev) : (e.finishStep g).st.fixed = e.st.fixed := by
  unfold Ev.finishStep; rw [Ev.trigger_st, Ev.on_st]; dsimp only; split
  · rfl
  · split
    · exact (State.resetMonitors_fixed _ _).trans rfl
    · exact (State.resetMonitors_fixed _ _).trans rfl
@[simp] theorem Ev.takeDown_fixed (b : TornBy) (d : Desc) (e : Ev) : (e.takeDown b d).1.st.fixed = e.st.fixed := by
  unfold Ev.takeDown; split <;> simp
@[simp] theorem Ev.tearDown_fixed (b : TornBy) (d : Desc) (e : Ev) : (e.tearDown b d).1.st.fixed = e.st.fixed := by
  unfold Ev.tearDown; split
  · rfl
  · split <;> simp
@[simp] theorem Ev.faultDown_fixed (d : Desc) (e : Ev) : (e.faultDown d).st.fixed = e.st.fixed := by
  unfold Ev.faultDown; dsimp only; split <;> simp
@[simp] theorem State.dropStepNode_fixed (s : State) (m : Managed) : (s.dropStepNode m).fixed = s.fixed := rfl
@[simp] theorem Ev.endSensor_fixed (g : Gallery) (n : Node) (e : Ev) : (e.endSensor g n).st.fixed = e.st.fixed := by
  unfold Ev.endSensor; simp
/-- Everything that the end test of a CROSS step can do (R86, R15): end the step, let it run on, or latch SENSOR_INVALID naming the bellows
of each side whose value is unordered. -/
theorem Ev.crossEnd_cases (g : Gallery) (l r : Option Nat) (near : Nat → Nat → Bool) (e : Ev) :
    (∃ a b, l = some a ∧ r = some b ∧ near a b = true ∧ e.crossEnd g l r near = e.on fun s => s.endStep g .balanced) ∨
    (∃ a b, l = some a ∧ r = some b ∧ near a b = false ∧ e.crossEnd g l r near = e) ∨
    ((l = none ∨ r = none) ∧ e.crossEnd g l r near =
      e.latch .sensorInvalid ((if l = none then [Node.bll] else []) ++ if r = none then [Node.blr] else [])) := by
  cases l <;> cases r
  case some.some a b =>
    cases h : near a b
    · exact .inr (.inl ⟨a, b, rfl, rfl, h, by simp [Ev.crossEnd, h]⟩)
    · exact .inl ⟨a, b, rfl, rfl, h, by simp [Ev.crossEnd, h]⟩
  all_goals exact .inr (.inr ⟨by simp, by simp [Ev.crossEnd]⟩)
@[simp] theorem Ev.crossEnd_fixed (g : Gallery) (l r : Option Nat) (near : Nat → Nat → Bool) (e : Ev) :
    (e.crossEnd g l r near).st.fixed = e.st.fixed := by
  obtain ⟨_, _, _, _, _, h⟩ | ⟨_, _, _, _, _, h⟩ | ⟨_, h⟩ := e.crossEnd_cases g l r near <;> simp [h]
@[simp] theorem Ev.pressureEnd_fixed (g : Gallery) (m : Managed) (e : Ev) : (e.pressureEnd g m).st.fixed = e.st.fixed := by
  unfold Ev.pressureEnd; split
  · rfl
  · split
    · split <;> first | simp | (split <;> simp)
    · rfl
@[simp] theorem Ev.floorTest_fixed (e : Ev) : e.floorTest.st.fixed = e.st.fixed := by
  unfold Ev.floorTest; split
  · rfl
  · split
    · split
      · split <;> simp
      · simp
    · rfl
@[simp] theorem State.sideReached_fixed (s : State) (g : Gallery) (sd : Side) : (s.sideReached g sd).fixed = s.fixed := by
  unfold State.sideReached; dsimp only; split
  · rw [State.endStep_fixed]; rfl
  · rfl
@[simp] theorem Ev.heightEnd_fixed (g : Gallery) (sd : Side) (e : Ev) : (e.heightEnd g sd).st.fixed = e.st.fixed := by
  unfold Ev.heightEnd; split
  · rfl
  · split
    · split
      · simp
      · simp
      · split <;> simp
    · rfl

/-! ### Height (Machine/Height.lean) -/

@[simp] theorem State.setHeightPending_fixed (s : State) (b : Bool) : (s.setHeightPending b).fixed = s.fixed := rfl
@[simp] theorem State.stopPersist_fixed (s : State) : s.stopPersist.fixed = s.fixed := rfl
@[simp] theorem Ev.immediateAsk_fixed (t : Nat) (o : Origin) (h : Bool) (e : Ev) :
    (e.immediateAsk t o h).1.st.fixed = e.st.fixed := by
  unfold Ev.immediateAsk; split
  · rfl
  · split
    · simp
    · split
      · simp
      · rfl
      · dsimp only; split <;> simp
@[simp] theorem Ev.loopAsk_fixed (k : StepKind) (e : Ev) : (e.loopAsk k).st.fixed = e.st.fixed := by simp [Ev.loopAsk]
@[simp] theorem State.heightDeadbandTest_fixed (s : State) : s.heightDeadbandTest.fixed = s.fixed := by
  unfold State.heightDeadbandTest; split
  · rfl
  · split <;> rfl
@[simp] theorem Ev.handleMark_fixed (e : Ev) : e.handleMark.st.fixed = e.st.fixed := by
  unfold Ev.handleMark; split <;> simp
@[simp] theorem Ev.heightHandOff_fixed (e : Ev) : e.heightHandOff.st.fixed = e.st.fixed := by
  unfold Ev.heightHandOff; split
  · rfl
  · rfl
  · split <;> simp
  · split <;> simp
@[simp] theorem Ev.heightExpiry_fixed (e : Ev) : e.heightExpiry.st.fixed = e.st.fixed := by
  unfold Ev.heightExpiry; dsimp only; split
  · split <;> simp
  · simp

/-- A retarget changes the height target and no other fixed field. -/
@[simp] theorem Ev.retarget_fixed (t : Nat) (h : Bool) (e : Ev) :
    (e.retarget t h).1.st.fixed = { e.st.fixed with target := t } := by
  unfold Ev.retarget; split
  · next h => rw [← h]; rfl
  · dsimp only; split <;> simp <;> rfl

/-- A lapse ends the panel's authority and changes no other fixed field. -/
theorem Ev.lapse_fixed (e : Ev) :
    e.lapse.st.fixed = if e.st.hlc.holder then { e.st.fixed with holder := false, authT := none } else e.st.fixed := by
  unfold Ev.lapse; split
  · rw [Ev.latch_fixed]; rfl
  · rfl

@[simp] theorem Ev.autoRideReturn_fixed (e : Ev) :
    e.autoRideReturn.st.fixed = { e.st.fixed with target := e.st.nominal } := by simp [Ev.autoRideReturn]

/-! ### Faults (Machine/Faults.lean) -/

@[simp] theorem Ev.addCause_fixed (x : Lockout) (e : Ev) : (e.addCause x).st.fixed = e.st.fixed := by
  unfold Ev.addCause; dsimp only; split
  · rfl
  · split
    · simp; rfl
    · simp; rfl
@[simp] theorem Ev.faultDescriptor_fixed (m : Managed) (e : Ev) : (e.faultDescriptor m).st.fixed = e.st.fixed := by
  unfold Ev.faultDescriptor; split <;> simp
@[simp] theorem Ev.faultOwner_fixed (m : Managed) (e : Ev) : (e.faultOwner m).st.fixed = e.st.fixed := by
  unfold Ev.faultOwner; split
  · split <;> simp
  · split <;> simp
  · simp
  · split <;> simp
@[simp] theorem Ev.faultNode_fixed (n : Node) (e : Ev) : (e.faultNode n).st.fixed = e.st.fixed := by
  unfold Ev.faultNode; dsimp only; split
  · rfl
  · split <;> simp
@[simp] theorem Ev.faultNodes_fixed (ms : List Managed) (e : Ev) : (Ev.faultNodes ms e).st.fixed = e.st.fixed := by
  induction ms generalizing e with
  | nil => rfl
  | cons m r ih => unfold Ev.faultNodes; simp [ih]
@[simp] theorem Ev.sensorFault_fixed (n : Node) (e : Ev) : (e.sensorFault n).st.fixed = e.st.fixed := by
  unfold Ev.sensorFault; split <;> simp
@[simp] theorem Ev.clearFault_fixed (n : Node) (e : Ev) : (e.clearFault n).st.fixed = e.st.fixed := by
  unfold Ev.clearFault; dsimp only; split
  · split
    · simp; rfl
    · simp; rfl
    · simp; rfl
    · simp; rfl
  · simp; rfl
@[simp] theorem Ev.clearFaults_fixed (ns : List Node) (e : Ev) : (Ev.clearFaults ns e).st.fixed = e.st.fixed := by
  induction ns generalizing e with
  | nil => rfl
  | cons m r ih => unfold Ev.clearFaults; simp [ih]

/-! ### Account (Machine/Account.lean) -/

@[simp] theorem Ev.fillQuery_fixed (d : Desc) (e : Ev) : (e.fillQuery d).1.st.fixed = e.st.fixed := by
  unfold Ev.fillQuery; dsimp only; split <;> simp
@[simp] theorem State.stopWindow_fixed (s : State) : s.stopWindow.fixed = s.fixed := rfl

/-- A decision on brake priority changes the flag and no other fixed field. -/
@[simp] theorem Ev.brakeDecision_fixed (e : Ev) :
    e.brakeDecision.st.fixed = { e.st.fixed with priority := e.st.nextPriority } := by
  unfold Ev.brakeDecision; dsimp only; split
  · next h => rw [h]; rfl
  · split <;> simp <;> rfl

/-! ### Galleries (Machine/Galleries.lean) -/

@[simp] theorem Ev.applyPending_fixed (d : Desc) (e : Ev) : (e.applyPending d).1.st.fixed = e.st.fixed := by
  unfold Ev.applyPending; split <;> simp
@[simp] theorem Ev.requeue_fixed (d : Desc) (e : Ev) : (e.requeue d).st.fixed = e.st.fixed := by simp [Ev.requeue]
@[simp] theorem Ev.judge_fixed (d : Desc) (e : Ev) : (e.judge d).st.fixed = e.st.fixed := by
  unfold Ev.judge; split
  · simp
  · split <;> simp
@[simp] theorem Ev.evaluate_fixed (id : Nat) (x : Option EndReason) (e : Ev) : (e.evaluate id x).st.fixed = e.st.fixed := by
  unfold Ev.evaluate; split
  · rfl
  · dsimp only; split
    · simp
    · split
      · simp
      · split
        · split <;> simp
        · simp
@[simp] theorem State.setWait_fixed (s : State) (id : Nat) (w : Wait) : (s.setWait id w).fixed = s.fixed := rfl
@[simp] theorem State.grant_fixed (s : State) (g : Gallery) (n : Nat) (d : Desc) (x : Option Nat) :
    (s.grant g n d x).fixed = s.fixed := by
  have mark : ∀ s' : State, State.fixed { s' with llu.heightStep := true } = s'.fixed := fun _ => rfl
  unfold State.grant; dsimp only
  split
  · rw [State.stepOpens_fixed]
    split
    · rw [mark, State.suspendMonitors_fixed]; split <;> rfl
    · rw [State.suspendMonitors_fixed]; split <;> rfl
  · split
    · rw [mark, State.suspendMonitors_fixed]; split <;> rfl
    · rw [State.suspendMonitors_fixed]; split <;> rfl
@[simp] theorem Ev.testOne_fixed (g : Gallery) (acc : Ev × List Candidate) (id : Nat) :
    (Ev.testOne g acc id).1.st.fixed = acc.1.st.fixed := by
  unfold Ev.testOne; dsimp only; split
  · rfl
  · split
    · split
      · simp
      · split
        · split <;> simp
        · simp
    · rfl
@[simp] theorem Ev.testAll_fixed (g : Gallery) (ids : List Nat) (acc : Ev × List Candidate) :
    (Ev.testAll g ids acc).1.st.fixed = acc.1.st.fixed := by
  induction ids generalizing acc with
  | nil => rfl
  | cons i r ih => unfold Ev.testAll; simp [ih]
@[simp] theorem State.passOver_fixed (s : State) (id : Nat) (cs : List Candidate) : (s.passOver id cs).fixed = s.fixed := by
  induction cs generalizing s with
  | nil => rfl
  | cons c r ih => unfold State.passOver; rw [ih]; split <;> simp
@[simp] theorem Ev.scanGallery_fixed (g : Gallery) (e : Ev) : (e.scanGallery g).st.fixed = e.st.fixed := by
  unfold Ev.scanGallery; split
  · dsimp only; split <;> simp
  · rfl
@[simp] theorem Ev.scans_fixed (n : Nat) (e : Ev) : (e.scans n).st.fixed = e.st.fixed := by
  induction n generalizing e with
  | zero => rfl
  | succ n ih =>
    unfold Ev.scans; split
    · simp [ih]
    · split
      · simp [ih]
      · rfl

/-! ### Vehicle (Machine/Vehicle.lean) -/

@[simp] theorem Ev.allocateHeld_fixed (a : Ask) (e : Ev) : (e.allocateHeld a).st.fixed = e.st.fixed := by
  unfold Ev.allocateHeld; dsimp only; split
  · simp
  · split <;> simp
  · simp
@[simp] theorem Ev.allocateAll_fixed (as : List Ask) (e : Ev) : (Ev.allocateAll as e).st.fixed = e.st.fixed := by
  induction as generalizing e with
  | nil => rfl
  | cons a r ih => unfold Ev.allocateAll; simp [ih]
@[simp] theorem Ev.basisAllocations_fixed (as : List Ask) (e : Ev) : (e.basisAllocations as).st.fixed = e.st.fixed := by
  simp [Ev.basisAllocations]
@[simp] theorem State.freezeTyres_fixed (s : State) : s.freezeTyres.fixed = s.fixed := rfl
@[simp] theorem Ev.holdUpdate_fixed (old : Vehicle) (e : Ev) : (e.holdUpdate old).st.fixed = e.st.fixed := by
  unfold Ev.holdUpdate; dsimp only; split <;> split <;> simp
@[simp] theorem Ev.brakingUpdate_fixed (old : Vehicle) (e : Ev) : (e.brakingUpdate old).st.fixed = e.st.fixed := by
  unfold Ev.brakingUpdate; split <;> simp

end Sys2Proof.Machine
end

