-- ==== Sys2Proof/Laws/Pool.lean ====
section
/-! SUPPORT. What the operations on the pool and the galleries do to the records as a whole. `Whole ex s` says that the pool is whole,
that every record is well shaped and named once, and that the steps in flight and the descriptors agree; `ex` is the descriptor, if
any, whose step has finished and which its evaluation has yet to free or requeue. `Quiet ex ex' s t` says that a change of state keeps
this and opens no valve: whatever moves air in t moved air in s. -/

set_option Elab.async false

namespace Sys2Proof.Machine

/-! ### Lookups -/

theorem State.findDesc_eq (s : State) (p : Desc → Bool) : s.findDesc p = s.transfers.find? p := by
  unfold State.findDesc State.transfers
  induction s.dqm.live with
  | nil => rfl
  | cons r l ih =>
    cases r with
    | transfer d =>
      by_cases h : p d = true
      · simp [LiveRec.desc, h]
      · simp [LiveRec.desc, h, ih]
    | point q => simpa [LiveRec.desc] using ih

theorem State.mem_of_findDesc {s : State} {p : Desc → Bool} {d : Desc} (h : s.findDesc p = some d) :
    d ∈ s.transfers ∧ p d = true := by
  rw [State.findDesc_eq] at h
  exact ⟨List.mem_of_find?_eq_some h, List.find?_some h⟩

theorem State.findDesc_none {s : State} {p : Desc → Bool} (h : s.findDesc p = none) :
    ∀ d ∈ s.transfers, p d = false := by
  rw [State.findDesc_eq, List.find?_eq_none] at h
  intro d hd
  simpa using h d hd

theorem State.mem_of_descAt {s : State} {id : Nat} {d : Desc} (h : s.descAt id = some d) :
    d ∈ s.transfers ∧ d.id = id := by
  have := State.mem_of_findDesc h
  exact ⟨this.1, by simpa using this.2⟩

theorem State.mem_transfers {s : State} {d : Desc} : d ∈ s.transfers ↔ LiveRec.transfer d ∈ s.dqm.live := by
  unfold State.transfers
  rw [List.mem_filterMap]
  constructor
  · rintro ⟨r, hr, h⟩
    cases r with
    | transfer e => simp only [LiveRec.desc, Option.some.injEq] at h; rwa [← h]
    | point q => simp [LiveRec.desc] at h
  · intro h; exact ⟨_, h, rfl⟩

theorem State.id_mem_liveIds {s : State} {d : Desc} (h : d ∈ s.transfers) : d.id ∈ s.liveIds := by
  rw [State.mem_transfers] at h
  exact List.mem_map.2 ⟨_, h, rfl⟩

/-! ### The invariant -/

/-- The pool, the records and the steps in flight agree, but for the descriptor `ex` under evaluation. -/
structure Whole (ex : Option Nat) (s : State) : Prop where
  pool : PoolWhole s
  nodes : NodesOnce s
  shaped : AllShaped s
  served : ∀ g f, (s.glc.galleries.get g).flight = some f →
    ∃ d ∈ s.transfers, d.id = f.id ∧ d.kind.gallery = g ∧ d.state ≠ .queued ∧ ex ≠ some d.id
  carried : ∀ d ∈ s.transfers, d.state ≠ .queued → ex ≠ some d.id →
    ∃ f, (s.glc.galleries.get d.kind.gallery).flight = some f ∧ f.id = d.id
  resting : ∀ d ∈ s.transfers, ex = some d.id → d.state.airMoves = false
  valves : ValvesServed s

theorem Whole.coupled {s : State} (w : Whole none s) : StepsCoupled s where
  served g f h := by
    obtain ⟨d, hd, hi, hg, hq, -⟩ := w.served g f h
    exact ⟨d, hd, hi, hg, hq⟩
  carried d hd hq := w.carried d hd hq (by simp)

theorem Whole.of_parts {s : State} (pool : PoolWhole s) (nodes : NodesOnce s) (shaped : AllShaped s) (c : StepsCoupled s)
    (valves : ValvesServed s) : Whole none s where
  pool := pool
  nodes := nodes
  shaped := shaped
  served g f h := by
    obtain ⟨d, hd, hi, hg, hq⟩ := c.served g f h
    exact ⟨d, hd, hi, hg, hq, by simp⟩
  carried d hd hq _ := c.carried d hd hq
  resting d hd h := by simp at h
  valves := valves

theorem PoolWhole.nodup {s : State} (h : PoolWhole s) : (s.dqm.free ++ s.liveIds).Nodup := by
  unfold PoolWhole at h
  exact h.nodup_iff.2 (by decide)

theorem PoolWhole.nodup_live {s : State} (h : PoolWhole s) : s.liveIds.Nodup := (List.nodup_append.1 h.nodup).2.1

theorem PoolWhole.unique_rec {s : State} (h : PoolWhole s) {q r : LiveRec} (hq : q ∈ s.dqm.live) (hr : r ∈ s.dqm.live)
    (e : q.id = r.id) : q = r := List.inj_on_of_nodup_map h.nodup_live hq hr e

theorem PoolWhole.unique {s : State} (h : PoolWhole s) {d e : Desc} (hd : d ∈ s.transfers) (he : e ∈ s.transfers)
    (hi : d.id = e.id) : d = e := by
  rw [State.mem_transfers] at hd he
  have := h.unique_rec hd he hi
  simpa using this

theorem Whole.unique {ex : Option Nat} {s : State} (w : Whole ex s) {d e : Desc} (hd : d ∈ s.transfers)
    (he : e ∈ s.transfers) (hi : d.id = e.id) : d = e := w.pool.unique hd he hi

theorem PoolWhole.descAt {s : State} (h : PoolWhole s) {d : Desc} (hd : d ∈ s.transfers) : s.descAt d.id = some d := by
  cases hx : s.descAt d.id with
  | none =>
    have := State.findDesc_none hx d hd
    simp at this
  | some e =>
    have := State.mem_of_descAt hx
    rw [h.unique this.1 hd this.2]

/-- The descriptor that a gallery serves. -/
theorem Whole.of_served {ex : Option Nat} {s : State} (w : Whole ex s) {g : Gallery} {d : Desc} (h : s.served g = some d) :
    d ∈ s.transfers ∧ d.kind.gallery = g ∧ d.state ≠ .queued ∧ ex ≠ some d.id ∧
      ∃ f, (s.glc.galleries.get g).flight = some f ∧ f.id = d.id := by
  unfold State.served at h
  cases hf : (s.glc.galleries.get g).flight with
  | none => simp [hf] at h
  | some f =>
    rw [hf] at h
    have hm := State.mem_of_descAt (by simpa using h : s.descAt f.id = some d)
    obtain ⟨e, he, hi, hg, hq, hx⟩ := w.served g f hf
    have := w.unique he hm.1 (hi.trans hm.2.symm)
    subst this
    exact ⟨he, hg, hq, hx, f, rfl, hi.symm⟩

/-- A descriptor in flight is the one its gallery serves. -/
theorem Whole.served_of {ex : Option Nat} {s : State} (w : Whole ex s) {d : Desc} (hd : d ∈ s.transfers)
    (hq : d.state ≠ .queued) (hx : ex ≠ some d.id) : s.served d.kind.gallery = some d := by
  obtain ⟨f, hf, hi⟩ := w.carried d hd hq hx
  unfold State.served
  rw [hf]
  simpa [hi] using w.pool.descAt hd

/-! ### Quiet changes -/

/-- What moves air in t moved air in s, under the same id, class and kind; and a gallery that is IDLE in s is IDLE in t. -/
structure AirFrom (s t : State) : Prop where
  air : ∀ d ∈ t.transfers, d.state.airMoves = true →
    ∃ d0 ∈ s.transfers, d0.state.airMoves = true ∧ d0.id = d.id ∧ d0.cls = d.cls ∧ d0.kind = d.kind
  idle : ∀ g, (s.glc.galleries.get g).flight = none → (t.glc.galleries.get g).flight = none

/-- A change that keeps the records whole, opens no valve and starts no step. -/
def Quiet (ex ex' : Option Nat) (s t : State) : Prop := Whole ex s → Whole ex' t ∧ AirFrom s t

theorem AirFrom.refl (s : State) : AirFrom s s := ⟨fun d hd ha => ⟨d, hd, ha, rfl, rfl, rfl⟩, fun _ h => h⟩

/-- The same transfers, and steps in flight only where there were some. -/
theorem AirFrom.of_eq {s t : State} (ht : t.transfers = s.transfers)
    (hi : ∀ g, (s.glc.galleries.get g).flight = none → (t.glc.galleries.get g).flight = none) : AirFrom s t where
  air := by rw [ht]; exact (AirFrom.refl s).air
  idle := hi

theorem AirFrom.trans {s t u : State} (h : AirFrom s t) (k : AirFrom t u) : AirFrom s u := by
  refine ⟨?_, fun g hg => k.idle g (h.idle g hg)⟩
  intro d hd ha
  obtain ⟨d1, h1, a1, i1, c1, k1⟩ := k.air d hd ha
  obtain ⟨d0, h0, a0, i0, c0, k0⟩ := h.air d1 h1 a1
  exact ⟨d0, h0, a0, i0.trans i1, c0.trans c1, k0.trans k1⟩

/-- Steps in flight are matched by id. -/
theorem idle_of_ids {s t : State}
    (h : ∀ g, ((t.glc.galleries.get g).flight.map Flight.id) = ((s.glc.galleries.get g).flight.map Flight.id)) (g : Gallery)
    (hs : (s.glc.galleries.get g).flight = none) : (t.glc.galleries.get g).flight = none := by
  have := h g
  rw [hs] at this
  simpa using this

theorem Quiet.refl (ex : Option Nat) (s : State) : Quiet ex ex s s := fun w => ⟨w, AirFrom.refl s⟩

theorem Quiet.trans {x y z : Option Nat} {s t u : State} (h : Quiet x y s t) (k : Quiet y z t u) : Quiet x z s u := by
  intro w
  obtain ⟨w1, a1⟩ := h w
  obtain ⟨w2, a2⟩ := k w1
  exact ⟨w2, a1.trans a2⟩

/-- A restriction that held of the air in s holds of it in t. -/
theorem AirFrom.still {s t : State} (h : AirFrom s t) {test : Desc → Bool}
    (ok : ∀ d e : Desc, d.cls = e.cls → d.kind = e.kind → test d = test e) (a : AirStill s test) : AirStill t test := by
  intro d hd ht
  by_contra hne
  have ha : d.state.airMoves = true := by simpa using hne
  obtain ⟨d0, h0, a0, -, c0, k0⟩ := h.air d hd ha
  have := a d0 h0 (by rw [ok d0 d c0 k0]; exact ht)
  rw [this] at a0
  exact absurd a0 (by decide)

/-- What the invariant reads of a state. -/
structure SameRecords (s t : State) : Prop where
  free : t.dqm.free = s.dqm.free
  live : t.dqm.live = s.dqm.live
  flight : ∀ g, ((t.glc.galleries.get g).flight.map Flight.id) = ((s.glc.galleries.get g).flight.map Flight.id)
  valves : t.glc.valves = s.glc.valves

theorem SameRecords.transfers {s t : State} (h : SameRecords s t) : t.transfers = s.transfers := by
  unfold State.transfers; rw [h.live]

theorem SameRecords.liveIds {s t : State} (h : SameRecords s t) : t.liveIds = s.liveIds := by
  unfold State.liveIds; rw [h.live]

theorem SameRecords.flight_some {s t : State} (h : SameRecords s t) {g : Gallery} {f : Flight}
    (hf : (t.glc.galleries.get g).flight = some f) : ∃ f', (s.glc.galleries.get g).flight = some f' ∧ f'.id = f.id := by
  have := h.flight g
  rw [hf] at this
  cases hs : (s.glc.galleries.get g).flight with
  | none => simp [hs] at this
  | some f' => exact ⟨f', rfl, by simpa [hs] using this.symm⟩

theorem SameRecords.symm {s t : State} (h : SameRecords s t) : SameRecords t s :=
  ⟨h.free.symm, h.live.symm, fun g => (h.flight g).symm, h.valves.symm⟩

theorem SameRecords.quiet {s t : State} (h : SameRecords s t) (ex : Option Nat) : Quiet ex ex s t := by
  intro w
  have ht := h.transfers
  refine ⟨⟨?_, ?_, ?_, ?_, ?_, ?_, ?_⟩, ?_⟩
  · unfold PoolWhole; rw [h.free, h.liveIds]; exact w.pool
  · unfold NodesOnce; rw [ht]; exact w.nodes
  · unfold AllShaped; rw [ht]; exact w.shaped
  · intro g f hf
    obtain ⟨f', hf', hi⟩ := h.flight_some hf
    rw [ht, ← hi]; exact w.served g f' hf'
  · intro d hd hq hx
    rw [ht] at hd
    obtain ⟨f, hf, hi⟩ := w.carried d hd hq hx
    obtain ⟨f', hf', hi'⟩ := h.symm.flight_some hf
    exact ⟨f', hf', hi'.trans hi⟩
  · rw [ht]; exact w.resting
  · intro g hg
    rw [h.valves] at hg
    rw [ht]; exact w.valves g hg
  · exact .of_eq ht (idle_of_ids h.flight)

/-- A change outside the descriptor manager and the gallery controller. -/
theorem Quiet.of_eq {s t : State} (hd : t.dqm = s.dqm) (hg : t.glc = s.glc) (ex : Option Nat) : Quiet ex ex s t :=
  SameRecords.quiet ⟨by rw [hd], by rw [hd], fun g => by rw [hg], by rw [hg]⟩ ex

/-! ### Changes of a record in its place -/

/-- A change of a descriptor that keeps its id, class, nodes and shape, and either leaves it QUEUED or keeps its kind, its being in
flight and whether its air moves. -/
structure Kin (d d' : Desc) : Prop where
  id : d'.id = d.id
  cls : d'.cls = d.cls
  nodes : d'.nodes = d.nodes
  shaped : d.Shaped → d'.Shaped
  phase : (d.state = .queued ∧ d'.state = .queued) ∨
    (d'.kind = d.kind ∧ d.state ≠ .queued ∧ d'.state ≠ .queued ∧ d'.state.airMoves = d.state.airMoves)

theorem Kin.refl (d : Desc) : Kin d d :=
  ⟨rfl, rfl, rfl, fun h => h, by by_cases h : d.state = .queued <;> simp [h]⟩

/-- A change of fields that no invariant reads. -/
theorem Kin.tame {d d' : Desc} (i : d'.id = d.id) (c : d'.cls = d.cls) (n : d'.nodes = d.nodes) (k : d'.kind = d.kind)
    (x : d'.state = d.state) : Kin d d' where
  id := i
  cls := c
  nodes := n
  shaped h := ⟨by rw [c, n]; exact h.names, by rw [c, k]; exact h.takes⟩
  phase := by by_cases h : d.state = .queued <;> simp [h, x, k]

/-- The records of t are those of s, each transfer changed by a function that keeps ids. -/
structure Mapped (s t : State) (h : Desc → Desc) : Prop where
  free : t.dqm.free = s.dqm.free
  ids : t.liveIds = s.liveIds
  transfers : t.transfers = s.transfers.map h

theorem Mapped.pool {s t : State} {h : Desc → Desc} (m : Mapped s t h) (w : PoolWhole s) : PoolWhole t := by
  unfold PoolWhole; rw [m.free, m.ids]; exact w

theorem Mapped.nodes {s t : State} {h : Desc → Desc} (m : Mapped s t h) (w : NodesOnce s)
    (n : ∀ d ∈ s.transfers, (h d).nodes = d.nodes) : NodesOnce t := by
  unfold NodesOnce; rw [m.transfers, List.pairwise_map]
  refine List.Pairwise.imp_of_mem ?_ w
  intro a b ha hb hab
  rw [n a ha, n b hb]; exact hab

theorem Mapped.mem {s t : State} {h : Desc → Desc} (m : Mapped s t h) {d : Desc} :
    d ∈ t.transfers ↔ ∃ d0 ∈ s.transfers, h d0 = d := by rw [m.transfers, List.mem_map]

/-- Records changed in their places by kin, the steps in flight and the valves as they were. -/
theorem Mapped.quiet {s t : State} {h : Desc → Desc} (m : Mapped s t h) (k : ∀ d ∈ s.transfers, Kin d (h d))
    (fl : ∀ g, ((t.glc.galleries.get g).flight.map Flight.id) = ((s.glc.galleries.get g).flight.map Flight.id))
    (va : t.glc.valves = s.glc.valves) (ex : Option Nat) : Quiet ex ex s t := by
  intro w
  have fls : ∀ g f, (t.glc.galleries.get g).flight = some f →
      ∃ f', (s.glc.galleries.get g).flight = some f' ∧ f'.id = f.id := by
    intro g f hf
    have := fl g
    rw [hf] at this
    cases hs : (s.glc.galleries.get g).flight with
    | none => simp [hs] at this
    | some f' => exact ⟨f', rfl, by simpa [hs] using this.symm⟩
  have flt : ∀ g f, (s.glc.galleries.get g).flight = some f →
      ∃ f', (t.glc.galleries.get g).flight = some f' ∧ f'.id = f.id := by
    intro g f hf
    have := fl g
    rw [hf] at this
    cases hs : (t.glc.galleries.get g).flight with
    | none => simp [hs] at this
    | some f' => exact ⟨f', rfl, by simpa [hs] using this⟩
  refine ⟨⟨m.pool w.pool, m.nodes w.nodes fun d hd => (k d hd).nodes, ?_, ?_, ?_, ?_, ?_⟩, ?_⟩
  · intro d hd
    obtain ⟨d0, h0, rfl⟩ := m.mem.1 hd
    exact (k d0 h0).shaped (w.shaped d0 h0)
  · intro g f hf
    obtain ⟨f', hf', hi⟩ := fls g f hf
    obtain ⟨d, hd, h1, h2, h3, h4⟩ := w.served g f' hf'
    have kd := k d hd
    rcases kd.phase with ⟨q, -⟩ | ⟨kk, -, q', -⟩
    · exact absurd q h3
    · exact ⟨h d, m.mem.2 ⟨d, hd, rfl⟩, by rw [kd.id, h1, hi], by rw [kk, h2], q', by rw [kd.id]; exact h4⟩
  · intro d hd hq hx
    obtain ⟨d0, h0, rfl⟩ := m.mem.1 hd
    have kd := k d0 h0
    rcases kd.phase with ⟨-, q⟩ | ⟨kk, q, -, -⟩
    · exact absurd q hq
    · obtain ⟨f, hf, hi⟩ := w.carried d0 h0 q (by rw [← kd.id]; exact hx)
      obtain ⟨f', hf', hi'⟩ := flt _ f hf
      exact ⟨f', by rw [kk]; exact hf', by rw [hi', hi, kd.id]⟩
  · intro d hd hx
    obtain ⟨d0, h0, rfl⟩ := m.mem.1 hd
    have kd := k d0 h0
    have r0 := w.resting d0 h0 (by rw [← kd.id]; exact hx)
    rcases kd.phase with ⟨-, q⟩ | ⟨-, -, -, a⟩
    · rw [q]; rfl
    · rw [a]; exact r0
  · intro g hg
    rw [va] at hg
    obtain ⟨d, hd, h1, h2⟩ := w.valves g hg
    have kd := k d hd
    rcases kd.phase with ⟨q, -⟩ | ⟨kk, -, -, a⟩
    · rw [q] at h2; exact absurd h2 (by decide)
    · exact ⟨h d, m.mem.2 ⟨d, hd, rfl⟩, by rw [kk, h1], by rw [a, h2]⟩
  · refine ⟨?_, idle_of_ids fl⟩
    intro d hd ha
    obtain ⟨d0, h0, rfl⟩ := m.mem.1 hd
    have kd := k d0 h0
    rcases kd.phase with ⟨-, q⟩ | ⟨kk, -, -, a⟩
    · rw [q] at ha; exact absurd ha (by decide)
    · exact ⟨d0, h0, by rw [← a]; exact ha, kd.id.symm, kd.cls.symm, kk.symm⟩

/-- The transfers after one record is changed. -/
theorem State.modDesc_transfers (s : State) (id : Nat) (f : Desc → Desc) :
    (s.modDesc id f).transfers = s.transfers.map fun d => if d.id = id then f d else d := by
  unfold State.transfers State.modDesc
  induction s.dqm.live with
  | nil => rfl
  | cons r l ih => cases r <;> simp only [List.map_cons, List.filterMap_cons, LiveRec.desc, ih]

theorem State.modDesc_liveIds (s : State) (id : Nat) (f : Desc → Desc)
    (k : ∀ d ∈ s.transfers, d.id = id → (f d).id = d.id) : (s.modDesc id f).liveIds = s.liveIds := by
  unfold State.liveIds State.modDesc
  simp only [List.map_map]
  refine List.map_congr_left ?_
  intro r hr
  cases r with
  | transfer d =>
    have hd : d ∈ s.transfers := State.mem_transfers.2 hr
    by_cases h : d.id = id
    · simp [LiveRec.id, h, k d hd h]
    · simp [LiveRec.id, h]
  | point p => rfl

theorem State.modDesc_mapped (s : State) (id : Nat) (f : Desc → Desc)
    (k : ∀ d ∈ s.transfers, d.id = id → (f d).id = d.id) :
    Mapped s (s.modDesc id f) fun d => if d.id = id then f d else d where
  free := rfl
  ids := State.modDesc_liveIds s id f k
  transfers := State.modDesc_transfers s id f

theorem quiet_modDesc (s : State) (id : Nat) (f : Desc → Desc) (ex : Option Nat)
    (k : ∀ d ∈ s.transfers, d.id = id → Kin d (f d)) : Quiet ex ex s (s.modDesc id f) := by
  refine (State.modDesc_mapped s id f fun d hd h => (k d hd h).id).quiet ?_ (fun _ => rfl) rfl ex
  intro d hd
  split
  · next h => exact k d hd h
  · exact Kin.refl d

/-- A live record rewritten by kin. -/
theorem quiet_putDesc (s : State) {d d' : Desc} (ex : Option Nat) (hd : d ∈ s.transfers) (k : Kin d d') :
    Quiet ex ex s (s.putDesc d') := by
  intro w
  refine quiet_modDesc s d'.id (fun _ => d') ex ?_ w
  intro e he hi
  rw [k.id] at hi
  rw [w.unique he hd hi]; exact k

end Sys2Proof.Machine
end

