-- ==== Sys2Proof/Laws/Records.lean ====
section
/-! SUPPORT. What each primitive change of the pool and of a gallery does to the records as a whole: a requeue, a freeing, the
retirement of points, an allocation, the end of a step, its finish, and a side that closes. -/

set_option Elab.async false

namespace Sys2Proof.Machine

/-! ### Requeue and freeing -/

/-- A descriptor under evaluation put back into QUEUED. -/
theorem quiet_requeued (s : State) {d d' : Desc} (hd : d ∈ s.transfers) (i : d'.id = d.id)
    (n : d'.nodes = d.nodes) (sh : d.Shaped → d'.Shaped) (q : d'.state = .queued) :
    Quiet (some d.id) none s (s.putDesc d') := by
  intro w
  have m : Mapped s (s.putDesc d') fun e => if e.id = d'.id then d' else e :=
    State.modDesc_mapped s d'.id (fun _ => d') fun e he h => h.symm
  have hone : ∀ e ∈ s.transfers, e.id = d'.id → e = d := fun e he h => w.unique he hd (h.trans i)
  refine ⟨⟨m.pool w.pool, m.nodes w.nodes ?_, ?_, ?_, ?_, ?_, ?_⟩, ?_⟩
  · intro e he
    split
    · next h => rw [hone e he h, n]
    · rfl
  · intro e he
    obtain ⟨e0, h0, rfl⟩ := m.mem.1 he
    split
    · exact sh (w.shaped d hd)
    · exact w.shaped e0 h0
  · intro g f hf
    obtain ⟨e, he, h1, h2, h3, h4⟩ := w.served g f hf
    have hne : e.id ≠ d'.id := by rw [i]; intro h; exact h4 (by rw [h])
    exact ⟨e, m.mem.2 ⟨e, he, by simp [hne]⟩, h1, h2, h3, by simp⟩
  · intro e he hq _
    obtain ⟨e0, h0, rfl⟩ := m.mem.1 he
    by_cases h : e0.id = d'.id
    · simp [h, q] at hq
    · simp only [h, if_false] at hq ⊢
      exact w.carried e0 h0 hq (by rw [i] at h; intro hx; exact h (by simpa using hx.symm))
  · intro e he hx; simp at hx
  · intro g hg
    obtain ⟨e, he, h1, h2⟩ := w.valves g hg
    have hne : e.id ≠ d'.id := by
      intro h
      have := w.resting e he (by rw [h, i])
      rw [this] at h2; exact absurd h2 (by decide)
    exact ⟨e, m.mem.2 ⟨e, he, by simp [hne]⟩, h1, h2⟩
  · refine ⟨?_, fun _ h => h⟩
    intro e he ha
    obtain ⟨e0, h0, rfl⟩ := m.mem.1 he
    by_cases h : e0.id = d'.id
    · simp [h, q, DescState.airMoves] at ha
    · simp only [h, if_false] at ha ⊢
      exact ⟨e0, h0, ha, rfl, rfl, rfl⟩

@[simp] theorem LiveRec.id_transfer (d : Desc) : (LiveRec.transfer d).id = d.id := rfl
@[simp] theorem LiveRec.id_point (p : Point) : (LiveRec.point p).id = p.id := rfl
@[simp] theorem LiveRec.desc_transfer (d : Desc) : (LiveRec.transfer d).desc = some d := rfl
@[simp] theorem LiveRec.desc_point (p : Point) : (LiveRec.point p).desc = none := rfl

theorem desc_filter_id (l : List LiveRec) (id : Nat) :
    (l.filter fun r => r.id != id).filterMap LiveRec.desc = (l.filterMap LiveRec.desc).filter fun d => d.id != id := by
  induction l with
  | nil => rfl
  | cons r l ih =>
    cases r with
    | transfer d => by_cases h : d.id = id <;> simp [h, List.filter_cons, ih]
    | point p => by_cases h : p.id = id <;> simp [h, List.filter_cons, List.filterMap_cons, ih]

theorem State.unlink_transfers (s : State) (id : Nat) :
    (s.unlink id).transfers = s.transfers.filter fun d => d.id != id := desc_filter_id s.dqm.live id

theorem State.unlink_liveIds (s : State) (id : Nat) : (s.unlink id).liveIds = s.liveIds.filter fun i => i != id := by
  unfold State.liveIds State.unlink
  rw [List.filter_map]
  rfl

theorem PoolWhole.unlink {s : State} (w : PoolWhole s) {id : Nat} (h : id ∈ s.liveIds) : PoolWhole (s.unlink id) := by
  unfold PoolWhole at *
  rw [State.unlink_liveIds]
  have e : s.liveIds.filter (fun i => i != id) = s.liveIds.erase id :=
    (List.Nodup.erase_eq_filter (PoolWhole.nodup_live w) id).symm
  rw [e]
  refine List.Perm.trans ?_ w
  show ((s.dqm.free ++ [id]) ++ s.liveIds.erase id).Perm _
  rw [List.append_assoc]
  exact List.Perm.append_left _ (List.perm_cons_erase h).symm

theorem State.mem_unlink {s : State} {id : Nat} {d : Desc} : d ∈ (s.unlink id).transfers ↔ d ∈ s.transfers ∧ d.id ≠ id := by
  rw [State.unlink_transfers, List.mem_filter]; simp

/-- A record that is a point or a QUEUED transfer leaves the live list. -/
theorem quiet_unlink (s : State) {id : Nat} (ex : Option Nat) (h : id ∈ s.liveIds)
    (q : ∀ d ∈ s.transfers, d.id = id → d.state = .queued) : Quiet ex ex s (s.unlink id) := by
  intro w
  refine ⟨⟨w.pool.unlink h, ?_, ?_, ?_, ?_, ?_, ?_⟩, ?_⟩
  · unfold NodesOnce; rw [State.unlink_transfers]; exact w.nodes.filter _
  · intro d hd; exact w.shaped d (State.mem_unlink.1 hd).1
  · intro g f hf
    obtain ⟨d, hd, h1, h2, h3, h4⟩ := w.served g f hf
    exact ⟨d, State.mem_unlink.2 ⟨hd, fun hi => h3 (q d hd hi)⟩, h1, h2, h3, h4⟩
  · intro d hd hq hx; exact w.carried d (State.mem_unlink.1 hd).1 hq hx
  · intro d hd hx; exact w.resting d (State.mem_unlink.1 hd).1 hx
  · intro g hg
    obtain ⟨d, hd, h1, h2⟩ := w.valves g hg
    refine ⟨d, State.mem_unlink.2 ⟨hd, fun hi => ?_⟩, h1, h2⟩
    rw [q d hd hi] at h2; exact absurd h2 (by decide)
  · exact ⟨fun d hd ha => ⟨d, (State.mem_unlink.1 hd).1, ha, rfl, rfl, rfl⟩, fun _ h => h⟩

/-- The descriptor under evaluation leaves the live list. -/
theorem quiet_unlink_ex (s : State) {id : Nat} (h : id ∈ s.liveIds) : Quiet (some id) none s (s.unlink id) := by
  intro w
  refine ⟨⟨w.pool.unlink h, ?_, ?_, ?_, ?_, ?_, ?_⟩, ?_⟩
  · unfold NodesOnce; rw [State.unlink_transfers]; exact w.nodes.filter _
  · intro d hd; exact w.shaped d (State.mem_unlink.1 hd).1
  · intro g f hf
    obtain ⟨d, hd, h1, h2, h3, h4⟩ := w.served g f hf
    exact ⟨d, State.mem_unlink.2 ⟨hd, fun hi => h4 (by rw [hi])⟩, h1, h2, h3, by simp⟩
  · intro d hd hq _
    obtain ⟨hm, hi⟩ := State.mem_unlink.1 hd
    exact w.carried d hm hq (by intro hx; exact hi (by simpa using hx.symm))
  · intro d hd hx; simp at hx
  · intro g hg
    obtain ⟨d, hd, h1, h2⟩ := w.valves g hg
    refine ⟨d, State.mem_unlink.2 ⟨hd, fun hi => ?_⟩, h1, h2⟩
    have := w.resting d hd (by rw [hi])
    rw [this] at h2; exact absurd h2 (by decide)
  · exact ⟨fun d hd ha => ⟨d, (State.mem_unlink.1 hd).1, ha, rfl, rfl, rfl⟩, fun _ h => h⟩

/-! ### Points -/

theorem retireWalk_transfers (a b : Bool) (l : List LiveRec) :
    (retireWalk a b l).1.filterMap LiveRec.desc = l.filterMap LiveRec.desc := by
  induction l generalizing a b with
  | nil => rfl
  | cons r l ih =>
    cases r with
    | transfer d => simp only [retireWalk, List.filterMap_cons, LiveRec.desc, ih]
    | point p =>
      simp only [retireWalk]
      split <;> simp only [List.filterMap_cons, LiveRec.desc, ih]

theorem retireWalk_perm (a b : Bool) (l : List LiveRec) :
    ((retireWalk a b l).2 ++ (retireWalk a b l).1.map LiveRec.id).Perm (l.map LiveRec.id) := by
  induction l generalizing a b with
  | nil => exact List.Perm.refl _
  | cons r l ih =>
    cases r with
    | transfer d =>
      simp only [retireWalk, List.map_cons]
      exact List.perm_middle.trans (List.Perm.cons _ (ih _ _))
    | point p =>
      simp only [retireWalk]
      split
      · simp only [List.map_cons]
        exact List.perm_middle.trans (List.Perm.cons _ (ih _ _))
      · simp only [List.map_cons, List.cons_append]
        exact List.Perm.cons _ (ih _ _)

theorem quiet_testPoints (e : Ev) (ex : Option Nat) : Quiet ex ex e.st e.testPoints.st := by
  unfold Ev.testPoints
  dsimp only
  split
  · exact Quiet.refl _ _
  · rw [Ev.triggerBoth_st, Ev.on_st]
    intro w
    generalize hk : retireWalk false false e.st.dqm.live = k
    have ht : State.transfers { e.st with dqm.live := k.1, dqm.free := e.st.dqm.free ++ k.2 } = e.st.transfers := by
      show k.1.filterMap LiveRec.desc = _
      rw [← hk]; exact retireWalk_transfers _ _ _
    refine ⟨⟨?_, ?_, ?_, ?_, ?_, ?_, ?_⟩, ?_⟩
    · have hp := retireWalk_perm false false e.st.dqm.live
      rw [hk] at hp
      show ((e.st.dqm.free ++ k.2) ++ k.1.map LiveRec.id).Perm _
      rw [List.append_assoc]
      exact (List.Perm.append_left _ hp).trans w.pool
    · unfold NodesOnce; rw [ht]; exact w.nodes
    · unfold AllShaped; rw [ht]; exact w.shaped
    · rw [ht]; exact w.served
    · rw [ht]; exact w.carried
    · rw [ht]; exact w.resting
    · unfold ValvesServed; rw [ht]; exact w.valves
    · exact .of_eq ht fun _ h => h

/-! ### Allocation -/

/-- A QUEUED record appended under the head of the free list. -/
theorem quiet_append (s : State) (d : Desc) (rest : List Nat) (ex : Option Nat) (hf : s.dqm.free = d.id :: rest)
    (sh : d.Shaped) (q : d.state = .queued) (new : ∀ e ∈ s.transfers, ∀ m ∈ e.nodes, m ∉ d.nodes) :
    Quiet ex ex s { s with dqm.free := rest, dqm.live := s.dqm.live ++ [.transfer d] } := by
  intro w
  have ht : State.transfers { s with dqm.free := rest, dqm.live := s.dqm.live ++ [.transfer d] } = s.transfers ++ [d] := by
    simp [State.transfers, List.filterMap_append, LiveRec.desc]
  have hm : ∀ e, e ∈ State.transfers { s with dqm.free := rest, dqm.live := s.dqm.live ++ [.transfer d] } ↔
      e ∈ s.transfers ∨ e = d := by intro e; rw [ht]; simp
  refine ⟨⟨?_, ?_, ?_, ?_, ?_, ?_, ?_⟩, ?_⟩
  · have hw : (s.dqm.free ++ s.liveIds).Perm _ := w.pool
    rw [hf] at hw
    refine List.Perm.trans ?_ hw
    show (rest ++ (s.dqm.live ++ [LiveRec.transfer d]).map LiveRec.id).Perm _
    rw [List.map_append, ← List.append_assoc]
    exact List.perm_append_singleton _ _
  · unfold NodesOnce
    rw [ht, List.pairwise_append]
    exact ⟨w.nodes, List.pairwise_singleton _ _, fun e he x hx => by
      rw [List.mem_singleton] at hx; subst hx; exact new e he⟩
  · intro e he
    rcases (hm e).1 he with h | rfl
    · exact w.shaped e h
    · exact sh
  · intro g f hfl
    obtain ⟨e, he, h⟩ := w.served g f hfl
    exact ⟨e, (hm e).2 (.inl he), h⟩
  · intro e he hq hx
    rcases (hm e).1 he with h | rfl
    · exact w.carried e h hq hx
    · exact absurd q hq
  · intro e he hx
    rcases (hm e).1 he with h | rfl
    · exact w.resting e h hx
    · rw [q]; rfl
  · intro g hg
    obtain ⟨e, he, h⟩ := w.valves g hg
    exact ⟨e, (hm e).2 (.inl he), h⟩
  · refine ⟨?_, fun _ h => h⟩
    intro e he ha
    rcases (hm e).1 he with h | rfl
    · exact ⟨e, h, ha, rfl, rfl, rfl⟩
    · rw [q] at ha; exact absurd ha (by decide)

/-- A point appended under the head of the free list. -/
theorem quiet_appendPoint (s : State) (p : Point) (rest : List Nat) (ex : Option Nat) (hf : s.dqm.free = p.id :: rest) :
    Quiet ex ex s { s with dqm.free := rest, dqm.live := s.dqm.live ++ [.point p] } := by
  intro w
  have ht : State.transfers { s with dqm.free := rest, dqm.live := s.dqm.live ++ [.point p] } = s.transfers := by
    simp [State.transfers, List.filterMap_append, LiveRec.desc]
  refine ⟨⟨?_, ?_, ?_, ?_, ?_, ?_, ?_⟩, ?_⟩
  · have hw : (s.dqm.free ++ s.liveIds).Perm _ := w.pool
    rw [hf] at hw
    refine List.Perm.trans ?_ hw
    show (rest ++ (s.dqm.live ++ [LiveRec.point p]).map LiveRec.id).Perm _
    rw [List.map_append, ← List.append_assoc]
    exact List.perm_append_singleton _ _
  · unfold NodesOnce; rw [ht]; exact w.nodes
  · unfold AllShaped; rw [ht]; exact w.shaped
  · rw [ht]; exact w.served
  · rw [ht]; exact w.carried
  · rw [ht]; exact w.resting
  · unfold ValvesServed; rw [ht]; exact w.valves
  · exact .of_eq ht fun _ h => h

/-! ### Steps -/

/-- A change of a gallery's record that leaves its step in flight. -/
theorem sameRecords_modGallery (s : State) (g : Gallery) (f : GalleryRec → GalleryRec)
    (h : ∀ x, ((f x).flight.map Flight.id) = (x.flight.map Flight.id)) : SameRecords s (s.modGallery g f) where
  free := rfl
  live := rfl
  flight g' := by
    simp only [State.modGallery, PerGallery.modify, PerGallery.get_set_if]
    split
    · next e => rw [e]; exact h _
    · rfl
  valves := rfl

theorem Valves.shut_same (v : Valves) (g : Gallery) : (v.shut g).anyOpen g = false := by
  cases g <;> simp [Valves.shut, Valves.anyOpen]

theorem Valves.shut_other (v : Valves) {g g' : Gallery} (h : g' ≠ g) : (v.shut g).anyOpen g' = v.anyOpen g' := by
  cases g <;> cases g' <;> first | rfl | exact absurd rfl h

/-- What the end of a step does, where it ends one. -/
theorem State.endStep_eq {s : State} {g : Gallery} {d : Desc} (r : EndReason) (h : s.served g = some d)
    (ha : d.state.airMoves = true) :
    s.endStep g r = (State.modGallery { s with glc.valves := s.glc.valves.shut g } g fun x =>
      { x with
        flight := x.flight.map fun f => { f with ending := some r }
        openT := none
        stepT := none
        closeT := s.timer closeTime }).modDesc d.id fun d => { d with state := .closing } := by
  unfold State.endStep; simp [h, ha]

theorem State.endStep_idle {s : State} {g : Gallery} (r : EndReason)
    (h : ∀ d, s.served g = some d → d.state.airMoves = false) : s.endStep g r = s := by
  unfold State.endStep
  cases hs : s.served g with
  | none => rfl
  | some d => simp [h d hs]

/-- The end of a step keeps the records whole; afterwards no air moves on that gallery. -/
theorem endStep_law (s : State) (g : Gallery) (r : EndReason) (ex : Option Nat) (w : Whole ex s) :
    Whole ex (s.endStep g r) ∧ AirFrom s (s.endStep g r) ∧
      (∀ d ∈ (s.endStep g r).transfers, d.kind.gallery = g → d.state.airMoves = false) := by
  by_cases hs : ∃ d, s.served g = some d ∧ d.state.airMoves = true
  · obtain ⟨d, hs, ha⟩ := hs
    obtain ⟨hd, hg, hq, hx, -⟩ := w.of_served hs
    rw [State.endStep_eq r hs ha]
    generalize hu : (State.modGallery { s with glc.valves := s.glc.valves.shut g } g fun x =>
      { x with
        flight := x.flight.map fun f => { f with ending := some r }
        openT := none
        stepT := none
        closeT := s.timer closeTime }) = u
    have ut : u.transfers = s.transfers := by rw [← hu]; rfl
    have ul : u.liveIds = s.liveIds := by rw [← hu]; rfl
    have uf : u.dqm.free = s.dqm.free := by rw [← hu]; rfl
    have uv : u.glc.valves = s.glc.valves.shut g := by rw [← hu]; rfl
    have ug : ∀ g', ((u.glc.galleries.get g').flight.map Flight.id) = ((s.glc.galleries.get g').flight.map Flight.id) := by
      intro g'
      have := (sameRecords_modGallery { s with glc.valves := s.glc.valves.shut g } g (fun x =>
        { x with
          flight := x.flight.map fun f => { f with ending := some r }
          openT := none
          stepT := none
          closeT := s.timer closeTime }) (by intro x; simp [Function.comp_def])).flight g'
      rw [← hu]; exact this
    have m : Mapped s (u.modDesc d.id fun d => { d with state := .closing })
        fun e => if e.id = d.id then { e with state := .closing } else e := by
      have m' := State.modDesc_mapped u d.id (fun d => { d with state := .closing }) (fun _ _ _ => rfl)
      exact ⟨m'.free.trans uf, m'.ids.trans ul, by rw [m'.transfers, ut]⟩
    have one : ∀ e ∈ s.transfers, e.id = d.id → e = d := fun e he h => w.unique he hd h
    have same : ∀ e ∈ s.transfers, e.kind.gallery = g → e.state.airMoves = true → e = d := by
      intro e he hge hae
      have hqe : e.state ≠ .queued := by intro h; rw [h] at hae; exact absurd hae (by decide)
      have hxe : ex ≠ some e.id := by
        intro h
        have := w.resting e he h
        rw [this] at hae; exact absurd hae (by decide)
      have := w.served_of he hqe hxe
      rw [hge, hs] at this
      simpa using this.symm
    refine ⟨⟨m.pool w.pool, m.nodes w.nodes ?_, ?_, ?_, ?_, ?_, ?_⟩, ?_, ?_⟩
    · intro e he; split <;> rfl
    · intro e he
      obtain ⟨e0, h0, rfl⟩ := m.mem.1 he
      split
      · exact ⟨(w.shaped e0 h0).names, (w.shaped e0 h0).takes⟩
      · exact w.shaped e0 h0
    · intro g' f hf
      have hfl := ug g'
      change ((u.glc.galleries.get g').flight) = some f at hf
      rw [hf] at hfl
      cases hsf : (s.glc.galleries.get g').flight with
      | none => simp [hsf] at hfl
      | some f' =>
        have hid : f.id = f'.id := by simpa [hsf] using hfl
        obtain ⟨e, he, h1, h2, h3, h4⟩ := w.served g' f' hsf
        refine ⟨_, m.mem.2 ⟨e, he, rfl⟩, ?_, ?_, ?_, ?_⟩
        · split <;> simpa [hid] using h1
        · split <;> exact h2
        · split
          · simp
          · exact h3
        · split <;> exact h4
    · intro e he hqe hxe
      obtain ⟨e0, h0, rfl⟩ := m.mem.1 he
      have hk : (if e0.id = d.id then { e0 with state := DescState.closing } else e0).kind = e0.kind := by split <;> rfl
      have hi : (if e0.id = d.id then { e0 with state := DescState.closing } else e0).id = e0.id := by split <;> rfl
      rw [hi] at hxe
      have hq0 : e0.state ≠ .queued := by
        by_cases h : e0.id = d.id
        · rw [one e0 h0 h]; exact hq
        · simpa [h] using hqe
      obtain ⟨f, hf, hfi⟩ := w.carried e0 h0 hq0 hxe
      have hfl := ug e0.kind.gallery
      rw [hf] at hfl
      rw [hk, hi]
      show ∃ f, (u.glc.galleries.get e0.kind.gallery).flight = some f ∧ f.id = e0.id
      cases huf : (u.glc.galleries.get e0.kind.gallery).flight with
      | none => simp [huf] at hfl
      | some f' => exact ⟨f', rfl, by rw [← hfi]; simpa [huf] using hfl⟩
    · intro e he hxe
      obtain ⟨e0, h0, rfl⟩ := m.mem.1 he
      by_cases h : e0.id = d.id
      · simp [h, DescState.airMoves]
      · simp only [h, if_false] at hxe ⊢
        exact w.resting e0 h0 hxe
    · intro g' hg'
      change (u.glc.valves.anyOpen g') = true at hg'
      rw [uv] at hg'
      by_cases hgg : g' = g
      · rw [hgg, Valves.shut_same] at hg'; exact absurd hg' (by decide)
      · rw [Valves.shut_other _ hgg] at hg'
        obtain ⟨e, he, h1, h2⟩ := w.valves g' hg'
        have hne : e.id ≠ d.id := by
          intro h; rw [one e he h, hg] at h1; exact hgg h1.symm
        exact ⟨e, m.mem.2 ⟨e, he, by simp [hne]⟩, h1, h2⟩
    · refine ⟨?_, idle_of_ids ug⟩
      intro e he hae
      obtain ⟨e0, h0, rfl⟩ := m.mem.1 he
      by_cases h : e0.id = d.id
      · simp [h, DescState.airMoves] at hae
      · simp only [h, if_false] at hae ⊢
        exact ⟨e0, h0, hae, rfl, rfl, rfl⟩
    · intro e he hge
      obtain ⟨e0, h0, rfl⟩ := m.mem.1 he
      by_cases h : e0.id = d.id
      · simp [h, DescState.airMoves]
      · simp only [h, if_false] at hge ⊢
        by_contra hne
        have : e0 = d := same e0 h0 hge (by simpa using hne)
        exact h (by rw [this])
  · have hn : ∀ d, s.served g = some d → d.state.airMoves = false := by
      intro d hd
      by_contra h
      exact hs ⟨d, hd, by simpa using h⟩
    rw [State.endStep_idle r hn]
    refine ⟨w, AirFrom.refl s, ?_⟩
    intro d hd hg
    by_contra h
    have ha : d.state.airMoves = true := by simpa using h
    have hq : d.state ≠ .queued := by intro h; rw [h] at ha; exact absurd ha (by decide)
    have hx : ex ≠ some d.id := by
      intro h'
      have := w.resting d hd h'
      rw [this] at ha; exact absurd ha (by decide)
    have := w.served_of hd hq hx
    rw [hg] at this
    exact hs ⟨d, this, ha⟩

theorem quiet_endStep (s : State) (g : Gallery) (r : EndReason) (ex : Option Nat) : Quiet ex ex s (s.endStep g r) :=
  fun w => ⟨(endStep_law s g r ex w).1, (endStep_law s g r ex w).2.1⟩

/-- The step in flight of a descriptor whose air does not move is removed; the descriptor is then under evaluation. -/
theorem quiet_landed (s t : State) (g : Gallery) {d : Desc} (hs : s.served g = some d) (ha : d.state.airMoves = false)
    (free : t.dqm.free = s.dqm.free) (live : t.dqm.live = s.dqm.live) (valves : t.glc.valves = s.glc.valves)
    (gone : (t.glc.galleries.get g).flight = none)
    (rest : ∀ g', g' ≠ g → (t.glc.galleries.get g').flight = (s.glc.galleries.get g').flight) :
    Quiet none (some d.id) s t := by
  intro w
  obtain ⟨hd, hg, hq, -, -⟩ := w.of_served hs
  have ht : t.transfers = s.transfers := by unfold State.transfers; rw [live]
  refine ⟨⟨?_, ?_, ?_, ?_, ?_, ?_, ?_⟩, ?_⟩
  · unfold PoolWhole State.liveIds; rw [free, live]; exact w.pool
  · unfold NodesOnce; rw [ht]; exact w.nodes
  · unfold AllShaped; rw [ht]; exact w.shaped
  · intro g' f hf
    by_cases h : g' = g
    · rw [h, gone] at hf; exact absurd hf (by simp)
    · rw [rest g' h] at hf
      obtain ⟨e, he, h1, h2, h3, -⟩ := w.served g' f hf
      refine ⟨e, by rw [ht]; exact he, h1, h2, h3, ?_⟩
      intro hx
      have : e = d := w.unique he hd (by simpa using hx.symm)
      rw [this, hg] at h2
      exact h h2.symm
  · intro e he hqe hx
    rw [ht] at he
    obtain ⟨f, hf, hi⟩ := w.carried e he hqe (by simp)
    by_cases h : e.kind.gallery = g
    · exfalso
      have := w.served_of he hqe (by simp)
      rw [h, hs] at this
      exact hx (by simpa using congrArg Desc.id (by simpa using this))
    · exact ⟨f, by rw [rest _ h]; exact hf, hi⟩
  · intro e he hx
    rw [ht] at he
    have : e = d := w.unique he hd (by simpa using hx.symm)
    rw [this]; exact ha
  · intro g' hg'
    rw [valves] at hg'
    rw [ht]; exact w.valves g' hg'
  · refine .of_eq ht ?_
    intro g' hg'
    by_cases h : g' = g
    · rw [h]; exact gone
    · rw [rest g' h]; exact hg'

/-- Valves that only close. -/
theorem quiet_valves (s : State) (v : Valves) (ex : Option Nat) (h : ∀ g, v.anyOpen g = true → s.glc.valves.anyOpen g = true) :
    Quiet ex ex s { s with glc.valves := v } := by
  intro w
  exact ⟨⟨w.pool, w.nodes, w.shaped, w.served, w.carried, w.resting, fun g hg => w.valves g (h g hg)⟩,
    .of_eq rfl fun _ h => h⟩

theorem PerManaged.set_fill_false (p : PerManaged Bool) (m : Managed) (h : (p.set m false) ≠ PerManaged.fill false) :
    p ≠ PerManaged.fill false := by
  intro e; subst e; exact h (by cases m <;> rfl)

/-- A node valve that closes opens none. -/
theorem Valves.setNode_false (v : Valves) (g : Gallery) (m : Managed) (g' : Gallery)
    (h : (v.setNode g m false).anyOpen g' = true) : v.anyOpen g' = true := by
  cases g <;> cases g' <;> simp only [Valves.setNode, Valves.anyOpen, Bool.or_eq_true, bne_iff_ne] at h ⊢
  · exact h.imp_right (PerManaged.set_fill_false _ _)
  · exact h
  · exact h
  · exact h.imp_right (PerManaged.set_fill_false _ _)

end Sys2Proof.Machine
end

