-- ==== Sys2Proof/Laws/Quiet.lean ====
section
/-! SUPPORT. The shared operations of an event keep the records whole and open no valve (`Quiet`): one lemma for each operation. Only
the grant, in the scans that end an event, opens valves (Laws/Scans.lean). -/

set_option Elab.async false

namespace Sys2Proof.Machine

/-! ### Changes outside the records -/

theorem SameRecords.refl (s : State) : SameRecords s s := ⟨rfl, rfl, fun _ => rfl, rfl⟩

theorem SameRecords.trans {s t u : State} (h : SameRecords s t) (k : SameRecords t u) : SameRecords s u :=
  ⟨k.free.trans h.free, k.live.trans h.live, fun g => (k.flight g).trans (h.flight g), k.valves.trans h.valves⟩

/-- A change outside the descriptor manager and the gallery controller. -/
theorem SameRecords.aside {s t : State} (hd : t.dqm = s.dqm := by rfl) (hg : t.glc = s.glc := by rfl) : SameRecords s t :=
  ⟨by rw [hd], by rw [hd], fun g => by rw [hg], by rw [hg]⟩

theorem quiet_aside {s t : State} (ex : Option Nat) (hd : t.dqm = s.dqm := by rfl) (hg : t.glc = s.glc := by rfl) :
    Quiet ex ex s t := (SameRecords.aside hd hg).quiet ex

theorem same_latch (e : Ev) (k : EventKind) (ns : List Node) : SameRecords e.st (Ev.latch k ns e).st := by
  rw [Ev.latch_st]; exact .aside

theorem quiet_latch (e : Ev) (k : EventKind) (ns : List Node) (ex : Option Nat) :
    Quiet ex ex e.st (Ev.latch k ns e).st := (same_latch e k ns).quiet ex

theorem same_beaconSync (s : State) : SameRecords s s.beaconSync := by
  unfold State.beaconSync; split
  · exact .aside
  · split <;> exact .aside

theorem same_stepOpens (s : State) : SameRecords s s.stepOpens :=
  (SameRecords.aside : SameRecords s { s with evu.activeSteps := s.evu.activeSteps + 1 }).trans (same_beaconSync _)

theorem same_stepCloses (s : State) : SameRecords s s.stepCloses :=
  (SameRecords.aside : SameRecords s { s with evu.activeSteps := s.evu.activeSteps - 1 }).trans (same_beaconSync _)

theorem same_tyresServed (ms : List Managed) (s : State) : SameRecords s (s.tyresServed ms) := by
  induction ms generalizing s with
  | nil => exact .refl s
  | cons m r ih =>
    unfold State.tyresServed; split
    · next t _ => exact (SameRecords.aside : SameRecords s (s.tyreServed t)).trans (ih _)
    · exact ih s

theorem same_becameLive (s : State) (a : Ask) : SameRecords s (s.becameLive a) := by
  unfold State.becameLive; split
  · exact same_tyresServed _ s
  · exact .aside
  · exact .refl s

theorem same_resetMonitorOf (s : State) (n : Node) : SameRecords s (s.resetMonitorOf n) := by
  unfold State.resetMonitorOf; split
  · exact .aside
  · exact .refl s

theorem same_resetMonitors (ms : List Managed) (s : State) : SameRecords s (s.resetMonitors ms) := by
  induction ms generalizing s with
  | nil => exact .refl s
  | cons m r ih => exact (same_resetMonitorOf s m.node).trans (ih _)

theorem same_suspendMonitors (ms : List Managed) (s : State) : SameRecords s (s.suspendMonitors ms) := by
  induction ms generalizing s with
  | nil => exact .refl s
  | cons m r ih =>
    unfold State.suspendMonitors; split
    · exact (SameRecords.aside).trans (ih _)
    · exact ih s

theorem same_tyreDeadbandTest (s : State) (t : Tyre) : SameRecords s (s.tyreDeadbandTest t) := by
  unfold State.tyreDeadbandTest; dsimp only; split
  · exact .refl s
  · split <;> exact .aside

theorem same_heightDeadbandTest (s : State) : SameRecords s s.heightDeadbandTest := by
  unfold State.heightDeadbandTest; split
  · exact .aside
  · split
    · exact .aside
    · exact .refl s

theorem same_refuse (c : Cls) (ns : List Managed) (e : Ev) : SameRecords e.st (e.refuse c ns).st := by
  unfold Ev.refuse
  refine SameRecords.trans ?_ (same_latch _ _ _)
  rw [Ev.on_st]
  cases c <;> exact ⟨rfl, rfl, fun _ => rfl, rfl⟩

theorem same_refusePoint (e : Ev) : SameRecords e.st e.refusePoint.st := by
  unfold Ev.refusePoint
  refine SameRecords.trans ?_ (same_latch _ _ _)
  exact ⟨rfl, rfl, fun _ => rfl, rfl⟩

theorem same_flagFault (n : Node) (e : Ev) : SameRecords e.st (e.flagFault n).st := by
  unfold Ev.flagFault
  refine SameRecords.trans ?_ (same_latch _ _ _)
  rw [Ev.on_st]
  exact (SameRecords.aside : SameRecords e.st { e.st with spu.faults := e.st.spu.faults.set n true }).trans
    (same_resetMonitorOf _ _)

theorem same_monitorArrival (w : Watched) (e : Ev) : SameRecords e.st (e.monitorArrival w).st := by
  unfold Ev.monitorArrival; dsimp only; split
  · split
    · split
      · exact (same_latch e _ _).trans (.aside)
      · exact .refl _
    · exact .aside
  · exact .refl _

theorem same_windowEnd (w : Watched) (e : Ev) : SameRecords e.st (e.windowEnd w).st := by
  unfold Ev.windowEnd; dsimp only; split
  · refine SameRecords.trans (t := (ite _ (Ev.latch .leakSlow [w.node] e) e).st) ?_ (.aside)
    split
    · split
      · exact same_latch e _ _
      · exact .refl _
    · exact .refl _
  · exact .aside

theorem same_dropStepNode (s : State) (m : Managed) : SameRecords s (s.dropStepNode m) := by
  unfold State.dropStepNode
  refine (sameRecords_modGallery s .a _ ?_).trans (sameRecords_modGallery _ .b _ ?_) <;>
    intro x <;> simp [Function.comp_def]

theorem same_lapse (e : Ev) : SameRecords e.st e.lapse.st := by
  unfold Ev.lapse; split
  · exact (SameRecords.aside).trans (same_latch _ _ _)
  · exact .refl _

/-! ### Asks (Machine/Descriptors.lean) -/

/-- An ask names the nodes of its class and has a kind of its class. -/
structure Ask.Shaped (a : Ask) : Prop where
  names : a.cls.names a.nodes
  takes : a.cls.takes a.kind

/-- Two node lists of classes that share a node are one list of one class. -/
theorem Cls.names_share {c d : Cls} {ns ms : List Managed} (h : c.names ns) (k : d.names ms) {m : Managed} (hn : m ∈ ns)
    (hm : m ∈ ms) : c = d ∧ ns = ms := by
  cases c <;> cases d <;> simp only [Cls.names] at h k
  case height.height => exact ⟨rfl, h.trans k.symm⟩
  case lift.lift => exact ⟨rfl, h.trans k.symm⟩
  case tyre.tyre =>
    obtain ⟨t, rfl⟩ := h
    obtain ⟨u, rfl⟩ := k
    rw [List.mem_singleton] at hn hm
    exact ⟨rfl, by rw [← hn, ← hm]⟩
  case height.lift => subst h k; simp at hn hm; subst hm; simp at hn
  case lift.height => subst h k; simp at hn hm; subst hn; simp at hm
  case height.tyre => obtain ⟨u, rfl⟩ := k; subst h; simp at hn hm; subst hm; cases u <;> simp [Tyre.managed] at hn
  case tyre.height => obtain ⟨u, rfl⟩ := h; subst k; simp at hn hm; subst hn; cases u <;> simp [Tyre.managed] at hm
  case lift.tyre => obtain ⟨u, rfl⟩ := k; subst h; simp at hn hm; subst hm; cases u <;> simp [Tyre.managed] at hn
  case tyre.lift => obtain ⟨u, rfl⟩ := h; subst k; simp at hn hm; subst hn; cases u <;> simp [Tyre.managed] at hm

theorem State.descSharing_some {s : State} {ns : List Managed} {d : Desc} (h : s.descSharing ns = some d) :
    d ∈ s.transfers ∧ ∃ m ∈ d.nodes, m ∈ ns := by
  have := State.mem_of_findDesc h
  exact ⟨this.1, by simpa using this.2⟩

theorem State.descSharing_none {s : State} {ns : List Managed} (h : s.descSharing ns = none) :
    ∀ d ∈ s.transfers, ∀ m ∈ d.nodes, m ∉ ns := by
  intro d hd
  have := State.findDesc_none h d hd
  simpa using this

theorem Ask.record_shaped {a : Ask} (h : a.Shaped) (id n : Nat) : (a.record id n).Shaped := ⟨h.names, h.takes⟩

theorem quiet_allocate (a : Ask) (e : Ev) (ex : Option Nat) (sh : a.Shaped)
    (new : ∀ d ∈ e.st.transfers, ∀ m ∈ d.nodes, m ∉ a.nodes) : Quiet ex ex e.st (e.allocate a).1.st := by
  unfold Ev.allocate
  split
  · exact (same_refuse _ _ _).quiet _
  · next id rest hf =>
    split
    · exact (same_refuse _ _ _).quiet _
    · rw [Ev.triggerBoth_st, Ev.on_st]
      exact (quiet_append e.st (a.record id (e.st.ws.maxSteps.get a.cls)) rest ex hf (Ask.record_shaped sh _ _) rfl new).trans
        ((same_becameLive _ _).quiet _)

theorem quiet_placePoint (p q : FamilySet) (o : Origin) (e : Ev) (ex : Option Nat) :
    Quiet ex ex e.st (e.placePoint p q o).1.st := by
  unfold Ev.placePoint
  split
  · next id second rest hf =>
    dsimp only
    refine Quiet.trans ?_ (quiet_testPoints _ ex)
    exact quiet_appendPoint e.st { id := id, pred := p, succ := q, origin := o } (second :: rest) ex hf
  · exact (same_refusePoint _).quiet _

theorem quiet_mergeQueued (d : Desc) (a : Ask) (e : Ev) (ex : Option Nat) (hd : d ∈ e.st.transfers)
    (q : d.state = .queued) (tk : d.cls.takes a.kind) : Quiet ex ex e.st (e.mergeQueued d a).st := by
  have h1 : ∀ e' : Ev, e'.st = e.st → Quiet ex ex e.st (e'.on fun s => s.putDesc { d with
      goal := a.goal, origin := a.origin, kind := a.kind, stepsLeft := s.ws.maxSteps.get d.cls,
      noProgress := 0, wait := .clear }).st := by
    intro e' he
    rw [Ev.on_st, he]
    exact quiet_putDesc e.st ex hd
      { id := rfl, cls := rfl, nodes := rfl, shaped := fun h => ⟨h.names, tk⟩, phase := .inl ⟨q, q⟩ }
  unfold Ev.mergeQueued
  dsimp only
  rw [Ev.triggerBoth_st]
  split
  · exact h1 _ (Ev.completion_st _ _ _ _ _)
  · exact (h1 _ (Ev.completion_st _ _ _ _ _)).trans (quiet_testPoints _ _)

theorem quiet_mergePending (d : Desc) (a : Ask) (e : Ev) (ex : Option Nat) (hd : d ∈ e.st.transfers) :
    Quiet ex ex e.st (e.mergePending d a).st := by
  have h1 : ∀ e' : Ev, e'.st = e.st →
      Quiet ex ex e.st (e'.on fun s => s.putDesc { d with pending := some ⟨a.goal, a.origin, s.ws.maxSteps.get d.cls⟩ }).st := by
    intro e' he
    rw [Ev.on_st, he]
    exact quiet_putDesc e.st ex hd (Kin.tame rfl rfl rfl rfl rfl)
  unfold Ev.mergePending
  dsimp only
  split
  · exact h1 _ (Ev.completion_st _ _ _ _ _)
  · exact h1 _ rfl

theorem quiet_ask (a : Ask) (e : Ev) (ex : Option Nat) (sh : a.Shaped) : Quiet ex ex e.st (e.ask a).1.st := by
  unfold Ev.ask
  split
  · next d hd =>
    obtain ⟨hm, m, h1, h2⟩ := State.descSharing_some hd
    split
    · exact (same_refuse _ _ _).quiet _
    · split
      · next q =>
        intro w
        obtain ⟨hc, -⟩ := Cls.names_share (w.shaped d hm).names sh.names h1 h2
        exact quiet_mergeQueued d a e ex hm q (by rw [hc]; exact sh.takes) w
      · exact quiet_mergePending d a e ex hm
  · next hn => exact quiet_allocate a e ex sh (State.descSharing_none hn)

theorem quiet_dropTransfer_queued (d : Desc) (x : Ending) (e : Ev) (ex : Option Nat) (hd : d ∈ e.st.transfers)
    (q : d.state = .queued) : Quiet ex ex e.st (e.dropTransfer d x).st := by
  unfold Ev.dropTransfer
  rw [Ev.on_st]
  have : (if x = .torn then e else e.endReports d x).st = e.st := by split <;> simp
  rw [this]
  intro w
  exact quiet_unlink e.st ex (State.id_mem_liveIds hd) (fun c hc hi => by rw [w.unique hc hd hi]; exact q) w

theorem quiet_dropTransfer_ex (d : Desc) (x : Ending) (e : Ev) (hd : ∃ d0 ∈ e.st.transfers, d0.id = d.id) :
    Quiet (some d.id) none e.st (e.dropTransfer d x).st := by
  unfold Ev.dropTransfer
  rw [Ev.on_st]
  have : (if x = .torn then e else e.endReports d x).st = e.st := by split <;> simp
  rw [this]
  obtain ⟨d0, h0, hi⟩ := hd
  exact quiet_unlink_ex e.st (by rw [← hi]; exact State.id_mem_liveIds h0)

/-! ### Targets (Machine/Targets.lean) -/

theorem tyreKind_takes (r : Option Nat) (g : Nat) : Cls.tyre.takes (tyreKind r g) := by
  unfold tyreKind
  split
  · exact .inr rfl
  · exact .inl rfl

theorem tyreAsk_shaped (s : State) (t : Tyre) (g : Nat) (o : Origin) : (s.tyreAsk t g o).Shaped :=
  ⟨⟨t, rfl⟩, tyreKind_takes _ _⟩

theorem quiet_askTyre (t : Tyre) (e : Ev) (ex : Option Nat) : Quiet ex ex e.st (e.askTyre t).st := by
  have h := quiet_ask (e.st.tyreAsk t (e.st.tgu.tyres.get t).target .auto) e ex (tyreAsk_shaped _ _ _ _)
  unfold Ev.askTyre
  dsimp only
  split
  · exact h.trans (quiet_aside _)
  · exact h

theorem quiet_retargeted (c : Cause) (t : Tyre) (o n : Nat) (e : Ev) (ex : Option Nat) :
    Quiet ex ex e.st (e.retargeted c t o n).st := by
  unfold Ev.retargeted
  split
  · exact quiet_askTyre t e ex
  · split
    · exact (quiet_aside ex).trans (quiet_askTyre t _ ex)
    · exact .refl _ _

theorem quiet_recompute (c : Cause) (t : Tyre) (e : Ev) (ex : Option Nat) : Quiet ex ex e.st (e.recompute c t).st := by
  unfold Ev.recompute
  dsimp only
  split
  · exact .refl _ _
  · split
    · exact (quiet_aside ex).trans (quiet_retargeted c t _ _ _ ex)
    · exact .refl _ _

theorem quiet_recomputeList (c : Cause) (ts : List Tyre) (e : Ev) (ex : Option Nat) :
    Quiet ex ex e.st (e.recomputeList c ts).st := by
  induction ts generalizing e with
  | nil => exact .refl _ _
  | cons t r ih => exact (quiet_recompute c t e ex).trans (ih _)

theorem quiet_recomputeAll (c : Cause) (e : Ev) (ex : Option Nat) : Quiet ex ex e.st (e.recomputeAll c).st :=
  quiet_recomputeList c _ e ex

theorem quiet_loadFollow (ts : List Tyre) (e : Ev) (ex : Option Nat) : Quiet ex ex e.st (e.loadFollow ts).st := by
  unfold Ev.loadFollow
  split
  · exact .refl _ _
  · exact (quiet_aside ex).trans (quiet_recomputeList _ _ _ ex)

theorem quiet_recomputeSide (sd : Side) (e : Ev) (ex : Option Nat) : Quiet ex ex e.st (e.recomputeSide sd).st :=
  quiet_loadFollow _ e ex

theorem quiet_tyreLoop (t : Tyre) (e : Ev) (ex : Option Nat) : Quiet ex ex e.st (e.tyreLoop t).st := by
  unfold Ev.tyreLoop
  dsimp only
  split
  · split
    · split
      · refine SameRecords.quiet (SameRecords.trans ?_ (same_tyreDeadbandTest _ t)) ex
        exact .aside
      · exact quiet_askTyre t e ex
    · exact .refl _ _
    · exact (same_tyreDeadbandTest _ t).quiet ex
  · exact .refl _ _

theorem quiet_tyreExpiry (t : Tyre) (e : Ev) (ex : Option Nat) : Quiet ex ex e.st (e.tyreExpiry t).st := by
  unfold Ev.tyreExpiry
  dsimp only
  have h : Quiet ex ex e.st (e.on fun s => s.setTyreTimer t none).st := quiet_aside ex
  split
  · exact h.trans (quiet_askTyre t _ ex)
  · exact h

/-! ### Lift (Machine/Lift.lean) -/

theorem quiet_setLift (x : LiftState) (e : Ev) (ex : Option Nat) : Quiet ex ex e.st (e.setLift x).st := by
  unfold Ev.setLift
  dsimp only
  split
  · exact .refl _ _
  · refine Quiet.trans (SameRecords.quiet ?_ ex) (quiet_loadFollow _ _ ex)
    rw [Ev.on_st]
    split <;> exact .aside

theorem liftKind_takes (g : Nat) : Cls.lift.takes (liftKind g) := by
  unfold liftKind
  split
  · exact .inr rfl
  · exact .inl rfl

theorem quiet_liftDecide (o : Origin) (e : Ev) (ex : Option Nat) : Quiet ex ex e.st (e.liftDecide o).1.st := by
  unfold Ev.liftDecide
  split
  · exact .refl _ _
  · split
    · exact .refl _ _
    · next g x _ =>
      have h := quiet_ask { cls := .lift, nodes := [.lft], goal := g, origin := o, kind := liftKind g } e ex
        ⟨rfl, liftKind_takes g⟩
      dsimp only
      split
      · exact h
      · exact h.trans (quiet_setLift _ _ ex)

theorem quiet_liftAuto (e : Ev) (ex : Option Nat) : Quiet ex ex e.st e.liftAuto.st := quiet_liftDecide _ e ex

theorem quiet_aimTo (b : Bool) (e : Ev) (ex : Option Nat) : Quiet ex ex e.st (e.aimTo b).st := by
  unfold Ev.aimTo
  split
  · exact .refl _ _
  · exact (quiet_aside ex).trans (quiet_liftAuto _ ex)

theorem quiet_overloadTest (e : Ev) (ex : Option Nat) : Quiet ex ex e.st e.overloadTest.st := by
  unfold Ev.overloadTest
  split
  · exact quiet_aimTo _ _ ex
  · exact .refl _ _

theorem quiet_liftTimerTest (e : Ev) (ex : Option Nat) : Quiet ex ex e.st (e.on State.liftTimerTest).st := quiet_aside ex

theorem quiet_settledLoad (sd : Side) (e : Ev) (ex : Option Nat) : Quiet ex ex e.st (e.settledLoad sd).st := by
  unfold Ev.settledLoad
  split
  · exact .refl _ _
  · split
    · exact .refl _ _
    · dsimp only
      split
      · exact quiet_aside ex
      · refine Quiet.trans ?_ (quiet_overloadTest _ ex)
        refine Quiet.trans ?_ (quiet_liftTimerTest _ ex)
        refine Quiet.trans ?_ (quiet_recomputeSide sd _ ex)
        exact quiet_aside ex

theorem quiet_firstLft (e : Ev) (ex : Option Nat) : Quiet ex ex e.st e.firstLft.st := by
  unfold Ev.firstLft
  split
  · exact .refl _ _
  · exact (quiet_aside ex).trans (quiet_setLift _ _ ex)

theorem quiet_lftArrival (e : Ev) (ex : Option Nat) : Quiet ex ex e.st e.lftArrival.st :=
  (quiet_firstLft e ex).trans (quiet_liftAuto _ ex)

theorem same_liftStall (x : Ending) (e : Ev) : SameRecords e.st (e.liftStall x).st := by
  unfold Ev.liftStall
  split
  · exact same_flagFault _ _
  · exact .refl _

theorem quiet_liftFreed (x : Ending) (e : Ev) (ex : Option Nat) : Quiet ex ex e.st (e.liftFreed x).st := by
  unfold Ev.liftFreed
  dsimp only
  refine Quiet.trans ?_ (quiet_liftAuto _ ex)
  refine Quiet.trans ?_ (quiet_liftTimerTest _ ex)
  refine Quiet.trans ?_ ((same_liftStall x _).quiet ex)
  split
  · exact (quiet_setLift _ e ex).trans (quiet_aside ex)
  · exact quiet_setLift _ e ex

theorem quiet_ownerFreed (d : Desc) (x : Ending) (e : Ev) (ex : Option Nat) : Quiet ex ex e.st (e.ownerFreed d x).st := by
  unfold Ev.ownerFreed
  split
  · exact quiet_liftFreed x e ex
  · exact .refl _ _
  · exact .refl _ _

theorem quiet_freeTransfer_queued (d : Desc) (x : Ending) (e : Ev) (hd : d ∈ e.st.transfers) (q : d.state = .queued) :
    Quiet none none e.st (e.freeTransfer d x).st := by
  unfold Ev.freeTransfer Ev.unlinkTransfer
  exact ((quiet_dropTransfer_queued d x e none hd q).trans (quiet_testPoints _ _)).trans (quiet_ownerFreed _ _ _ _)

theorem quiet_freeTransfer_ex (d : Desc) (x : Ending) (e : Ev) (hd : ∃ d0 ∈ e.st.transfers, d0.id = d.id) :
    Quiet (some d.id) none e.st (e.freeTransfer d x).st := by
  unfold Ev.freeTransfer Ev.unlinkTransfer
  exact ((quiet_dropTransfer_ex d x e hd).trans (quiet_testPoints _ _)).trans (quiet_ownerFreed _ _ _ _)

theorem quiet_liftMode (m : Mode) (e : Ev) (ex : Option Nat) : Quiet ex ex e.st (e.liftMode m).st := by
  unfold Ev.liftMode
  cases m
  · dsimp only
    split
    · exact (quiet_aimTo _ _ ex).trans (quiet_aside ex)
    · exact quiet_aside ex
  · exact (quiet_aimTo _ _ ex).trans (quiet_aside ex)
  · exact (quiet_aimTo _ _ ex).trans (quiet_aside ex)

/-! ### Steps (Machine/Steps.lean) -/

theorem quiet_cutIf (s : State) (g : Gallery) (t : Desc → Bool) (ex : Option Nat) : Quiet ex ex s (s.cutIf g t) := by
  unfold State.cutIf
  split
  · exact .refl _ _
  · split
    · exact quiet_endStep _ _ _ ex
    · exact .refl _ _

theorem quiet_cutBoth (s : State) (t : Desc → Bool) (ex : Option Nat) : Quiet ex ex s (s.cutBoth t) :=
  (quiet_cutIf s .a t ex).trans (quiet_cutIf _ .b t ex)

/-- The finish of a step whose air does not move leaves its descriptor under evaluation. -/
theorem quiet_finishStep (g : Gallery) (e : Ev) {d : Desc} (hs : e.st.served g = some d) (ha : d.state.airMoves = false) :
    Quiet none (some d.id) e.st (e.finishStep g).st := by
  unfold Ev.finishStep
  rw [Ev.trigger_st, Ev.on_st]
  dsimp only
  rw [hs]
  dsimp only
  generalize hu : (e.st.modGallery g fun x =>
      { x with flight := none, openT := none, stepT := none, closeT := none, settleT := none }) = u
  have h1 : Quiet none (some d.id) e.st u := by
    refine quiet_landed e.st u g hs ha (by rw [← hu]; rfl) (by rw [← hu]; rfl) (by rw [← hu]; rfl) ?_ ?_
    · rw [← hu]; simp [State.modGallery]
    · intro g' hne
      rw [← hu]
      simp only [State.modGallery]
      rw [PerGallery.get_modify_ne _ _ hne]
  split
  · refine h1.trans (SameRecords.quiet ?_ _)
    exact (same_resetMonitors d.nodes u).trans (.aside)
  · exact h1.trans ((same_resetMonitors d.nodes u).quiet _)

theorem finishStep_transfers (g : Gallery) (e : Ev) : (e.finishStep g).st.transfers = e.st.transfers := by
  unfold Ev.finishStep
  rw [Ev.trigger_st, Ev.on_st]
  dsimp only
  split
  · rfl
  · next d _ =>
    have h := (same_resetMonitors d.nodes (e.st.modGallery g fun x =>
      { x with flight := none, openT := none, stepT := none, closeT := none, settleT := none })).transfers
    split
    · exact Eq.trans rfl (h.trans rfl)
    · exact h.trans rfl

theorem quiet_takeDown (b : TornBy) (d : Desc) (e : Ev) (hd : d ∈ e.st.transfers) :
    Quiet none none e.st (e.takeDown b d).1.st := by
  unfold Ev.takeDown
  split
  · next q => exact quiet_dropTransfer_queued d _ e none hd q
  · next q =>
    intro w
    have hs := w.served_of hd (by rw [q]; simp) (by simp)
    refine ((quiet_finishStep d.kind.gallery e hs (by rw [q]; rfl)).trans (quiet_dropTransfer_ex d _ _ ?_)) w
    exact ⟨d, by rw [finishStep_transfers]; exact hd, rfl⟩
  · exact quiet_modDesc _ _ _ none fun c _ _ => Kin.tame rfl rfl rfl rfl rfl
  · refine (quiet_endStep _ _ _ none).trans (quiet_modDesc _ _ _ none ?_)
    exact fun c _ _ => Kin.tame rfl rfl rfl rfl rfl

/-- A live descriptor torn down. -/
theorem quiet_tearDown (b : TornBy) (d : Desc) (e : Ev) (hd : d ∈ e.st.transfers) :
    Quiet none none e.st (e.tearDown b d).1.st := by
  unfold Ev.tearDown
  split
  · exact .refl _ _
  · split
    · have h := quiet_takeDown .cancel d (e.endReports d .torn)
      rw [Ev.endReports_st] at h
      exact h hd
    · exact quiet_takeDown .fault d e hd

theorem quiet_faultDown (d : Desc) (e : Ev) (hd : d ∈ e.st.transfers) : Quiet none none e.st (e.faultDown d).st := by
  unfold Ev.faultDown
  dsimp only
  split
  · exact ((quiet_tearDown _ d e hd).trans (quiet_testPoints _ _)).trans (quiet_ownerFreed _ _ _ _)
  · exact quiet_tearDown _ d e hd

theorem quiet_endSensor (g : Gallery) (n : Node) (e : Ev) (ex : Option Nat) : Quiet ex ex e.st (e.endSensor g n).st := by
  unfold Ev.endSensor
  refine Quiet.trans ?_ (quiet_latch _ _ _ ex)
  exact quiet_endStep _ _ _ ex

theorem quiet_crossEnd (g : Gallery) (l r : Option Nat) (near : Nat → Nat → Bool) (e : Ev) (ex : Option Nat) :
    Quiet ex ex e.st (e.crossEnd g l r near).st := by
  obtain ⟨_, _, _, _, _, h⟩ | ⟨_, _, _, _, _, h⟩ | ⟨_, h⟩ := e.crossEnd_cases g l r near <;> rw [h]
  · exact quiet_endStep _ _ _ ex
  · exact .refl _ _
  · exact quiet_latch _ _ _ ex

theorem quiet_pressureEnd (g : Gallery) (m : Managed) (e : Ev) (ex : Option Nat) :
    Quiet ex ex e.st (e.pressureEnd g m).st := by
  unfold Ev.pressureEnd
  split
  · exact .refl _ _
  · split
    · split
      · exact quiet_endSensor _ _ _ ex
      · exact quiet_endSensor _ _ _ ex
      · exact quiet_endSensor _ _ _ ex
      · split
        · exact quiet_endStep _ _ _ ex
        · exact .refl _ _
      · split
        · exact quiet_endStep _ _ _ ex
        · exact .refl _ _
      · exact quiet_crossEnd _ _ _ _ _ ex
      · exact .refl _ _
    · exact .refl _ _

theorem quiet_floorTest (e : Ev) (ex : Option Nat) : Quiet ex ex e.st e.floorTest.st := by
  unfold Ev.floorTest
  split
  · exact .refl _ _
  · split
    · split
      · split
        · refine Quiet.trans ?_ (quiet_latch _ _ _ ex)
          exact quiet_endStep _ _ _ ex
        · exact .refl _ _
      · refine Quiet.trans (Quiet.trans ?_ (quiet_latch _ _ _ ex)) (quiet_latch _ _ _ ex)
        exact quiet_endStep _ _ _ ex
    · exact .refl _ _

theorem quiet_sideReached (s : State) (g : Gallery) (sd : Side) (ex : Option Nat) : Quiet ex ex s (s.sideReached g sd) := by
  unfold State.sideReached
  dsimp only
  have h1 : Quiet ex ex s (State.modGallery { s with glc.valves := s.glc.valves.setNode g sd.bellows false } g fun x =>
      { x with flight := x.flight.map fun f => { f with nodes := f.nodes.filter fun n => n != sd.bellows } }) := by
    refine Quiet.trans (quiet_valves s (s.glc.valves.setNode g sd.bellows false) ex
      (fun g' h => Valves.setNode_false _ _ _ _ h)) ?_
    exact (sameRecords_modGallery _ g _ (by intro x; simp [Function.comp_def])).quiet ex
  split
  · exact h1.trans (quiet_endStep _ _ _ ex)
  · exact h1

theorem quiet_heightEnd (g : Gallery) (sd : Side) (e : Ev) (ex : Option Nat) : Quiet ex ex e.st (e.heightEnd g sd).st := by
  unfold Ev.heightEnd
  split
  · exact .refl _ _
  · split
    · split
      · exact quiet_endSensor _ _ _ ex
      · exact quiet_crossEnd _ _ _ _ _ ex
      · split
        · exact quiet_sideReached _ _ _ ex
        · exact .refl _ _
    · exact .refl _ _

/-! ### Height (Machine/Height.lean) -/

theorem sideStep_takes (sd : Side) (x : Int) : Cls.height.takes (sideStep sd x) := by
  unfold sideStep
  split <;> simp [Cls.takes]

theorem sideOfLarger_takes (x y : Int) : Cls.height.takes (sideOfLarger x y) := by
  unfold sideOfLarger
  split
  · exact sideStep_takes _ _
  · split
    · exact sideStep_takes _ _
    · split <;> simp [Cls.takes]

theorem chooseKind_takes {goal l r : Nat} {p q : Option Nat} {k : StepKind} (h : chooseKind goal l r p q = some k) :
    Cls.height.takes k := by
  unfold chooseKind at h
  dsimp only at h
  repeat' split at h
  all_goals first
    | (simp only [Option.some.injEq] at h; subst h; first | exact sideOfLarger_takes _ _ | exact sideStep_takes _ _ | simp [Cls.takes])
    | simp at h

theorem heightChoice_takes {s : State} {goal : Nat} {k : StepKind} (h : s.heightChoice goal = some (some k)) :
    Cls.height.takes k := by
  unfold State.heightChoice at h
  split at h
  · simp only [Option.some.injEq] at h; exact chooseKind_takes h
  · simp at h

theorem heightKind_takes (s : State) (goal : Nat) {k : StepKind} (h : Cls.height.takes k) :
    Cls.height.takes (s.heightKind goal k) := by
  unfold State.heightKind
  split
  · exact h
  · simp [Cls.takes]
  · next hc => exact heightChoice_takes hc

theorem quiet_immediateAsk (t : Nat) (o : Origin) (b : Bool) (e : Ev) (ex : Option Nat) :
    Quiet ex ex e.st (e.immediateAsk t o b).1.st := by
  have sp : Quiet ex ex e.st (e.on State.stopPersist).st := quiet_aside ex
  unfold Ev.immediateAsk
  split
  · exact .refl _ _
  · split
    · next d hd =>
      intro w
      obtain ⟨hm, hc⟩ := State.mem_of_findDesc hd
      have hc' : d.cls = .height := by simpa using hc
      have tk : Cls.height.takes d.kind := by
        have := (w.shaped d hm).takes
        rwa [hc'] at this
      exact (sp.trans (quiet_ask (heightAsk t o (e.st.heightKind t d.kind)) _ ex ⟨rfl, heightKind_takes _ _ tk⟩)) w
    · split
      · exact quiet_aside ex
      · exact .refl _ _
      · next k hk =>
        dsimp only
        split
        · exact sp
        · exact sp.trans (quiet_ask (heightAsk t o k) _ ex ⟨rfl, heightChoice_takes hk⟩)

theorem quiet_retarget (t : Nat) (b : Bool) (e : Ev) (ex : Option Nat) : Quiet ex ex e.st (e.retarget t b).1.st := by
  unfold Ev.retarget
  split
  · exact .refl _ _
  · have h : Quiet ex ex e.st ((e.on fun s => s.setHeightTarget t).immediateAsk t .auto b).1.st :=
      (quiet_aside ex).trans (quiet_immediateAsk t .auto b (e.on fun s => s.setHeightTarget t) ex)
    dsimp only
    split
    · exact h.trans (quiet_aside ex)
    · exact h
    · exact h

theorem quiet_handleMark (e : Ev) (ex : Option Nat) : Quiet ex ex e.st e.handleMark.st := by
  unfold Ev.handleMark
  split
  · exact .refl _ _
  · exact quiet_aside ex
  · next k hk =>
    exact quiet_ask (heightAsk e.st.hlc.target .auto k) e ex ⟨rfl, heightChoice_takes hk⟩

theorem quiet_heightHandOff (e : Ev) (ex : Option Nat) : Quiet ex ex e.st e.heightHandOff.st := by
  unfold Ev.heightHandOff
  split
  · exact .refl _ _
  · exact .refl _ _
  · split
    · exact quiet_handleMark _ ex
    · exact .refl _ _
  · split
    · exact quiet_handleMark _ ex
    · exact (same_heightDeadbandTest _).quiet ex

theorem quiet_heightExpiry (e : Ev) (ex : Option Nat) : Quiet ex ex e.st e.heightExpiry.st := by
  have sp : Quiet ex ex e.st (e.on State.stopPersist).st := quiet_aside ex
  unfold Ev.heightExpiry
  dsimp only
  split
  · split
    · next k hk =>
      exact sp.trans (quiet_ask (heightAsk e.st.hlc.target .auto k) _ ex ⟨rfl, heightChoice_takes hk⟩)
    · exact sp
  · exact sp

theorem quiet_heightMode (b : Bool) (e : Ev) (ex : Option Nat) : Quiet ex ex e.st (e.heightMode b).1.st := by
  have h : Quiet ex ex e.st (e.on fun s => s.stopPersist.beaconSync).st := by
    refine SameRecords.quiet (SameRecords.trans ?_ (same_beaconSync _)) ex
    exact .aside
  unfold Ev.heightMode
  dsimp only
  split
  · exact h
  · exact h.trans (quiet_retarget _ _ _ ex)

theorem quiet_autoRideReturn (e : Ev) (ex : Option Nat) : Quiet ex ex e.st e.autoRideReturn.st := quiet_retarget _ _ e ex

theorem quiet_heightSpeed (x : SpeedState) (e : Ev) (ex : Option Nat) : Quiet ex ex e.st (e.heightSpeed x).st := by
  have sp : Quiet ex ex e.st (e.on State.stopPersist).st := quiet_aside ex
  have h2 : Quiet ex ex e.st (if x = .standstill then e.on State.stopPersist else (e.on State.stopPersist).lapse).st := by
    split
    · exact sp
    · exact sp.trans ((same_lapse _).quiet ex)
  unfold Ev.heightSpeed
  dsimp only
  split
  · exact h2.trans (quiet_autoRideReturn _ ex)
  · exact h2

/-! ### Faults (Machine/Faults.lean) -/

theorem quiet_addCause (x : Lockout) (e : Ev) : Quiet none none e.st (e.addCause x).st := by
  unfold Ev.addCause
  dsimp only
  split
  · exact quiet_aside none
  · have h : Quiet none none e.st ((e.on fun s => { s with hlc.lockout := x }).on fun s =>
        s.stopPersist.setHeightPending false).st := quiet_aside none
    split
    · next d hd => exact h.trans (quiet_faultDown d _ (State.mem_of_findDesc hd).1)
    · exact h

theorem quiet_heightSensor (sd : Side) (v r : Bool) (e : Ev) : Quiet none none e.st (e.heightSensor sd v r).st := by
  unfold Ev.heightSensor
  split
  · split
    · exact quiet_aside none
    · exact .refl _ _
  · dsimp only
    split
    · have h : Quiet none none e.st ((e.on fun s =>
          { s with hlc.recovery := s.hlc.recovery.set sd 0 }).latch .sensorInvalid [sd.bellows.node]).st := by
        refine SameRecords.quiet (SameRecords.trans ?_ (same_latch _ _ _)) none
        exact .aside
      split
      · exact h
      · exact h.trans (quiet_addCause _ _)
    · exact quiet_aside none

theorem quiet_faultDescriptor (m : Managed) (e : Ev) : Quiet none none e.st (e.faultDescriptor m).st := by
  unfold Ev.faultDescriptor
  split
  · next d hd =>
    exact (quiet_faultDown d e (State.mem_of_findDesc hd).1).trans ((same_dropStepNode _ m).quiet none)
  · exact .refl _ _

theorem quiet_faultOwner (m : Managed) (e : Ev) : Quiet none none e.st (e.faultOwner m).st := by
  unfold Ev.faultOwner
  split
  · split
    · exact .refl _ _
    · exact quiet_addCause _ _
  · split
    · exact .refl _ _
    · exact quiet_addCause _ _
  · exact quiet_aside none
  · split
    · exact quiet_aside none
    · exact .refl _ _

theorem quiet_faultNode (n : Node) (e : Ev) : Quiet none none e.st (e.faultNode n).st := by
  unfold Ev.faultNode
  dsimp only
  split
  · exact .refl _ _
  · split
    · exact ((same_flagFault n e).quiet none).trans ((quiet_faultDescriptor _ _).trans (quiet_faultOwner _ _))
    · exact (same_flagFault n e).quiet none

theorem quiet_faultNodes (ms : List Managed) (e : Ev) : Quiet none none e.st (Ev.faultNodes ms e).st := by
  induction ms generalizing e with
  | nil => exact .refl _ _
  | cons m r ih => exact (quiet_faultNode m.node e).trans (ih _)

theorem quiet_sensorFault (n : Node) (e : Ev) : Quiet none none e.st (e.sensorFault n).st := by
  unfold Ev.sensorFault
  split
  · exact quiet_faultNode n e
  · exact .refl _ _

theorem quiet_clearFault (n : Node) (e : Ev) : Quiet none none e.st (e.clearFault n).st := by
  have h : SameRecords e.st (State.resetMonitorOf { e.st with spu.faults := e.st.spu.faults.set n false } n) := by
    refine SameRecords.trans ?_ (same_resetMonitorOf _ n)
    exact .aside
  unfold Ev.clearFault
  dsimp only
  split
  · split
    · rw [Ev.on_st, Ev.triggerBoth_st]; exact SameRecords.quiet (h.trans (.aside)) none
    · rw [Ev.on_st, Ev.triggerBoth_st]; exact SameRecords.quiet (h.trans (.aside)) none
    · refine Quiet.trans ?_ (quiet_liftAuto _ none)
      rw [Ev.on_st, Ev.triggerBoth_st]; exact SameRecords.quiet (h.trans (.aside)) none
    · rw [Ev.triggerBoth_st]; exact h.quiet none
  · exact h.quiet none

theorem quiet_clearFaults (ns : List Node) (e : Ev) : Quiet none none e.st (Ev.clearFaults ns e).st := by
  induction ns generalizing e with
  | nil => exact .refl _ _
  | cons m r ih => exact (quiet_clearFault m e).trans (ih _)

/-! ### Account (Machine/Account.lean) -/

theorem same_fillQuery (d : Desc) (e : Ev) : SameRecords e.st (e.fillQuery d).1.st := by
  unfold Ev.fillQuery
  dsimp only
  split
  · exact .refl _
  · exact same_latch _ _ _

theorem quiet_brakeDecision (e : Ev) (ex : Option Nat) : Quiet ex ex e.st e.brakeDecision.st := by
  have h : SameRecords e.st { e.st with aac.priority := e.st.nextPriority } := .aside
  unfold Ev.brakeDecision
  dsimp only
  split
  · exact .refl _ _
  · split
    · rw [Ev.on_st]
      exact ((h.trans (same_latch (e.on fun s => { s with aac.priority := e.st.nextPriority }) _ _)).quiet ex).trans
        (quiet_cutBoth _ _ ex)
    · rw [Ev.trigger_st]; exact h.quiet ex

theorem same_openWindow (s : State) (g : Nat) : SameRecords s (s.openWindow g) := by
  unfold State.openWindow
  split
  · exact .aside
  · exact .refl _

theorem same_supplyReading (s : State) (g : Nat) : SameRecords s (s.supplyReading g) := by
  unfold State.supplyReading
  split
  · split
    · split
      · exact .aside
      · split
        · exact .aside
        · exact .refl _
    · exact same_openWindow _ _
  · split
    · split
      · exact .aside
      · split
        · refine SameRecords.trans ?_ (same_openWindow _ _)
          exact .aside
        · exact .refl _
    · exact .aside

theorem same_supplyArrival (s : State) : SameRecords s s.supplyArrival := by
  unfold State.supplyArrival
  dsimp only
  split
  · refine SameRecords.trans ?_ (same_supplyReading _ _)
    exact .aside
  · exact .aside

theorem same_supplyExpiry (e : Ev) : SameRecords e.st e.supplyExpiry.st := by
  unfold Ev.supplyExpiry
  split
  · refine SameRecords.trans ?_ (same_latch _ _ _)
    exact .aside
  · exact .aside

/-! ### Evaluation (Machine/Galleries.lean) -/

theorem quiet_applyPending (d : Desc) (e : Ev) (ex : Option Nat) (hd : d ∈ e.st.transfers) :
    Quiet ex ex e.st (e.applyPending d).1.st := by
  unfold Ev.applyPending
  split
  · rw [Ev.on_st, Ev.completion_st]
    exact quiet_putDesc _ ex hd (Kin.tame rfl rfl rfl rfl rfl)
  · exact .refl _ _

/-- A descriptor with its pending goal applied is the live one, and keeps its id, class, nodes, kind and state. -/
theorem applyPending_live {d : Desc} {e : Ev} (hd : d ∈ e.st.transfers) :
    (e.applyPending d).2 ∈ (e.applyPending d).1.st.transfers ∧ (e.applyPending d).2.id = d.id ∧
      (e.applyPending d).2.cls = d.cls ∧ (e.applyPending d).2.nodes = d.nodes ∧ (e.applyPending d).2.kind = d.kind ∧
      (e.applyPending d).2.state = d.state := by
  unfold Ev.applyPending
  split
  · refine ⟨?_, rfl, rfl, rfl, rfl, rfl⟩
    rw [Ev.on_st, Ev.completion_st]
    simp only [State.putDesc, State.modDesc_transfers, List.mem_map]
    exact ⟨d, hd, by simp⟩
  · exact ⟨hd, rfl, rfl, rfl, rfl, rfl⟩

theorem requeueKind_shaped (s : State) (d : Desc) (h : d.Shaped) : d.cls.takes (s.requeueKind d) := by
  unfold State.requeueKind
  have := h.takes
  cases hc : d.cls with
  | height => rw [hc] at this; exact heightKind_takes _ _ this
  | lift => exact liftKind_takes _
  | tyre =>
    dsimp only
    split
    · exact tyreKind_takes _ _
    · rw [hc] at this; exact this

/-- The record at a place on the live list rewritten, whatever stood there before. -/
theorem quiet_requeue (d : Desc) (e : Ev) {d0 : Desc} (h0 : d0 ∈ e.st.transfers) (i : d.id = d0.id) (c : d.cls = d0.cls)
    (n : d.nodes = d0.nodes) (k : d.kind = d0.kind) {ex : Option Nat} (x : ex = some d0.id ∨ (ex = none ∧ d0.state = .queued)) :
    Quiet ex none e.st (e.requeue d).st := by
  unfold Ev.requeue
  rw [Ev.triggerBoth_st]
  refine Quiet.trans ?_ (quiet_testPoints _ none)
  rw [Ev.on_st]
  have sh : d0.Shaped → Desc.Shaped { d with
      state := .queued, kind := e.st.requeueKind d, stepGoal := none, start := none, wait := .clear } := by
    intro h
    have hd : d.Shaped := ⟨by rw [c, n]; exact h.names, by rw [c, k]; exact h.takes⟩
    exact ⟨hd.names, requeueKind_shaped _ _ hd⟩
  rcases x with rfl | ⟨rfl, q⟩
  · exact quiet_requeued e.st h0 i n sh rfl
  · exact quiet_putDesc e.st none h0 { id := i, cls := c, nodes := n, shaped := sh, phase := .inl ⟨q, rfl⟩ }

theorem unlinkTransfer_quiet (d : Desc) (x : Ending) (e : Ev) {d0 : Desc} (h0 : d0 ∈ e.st.transfers) (i : d.id = d0.id)
    {ex : Option Nat} (hx : ex = some d0.id ∨ (ex = none ∧ d0.state = .queued)) :
    Quiet ex none e.st (e.unlinkTransfer d x).st := by
  unfold Ev.unlinkTransfer
  refine Quiet.trans ?_ (quiet_testPoints _ none)
  unfold Ev.dropTransfer
  rw [Ev.on_st]
  have : (if x = .torn then e else e.endReports d x).st = e.st := by split <;> simp
  rw [this]
  rcases hx with rfl | ⟨rfl, q⟩
  · rw [i]; exact quiet_unlink_ex e.st (State.id_mem_liveIds h0)
  · intro w
    rw [i]
    exact quiet_unlink e.st none (State.id_mem_liveIds h0) (fun c hc hi => by rw [w.unique hc h0 hi]; exact q) w

theorem freeTransfer_quiet (d : Desc) (x : Ending) (e : Ev) {d0 : Desc} (h0 : d0 ∈ e.st.transfers) (i : d.id = d0.id)
    {ex : Option Nat} (hx : ex = some d0.id ∨ (ex = none ∧ d0.state = .queued)) :
    Quiet ex none e.st (e.freeTransfer d x).st :=
  (unlinkTransfer_quiet d x e h0 i hx).trans (quiet_ownerFreed _ _ _ _)

theorem quiet_judge (d : Desc) (e : Ev) {d0 : Desc} (h0 : d0 ∈ e.st.transfers) (i : d.id = d0.id) (c : d.cls = d0.cls)
    (n : d.nodes = d0.nodes) (k : d.kind = d0.kind) {ex : Option Nat} (x : ex = some d0.id ∨ (ex = none ∧ d0.state = .queued)) :
    Quiet ex none e.st (e.judge d).st := by
  unfold Ev.judge
  split
  · exact ((unlinkTransfer_quiet d _ e h0 i x).trans (quiet_faultNodes _ _)).trans (quiet_ownerFreed _ _ _ _)
  · split
    · refine ((same_latch e _ _).quiet ex).trans (freeTransfer_quiet d _ _ (d0 := d0) ?_ i x)
      rw [(same_latch e _ _).transfers]; exact h0
    · exact quiet_requeue d e h0 i c n k x

theorem tally_same (s : State) (d : Desc) (r : EndReason) :
    (s.tally d r).id = d.id ∧ (s.tally d r).cls = d.cls ∧ (s.tally d r).nodes = d.nodes ∧ (s.tally d r).kind = d.kind ∧
      (s.tally d r).state = d.state := by
  unfold State.tally
  cases r <;> exact ⟨rfl, rfl, rfl, rfl, rfl⟩

/-- The evaluation of the descriptor under evaluation, or of a QUEUED one. -/
theorem quiet_evaluate (id : Nat) (r : Option EndReason) (e : Ev) {ex : Option Nat}
    (x : ex = some id ∨ (ex = none ∧ ∀ d, e.st.descAt id = some d → d.state = .queued))
    (live : ∃ d, e.st.descAt id = some d) : Quiet ex none e.st (e.evaluate id r).st := by
  obtain ⟨d0, h0⟩ := live
  obtain ⟨hm, hi⟩ := State.mem_of_descAt h0
  unfold Ev.evaluate
  rw [h0]
  dsimp only
  obtain ⟨l1, l2, l3, l4, l5, l6⟩ := applyPending_live hm
  refine (quiet_applyPending d0 e ex hm).trans ?_
  generalize (e.applyPending d0).1 = e1 at *
  generalize (e.applyPending d0).2 = d at *
  have hx : ex = some d.id ∨ (ex = none ∧ d.state = .queued) := by
    rcases x with rfl | ⟨rfl, q⟩
    · left; rw [l2, hi]
    · right; exact ⟨rfl, by rw [l6]; exact q d0 h0⟩
  split
  · exact freeTransfer_quiet d _ e1 l1 rfl hx
  · split
    · exact freeTransfer_quiet d _ e1 l1 rfl hx
    · split
      · next y _ =>
        split
        · exact quiet_judge d e1 l1 rfl rfl rfl rfl hx
        · obtain ⟨t1, t2, t3, t4, -⟩ := tally_same e1.st d y
          exact quiet_judge _ e1 l1 t1 t2 t3 t4 hx
      · exact quiet_judge d e1 l1 rfl rfl rfl rfl hx

theorem quiet_setWait (s : State) (id : Nat) (w : Wait) (ex : Option Nat) : Quiet ex ex s (s.setWait id w) :=
  quiet_modDesc s id _ ex fun _ _ _ => Kin.tame rfl rfl rfl rfl rfl

/-! ### Changes of mode and of the vehicle (Machine/Vehicle.lean) -/

theorem quiet_allocateHeld (a : Ask) (e : Ev) (ex : Option Nat) (sh : a.Shaped) :
    Quiet ex ex e.st (e.allocateHeld a).st := by
  have h := quiet_ask a e ex sh
  unfold Ev.allocateHeld
  dsimp only
  split
  · exact h.trans (quiet_aside ex)
  · split
    · exact h.trans (quiet_aside ex)
    · exact h
  · exact h

theorem quiet_allocateAll (as : List Ask) (e : Ev) (ex : Option Nat) (sh : ∀ a ∈ as, a.Shaped) :
    Quiet ex ex e.st (Ev.allocateAll as e).st := by
  induction as generalizing e with
  | nil => exact .refl _ _
  | cons a r ih =>
    exact (quiet_allocateHeld a e ex (sh a (by simp))).trans (ih _ fun b hb => sh b (by simp [hb]))

theorem quiet_basisAllocations (as : List Ask) (e : Ev) (ex : Option Nat) (sh : ∀ a ∈ as, a.Shaped) :
    Quiet ex ex e.st (e.basisAllocations as).st := by
  unfold Ev.basisAllocations
  dsimp only
  refine Quiet.trans ?_ (quiet_allocateAll _ _ ex fun a ha => sh a (List.mem_filter.1 ha).1)
  refine Quiet.trans ?_ (quiet_placePoint _ _ _ _ ex)
  exact quiet_allocateAll _ _ ex fun a ha => sh a (List.mem_filter.1 ha).1

theorem basisAsks_shaped (s : State) : ∀ a ∈ s.basisAsks, a.Shaped := by
  intro a ha
  unfold State.basisAsks at ha
  rw [List.mem_map] at ha
  obtain ⟨t, -, rfl⟩ := ha
  exact tyreAsk_shaped _ _ _ _

/-- A held ask of the height loop is shaped. -/
theorem retarget_held_shaped {t : Nat} {b : Bool} {e : Ev} {a : Ask} (h : (e.retarget t b).2 = some a) : a.Shaped := by
  unfold Ev.retarget at h
  split at h
  · simp at h
  · dsimp only at h
    split at h
    · simp at h
    · next a' hr =>
      simp only [Option.some.injEq] at h
      subst h
      unfold Ev.immediateAsk at hr
      split at hr
      · simp at hr
      · split at hr
        · simp at hr
        · split at hr
          · simp at hr
          · simp at hr
          · next k hk =>
            dsimp only at hr
            split at hr
            · simp only [HeightOutcome.held.injEq] at hr
              subst hr
              exact ⟨rfl, heightChoice_takes hk⟩
            · simp at hr
    · simp at h

theorem heightMode_held_shaped {b : Bool} {e : Ev} {a : Ask} (h : (e.heightMode b).2 = some a) : a.Shaped := by
  unfold Ev.heightMode at h
  dsimp only at h
  split at h
  · simp at h
  · exact retarget_held_shaped h

theorem quiet_changeMode (m : Mode) (e : Ev) (ex : Option Nat) : Quiet ex ex e.st (e.changeMode m).st := by
  unfold Ev.changeMode
  dsimp only
  generalize hc : (m.basis e.st.tgu.basis != e.st.tgu.basis) = change
  have h1 : Quiet ex ex e.st (e.on fun s => s.setMode m).st := quiet_aside ex
  generalize he2 : (if m = .loading then (e.on fun s => s.setMode m).on State.freezeTyres
    else (e.on fun s => s.setMode m).recomputeAll (if change then .basis else .other)) = e2
  have h2 : Quiet ex ex e.st e2.st := by
    rw [← he2]
    split
    · exact h1.trans (quiet_aside ex)
    · exact h1.trans (quiet_recomputeAll _ _ ex)
  have h3 : Quiet ex ex e.st (e2.heightMode change).1.st := h2.trans (quiet_heightMode _ _ ex)
  generalize he3 : (if change then (e2.heightMode change).1.basisAllocations
    ((if change then e2.st.basisAsks else []) ++ (e2.heightMode change).2.toList) else (e2.heightMode change).1) = e3
  have h4 : Quiet ex ex e.st e3.st := by
    rw [← he3]
    split
    · refine h3.trans (quiet_basisAllocations _ _ ex ?_)
      intro a ha
      rcases List.mem_append.1 ha with ha | ha
      · exact basisAsks_shaped _ a ha
      · exact heightMode_held_shaped (Option.mem_toList.1 ha)
    · exact h3
  have h5 := h4.trans (quiet_liftMode m e3 ex)
  split
  · rw [Ev.triggerBoth_st]; exact h5
  · exact h5

theorem quiet_guardOn (e : Ev) (ex : Option Nat) : Quiet ex ex e.st e.guardOn.st := by
  unfold Ev.guardOn
  refine Quiet.trans (SameRecords.quiet (SameRecords.trans ?_ (same_latch _ _ _)) ex) (quiet_recomputeAll _ _ ex)
  exact .aside

theorem quiet_guardOff (e : Ev) (ex : Option Nat) : Quiet ex ex e.st e.guardOff.st :=
  Quiet.trans (quiet_aside ex) (quiet_recomputeAll _ _ ex)

theorem quiet_guardUpdate (e : Ev) (ex : Option Nat) : Quiet ex ex e.st e.guardUpdate.st := by
  unfold Ev.guardUpdate
  dsimp only
  split
  · split <;> exact quiet_aside ex
  · split
    · exact quiet_guardOn e ex
    · split <;> exact quiet_aside ex

theorem quiet_forceMode (x : SpeedState) (e : Ev) (ex : Option Nat) : Quiet ex ex e.st (e.forceMode x).st := by
  unfold Ev.forceMode
  split
  · exact (((same_latch e _ _).trans (same_lapse _)).quiet ex).trans (quiet_changeMode _ _ ex)
  · exact .refl _ _

theorem quiet_holdUpdate (old : Vehicle) (e : Ev) (ex : Option Nat) : Quiet ex ex e.st (e.holdUpdate old).st := by
  unfold Ev.holdUpdate
  dsimp only
  split <;> split
  · rw [Ev.triggerBoth_st]; exact quiet_cutBoth _ _ ex
  · exact quiet_cutBoth _ _ ex
  · rw [Ev.triggerBoth_st]; exact .refl _ _
  · exact .refl _ _

theorem quiet_brakingUpdate (old : Vehicle) (e : Ev) (ex : Option Nat) : Quiet ex ex e.st (e.brakingUpdate old).st := by
  unfold Ev.brakingUpdate
  split
  · exact quiet_aside ex
  · exact .refl _ _

theorem quiet_vehicleUpdate (v : Vehicle) (e : Ev) (ex : Option Nat) : Quiet ex ex e.st (e.vehicleUpdate v).st := by
  unfold Ev.vehicleUpdate
  dsimp only
  have h1 : Quiet ex ex e.st (Ev.guardUpdate (e.on fun s => { s with tgu.vehicle := v })).st :=
    (quiet_aside ex).trans (quiet_guardUpdate (e.on fun s => { s with tgu.vehicle := v }) ex)
  generalize (Ev.guardUpdate (e.on fun s => { s with tgu.vehicle := v })) = e1 at *
  have h2 : Quiet ex ex e.st
      (if (v.speedState != e.st.tgu.vehicle.speedState) = true then e1.forceMode v.speedState else e1).st := by
    split
    · exact h1.trans (quiet_forceMode _ _ ex)
    · exact h1
  generalize (if (v.speedState != e.st.tgu.vehicle.speedState) = true then e1.forceMode v.speedState else e1) = e2 at *
  have h3 := ((h2.trans (quiet_brakeDecision e2 ex)).trans (quiet_holdUpdate e.st.tgu.vehicle _ ex)).trans
    (quiet_brakingUpdate e.st.tgu.vehicle _ ex)
  split
  · exact (h3.trans (quiet_heightSpeed _ _ ex)).trans (quiet_aside ex)
  · exact h3

theorem quiet_brakeLinkLost (e : Ev) (ex : Option Nat) : Quiet ex ex e.st e.brakeLinkLost.st := by
  unfold Ev.brakeLinkLost
  refine Quiet.trans (SameRecords.quiet (SameRecords.trans ?_ (same_latch _ _ _)) ex) (quiet_vehicleUpdate _ _ ex)
  exact .aside

end Sys2Proof.Machine
end

