-- ==== Sys2Proof/Laws/Scans.lean ====
section
/-! SUPPORT. The grant scans that end an event (R78 to R82) keep the records whole and grant nothing that a restriction bars. -/

set_option Elab.async false

namespace Sys2Proof.Machine

/-- No restriction that cuts a step bars the descriptor's (R50, R93, R96). -/
structure Unbarred (s : State) (d : Desc) : Prop where
  stop : s.glc.stop.occupied = false
  hold : d.cls.movesDeck = true → s.held = false
  brake : d.kind.isFill = true → s.aac.priority = false

theorem Unbarred.of_fixed {s t : State} (h : t.fixed = s.fixed) {d e : Desc} (c : e.cls = d.cls) (k : e.kind = d.kind)
    (u : Unbarred s d) : Unbarred t e := by
  have h1 : t.glc.stop = s.glc.stop := congrArg Fixed.stop h
  have h2 : t.tgu.vehicle = s.tgu.vehicle := congrArg Fixed.vehicle h
  have h3 : t.aac.priority = s.aac.priority := congrArg Fixed.priority h
  refine ⟨by rw [h1]; exact u.stop, ?_, ?_⟩
  · intro hm
    have := u.hold (by rw [← c]; exact hm)
    unfold State.held State.speedState at this ⊢
    rw [h2]; exact this
  · intro hk
    rw [h3]; exact u.brake (by rw [← k]; exact hk)

theorem restrained_iff (s : State) :
    Restrained s ↔ ∀ d ∈ s.transfers, d.state.airMoves = true → Unbarred s d := by
  constructor
  · intro r d hd ha
    refine ⟨?_, ?_, ?_⟩
    · by_contra h
      have := r.stopped (by simpa using h) d hd rfl
      rw [this] at ha; exact absurd ha (by decide)
    · intro hm
      by_contra h
      have := r.held (by simpa using h) d hd hm
      rw [this] at ha; exact absurd ha (by decide)
    · intro hm
      by_contra h
      have := r.braked (by simpa using h) d hd hm
      rw [this] at ha; exact absurd ha (by decide)
  · intro u
    refine ⟨?_, ?_, ?_⟩
    · intro h d hd _
      by_contra ha
      have := (u d hd (by simpa using ha)).stop
      rw [h] at this; exact absurd this (by decide)
    · intro h d hd hm
      by_contra ha
      have := (u d hd (by simpa using ha)).hold hm
      rw [h] at this; exact absurd this (by decide)
    · intro h d hd hm
      by_contra ha
      have := (u d hd (by simpa using ha)).brake hm
      rw [h] at this; exact absurd this (by decide)

/-- The restrictions hold after a quiet change that leaves the fixed fields. -/
theorem Restrained.of_air {s t : State} (h : t.fixed = s.fixed) (a : AirFrom s t) (r : Restrained s) : Restrained t := by
  rw [restrained_iff] at r ⊢
  intro d hd ha
  obtain ⟨d0, h0, a0, -, c, k⟩ := a.air d hd ha
  exact (r d0 h0 a0).of_fixed h c.symm k.symm

/-! ### The test of a descriptor -/

theorem firstWait_none {s : State} {d : Desc} (h : s.firstWait d = none) : Unbarred s d := by
  unfold State.firstWait at h
  split at h
  · simp at h
  · split at h
    · simp at h
    · next h2 =>
      split at h
      · simp at h
      · next h3 =>
        split at h
        · simp at h
        · split at h
          · simp at h
          · split at h
            · simp at h
            · next h6 =>
              refine ⟨by simpa using h2, ?_, ?_⟩
              · intro hm; simpa [hm] using h3
              · intro hk; simpa [hk] using h6

/-- What is known of a candidate: QUEUED for the gallery, and barred by nothing. -/
def CandidateOk (s : State) (g : Gallery) (c : Candidate) : Prop :=
  c.desc.state = .queued ∧ c.desc.kind.gallery = g ∧ Unbarred s c.desc

theorem CandidateOk.of_fixed {s t : State} (h : t.fixed = s.fixed) {g : Gallery} {c : Candidate} (k : CandidateOk s g c) :
    CandidateOk t g c := ⟨k.1, k.2.1, k.2.2.of_fixed h rfl rfl⟩

theorem testOne_law (g : Gallery) (acc : Ev × List Candidate) (id : Nat) (ok : ∀ c ∈ acc.2, CandidateOk acc.1.st g c) :
    Quiet none none acc.1.st (Ev.testOne g acc id).1.st ∧
      ∀ c ∈ (Ev.testOne g acc id).2, CandidateOk (Ev.testOne g acc id).1.st g c := by
  have fx := Ev.testOne_fixed g acc id
  have keep : (Ev.testOne g acc id).2 = acc.2 →
      ∀ c ∈ (Ev.testOne g acc id).2, CandidateOk (Ev.testOne g acc id).1.st g c := by
    intro h c hc
    rw [h] at hc
    exact (ok c hc).of_fixed fx
  have add : ∀ d : Desc, ∀ x : Option Nat, CandidateOk acc.1.st g { desc := d, goal := x } →
      (Ev.testOne g acc id).2 = acc.2 ++ [{ desc := d, goal := x }] →
      ∀ c ∈ (Ev.testOne g acc id).2, CandidateOk (Ev.testOne g acc id).1.st g c := by
    intro d x hd h c hc
    rw [h] at hc
    rcases List.mem_append.1 hc with hc | hc
    · exact (ok c hc).of_fixed fx
    · rw [List.mem_singleton] at hc
      subst hc
      exact hd.of_fixed fx
  revert keep add fx
  unfold Ev.testOne
  dsimp only
  split
  · intro _ keep _; exact ⟨.refl _ _, keep rfl⟩
  · next d hd =>
    obtain ⟨hm, hi⟩ := State.mem_of_descAt hd
    split
    · next hqg =>
      split
      · intro _ keep _
        exact ⟨quiet_setWait _ _ _ _, keep rfl⟩
      · next hw =>
        have hu := firstWait_none hw
        have ok' : ∀ x, CandidateOk acc.1.st g { desc := { d with wait := .clear }, goal := x } :=
          fun x => ⟨hqg.1, hqg.2, ⟨hu.stop, hu.hold, hu.brake⟩⟩
        split
        · split
          · next goal _ _ =>
            intro _ _ add
            exact ⟨((same_fillQuery d _).quiet none).trans (quiet_setWait _ _ _ _), add _ (some goal) (ok' _) rfl⟩
          · intro _ keep _
            exact ⟨((same_fillQuery d _).quiet none).trans (quiet_setWait _ _ _ _), keep rfl⟩
          · intro _ keep _
            refine ⟨((same_fillQuery d _).quiet none).trans ?_, keep rfl⟩
            have hs := (same_fillQuery d acc.1)
            have hd' : (acc.1.fillQuery d).1.st.descAt id = some d := by
              have : (acc.1.fillQuery d).1.st.descAt id = acc.1.st.descAt id := by
                unfold State.descAt
                rw [State.findDesc_eq, State.findDesc_eq, hs.transfers]
              rw [this]; exact hd
            refine quiet_evaluate id none _ (.inr ⟨rfl, ?_⟩) ⟨d, hd'⟩
            intro d' h'
            rw [hd'] at h'
            simp only [Option.some.injEq] at h'
            rw [← h']; exact hqg.1
        · intro _ _ add
          exact ⟨quiet_setWait _ _ _ _, add _ (ventGoal d) (ok' _) rfl⟩
    · intro _ keep _; exact ⟨.refl _ _, keep rfl⟩

theorem testAll_law (g : Gallery) (ids : List Nat) (acc : Ev × List Candidate)
    (ok : ∀ c ∈ acc.2, CandidateOk acc.1.st g c) :
    Quiet none none acc.1.st (Ev.testAll g ids acc).1.st ∧
      ∀ c ∈ (Ev.testAll g ids acc).2, CandidateOk (Ev.testAll g ids acc).1.st g c := by
  induction ids generalizing acc with
  | nil => exact ⟨.refl _ _, ok⟩
  | cons i r ih =>
    obtain ⟨q, ok'⟩ := testOne_law g acc i ok
    obtain ⟨q', ok''⟩ := ih _ ok'
    exact ⟨q.trans q', ok''⟩

/-! ### The grant -/

theorem Valves.setNode_other (v : Valves) {g g' : Gallery} (m : Managed) (on : Bool) (h : g' ≠ g) :
    (v.setNode g m on).anyOpen g' = v.anyOpen g' := by
  cases g <;> cases g' <;> first | rfl | exact absurd rfl h

theorem Valves.openNodes_other (v : Valves) {g g' : Gallery} (ms : List Managed) (h : g' ≠ g) :
    (v.openNodes g ms).anyOpen g' = v.anyOpen g' := by
  unfold Valves.openNodes
  induction ms generalizing v with
  | nil => rfl
  | cons m r ih => rw [List.foldl_cons, ih, Valves.setNode_other v m true h]

/-- A step's outputs are those of its own gallery. -/
theorem Valves.openStep_other (v : Valves) (k : StepKind) (ms : List Managed) {g' : Gallery} (h : g' ≠ k.gallery) :
    (v.openStep k ms).anyOpen g' = v.anyOpen g' := by
  have hn := Valves.openNodes_other v ms h
  cases k <;> cases g' <;> first | exact absurd rfl h | exact hn

/-- The grant of an IDLE gallery to a QUEUED descriptor of it: the records stay whole, and only the granted descriptor's air begins to
move. -/
theorem grant_law (s : State) (g : Gallery) (slot : Nat) (d : Desc) (x : Option Nat) (w : Whole none s)
    (hd : d ∈ s.transfers) (hg : d.kind.gallery = g)
    (idle : (s.glc.galleries.get g).flight = none) :
    Whole none (s.grant g slot d x) ∧
      ∀ e ∈ (s.grant g slot d x).transfers, e.state.airMoves = true →
        (e.cls = d.cls ∧ e.kind = d.kind) ∨
          ∃ e0 ∈ s.transfers, e0.state.airMoves = true ∧ e0.cls = e.cls ∧ e0.kind = e.kind := by
  -- the part of the grant that the records see
  generalize hn : ({ d with state := .opening, stepGoal := x, start := some (s.startReading d), wait := .clear } : Desc) = d'
  have i' : d'.id = d.id := by rw [← hn]
  have c' : d'.cls = d.cls := by rw [← hn]
  have n' : d'.nodes = d.nodes := by rw [← hn]
  have k' : d'.kind = d.kind := by rw [← hn]
  have s' : d'.state = .opening := by rw [← hn]
  have a' : d'.state.airMoves = true := by rw [s']; rfl
  generalize hu : (State.modGallery { (s.putDesc d') with
      glc.valves := (s.putDesc d').glc.valves.openStep d.kind (stepNodes d) } g fun _ =>
    { flight := some { id := d.id, nodes := stepNodes d, ending := none }
      pointer := slot
      openT := s.timer openTime
      stepT := s.timer (s.ws.timeout.get d.cls * 1000)
      closeT := none
      settleT := none }) = u
  have same : SameRecords u (s.grant g slot d x) := by
    unfold State.grant
    dsimp only
    rw [hn, hu]
    have h3 : SameRecords u (if d.kind.isFill then u.stopWindow else u) := by
      split
      · exact .aside
      · exact .refl _
    generalize (if d.kind.isFill then u.stopWindow else u) = u3 at *
    have h4 := h3.trans (same_suspendMonitors d.nodes u3)
    generalize u3.suspendMonitors d.nodes = u4 at *
    have h5 : SameRecords u (if d.cls = .height then { u4 with llu.heightStep := true } else u4) := by
      split
      · exact h4.trans .aside
      · exact h4
    split
    · exact h5.trans (same_stepOpens _)
    · exact h5
  have m : Mapped s u fun e => if e.id = d.id then d' else e := by
    have m' := State.modDesc_mapped s d'.id (fun _ => d') (fun e he h => h.symm)
    rw [i'] at m'
    have h1 : u.dqm = (s.putDesc d').dqm := by rw [← hu]; rfl
    refine ⟨?_, ?_, ?_⟩
    · rw [h1]; rfl
    · unfold State.liveIds; rw [h1]
      have := m'.ids
      unfold State.liveIds at this
      unfold State.putDesc
      rw [i']; exact this
    · unfold State.transfers; rw [h1]
      have := m'.transfers
      unfold State.transfers at this
      unfold State.putDesc
      rw [i']; exact this
  have hone : ∀ e ∈ s.transfers, e.id = d.id → e = d := fun e he h => w.unique he hd h
  have fg : (u.glc.galleries.get g).flight = some { id := d.id, nodes := stepNodes d, ending := none } := by
    rw [← hu]; simp [State.modGallery]
  have fo : ∀ g', g' ≠ g → (u.glc.galleries.get g').flight = (s.glc.galleries.get g').flight := by
    intro g' h
    rw [← hu]
    simp only [State.modGallery]
    rw [PerGallery.get_modify_ne _ _ h]
    rfl
  have vo : ∀ g', g' ≠ g → u.glc.valves.anyOpen g' = s.glc.valves.anyOpen g' := by
    intro g' h
    have : u.glc.valves = s.glc.valves.openStep d.kind (stepNodes d) := by rw [← hu]; rfl
    rw [this]
    exact Valves.openStep_other _ _ _ (by rw [hg]; exact h)
  have wu : Whole none u := by
    refine ⟨m.pool w.pool, m.nodes w.nodes ?_, ?_, ?_, ?_, ?_, ?_⟩
    · intro e he
      split
      · next h => rw [hone e he h, n']
      · rfl
    · intro e he
      obtain ⟨e0, h0, rfl⟩ := m.mem.1 he
      split
      · have := w.shaped d hd
        exact ⟨by rw [c', n']; exact this.names, by rw [c', k']; exact this.takes⟩
      · exact w.shaped e0 h0
    · intro g' f hf
      by_cases h : g' = g
      · subst h
        rw [fg] at hf
        simp only [Option.some.injEq] at hf
        subst hf
        exact ⟨d', m.mem.2 ⟨d, hd, by simp⟩, i', by rw [k']; exact hg, by rw [s']; simp, by simp⟩
      · rw [fo g' h] at hf
        obtain ⟨e, he, h1, h2, h3, -⟩ := w.served g' f hf
        have hne : e.id ≠ d.id := by
          intro hi
          rw [hone e he hi, hg] at h2
          exact h h2.symm
        exact ⟨e, m.mem.2 ⟨e, he, by simp [hne]⟩, h1, h2, h3, by simp⟩
    · intro e he hq _
      obtain ⟨e0, h0, rfl⟩ := m.mem.1 he
      by_cases h : e0.id = d.id
      · simp only [h, if_true]
        exact ⟨_, by rw [k', hg]; exact fg, i'.symm⟩
      · simp only [h, if_false] at hq ⊢
        obtain ⟨f, hf, hi⟩ := w.carried e0 h0 hq (by simp)
        have hgg : e0.kind.gallery ≠ g := by
          intro hh
          rw [hh, idle] at hf
          exact absurd hf (by simp)
        exact ⟨f, by rw [fo _ hgg]; exact hf, hi⟩
    · intro e he hx; simp at hx
    · intro g' hv
      by_cases h : g' = g
      · subst h
        exact ⟨d', m.mem.2 ⟨d, hd, by simp⟩, by rw [k']; exact hg, a'⟩
      · rw [vo g' h] at hv
        obtain ⟨e, he, h1, h2⟩ := w.valves g' hv
        have hne : e.id ≠ d.id := by
          intro hi
          rw [hone e he hi, hg] at h1
          exact h h1.symm
        exact ⟨e, m.mem.2 ⟨e, he, by simp [hne]⟩, h1, h2⟩
  refine ⟨(same.quiet none wu).1, ?_⟩
  intro e he ha
  rw [same.transfers] at he
  obtain ⟨e0, h0, rfl⟩ := m.mem.1 he
  by_cases h : e0.id = d.id
  · simp only [h, if_true]
    exact .inl ⟨c', k'⟩
  · simp only [h, if_false] at ha ⊢
    exact .inr ⟨e0, h0, ha, rfl, rfl⟩

theorem quiet_passOver (s : State) (id : Nat) (cs : List Candidate) (ex : Option Nat) :
    Quiet ex ex s (s.passOver id cs) := by
  induction cs generalizing s with
  | nil => exact .refl _ _
  | cons c r ih =>
    unfold State.passOver
    split
    · exact ih s
    · exact (quiet_setWait s _ _ ex).trans (ih _)

/-! ### The scan -/

theorem walkSlots_mem {w : Settings} {p : Nat} {cs : List Candidate} {slot : Nat} {c : Candidate}
    (h : walkSlots w p cs = some (slot, c)) : c ∈ cs := by
  unfold walkSlots at h
  obtain ⟨i, -, hi⟩ := List.exists_of_findSome?_eq_some h
  cases hf : cs.find? (fun c => c.desc.cls == w.slot i) with
  | none => simp [hf] at hi
  | some c' =>
    simp only [hf, Option.map_some, Option.some.injEq, Prod.mk.injEq] at hi
    rw [← hi.2]
    exact List.mem_of_find?_eq_some hf

/-- A scan keeps the records whole and the restrictions met. -/
theorem scanGallery_law (g : Gallery) (e : Ev) (w : Whole none e.st) (r : Restrained e.st) :
    Whole none (e.scanGallery g).st ∧ Restrained (e.scanGallery g).st := by
  have fx := Ev.scanGallery_fixed g e
  revert fx
  unfold Ev.scanGallery
  split
  · next hidle =>
    have ok0 : ∀ c ∈ ([] : List Candidate), CandidateOk e.st g c := by simp
    obtain ⟨q, ok⟩ := testAll_law g e.st.transferIds (e, []) ok0
    have fxT := Ev.testAll_fixed g e.st.transferIds (e, [])
    generalize Ev.testAll g e.st.transferIds (e, []) = acc at *
    obtain ⟨w1, a1⟩ := q w
    have r1 : Restrained acc.1.st := r.of_air fxT a1
    have idle1 : (acc.1.st.glc.galleries.get g).flight = none := by
      refine a1.idle g ?_
      simpa [State.idle] using hidle
    dsimp only
    split
    · next slot c hc =>
      intro fx
      have hmem := walkSlots_mem hc
      rw [List.mem_filter] at hmem
      obtain ⟨-, hgal, hu⟩ := ok c hmem.1
      have hd : c.desc ∈ acc.1.st.transfers := by
        have : acc.1.st.descAt c.desc.id = some c.desc := by simpa using hmem.2
        exact (State.mem_of_descAt this).1
      obtain ⟨w2, air⟩ := grant_law acc.1.st g slot c.desc c.goal w1 hd hgal idle1
      rw [Ev.on_st] at fx ⊢
      obtain ⟨w3, a3⟩ := quiet_passOver (acc.1.st.grant g slot c.desc c.goal) c.desc.id
        (acc.2.filter fun c => acc.1.st.descAt c.desc.id == some c.desc) none w2
      refine ⟨w3, ?_⟩
      have fg : (acc.1.st.grant g slot c.desc c.goal).fixed = acc.1.st.fixed := State.grant_fixed _ _ _ _ _
      refine Restrained.of_air (State.passOver_fixed _ _ _) a3 ?_
      rw [restrained_iff] at r1 ⊢
      intro d' hd' ha'
      rcases air d' hd' ha' with ⟨hc', hk'⟩ | ⟨e0, h0, a0, c0, k0⟩
      · exact hu.of_fixed fg hc' hk'
      · exact (r1 e0 h0 a0).of_fixed fg c0.symm k0.symm
    · intro _; exact ⟨w1, r1⟩
  · intro _; exact ⟨w, r⟩

/-- The scans of an event keep the records whole and the restrictions met. -/
theorem scans_law (n : Nat) (e : Ev) (w : Whole none e.st) (r : Restrained e.st) :
    Whole none (e.scans n).st ∧ Restrained (e.scans n).st := by
  induction n generalizing e with
  | zero => exact ⟨w, r⟩
  | succ n ih =>
    unfold Ev.scans
    split
    · obtain ⟨w1, r1⟩ := scanGallery_law .a { e with scan := e.scan.set .a false } w r
      exact ih _ w1 r1
    · split
      · obtain ⟨w1, r1⟩ := scanGallery_law .b { e with scan := e.scan.set .b false } w r
        exact ih _ w1 r1
      · exact ⟨w, r⟩

/-- An event with no scan to take. -/
theorem scans_none (n : Nat) (e : Ev) (ha : e.scan.a = false) (hb : e.scan.b = false) : e.scans n = e := by
  cases n with
  | zero => rfl
  | succ n => simp [Ev.scans, ha, hb]

end Sys2Proof.Machine
end

