-- ==== Sys2Proof/Laws/Restrictions.lean ====
section
/-! SUPPORT. The cuts: an operation that puts a restriction in force cuts every step that it bars (R50, R93, R96). -/

set_option Elab.async false

namespace Sys2Proof.Machine

/-- A test that reads the class and the step kind alone. -/
def Steady (test : Desc → Bool) : Prop := ∀ d e : Desc, d.cls = e.cls → d.kind = e.kind → test d = test e

theorem steady_true : Steady fun _ => true := fun _ _ _ _ => rfl
theorem steady_movesDeck : Steady fun d => d.cls.movesDeck := fun d e c _ => by simp only [c]
theorem steady_isFill : Steady fun d => d.kind.isFill := fun d e _ k => by simp only [k]

theorem cutIf_still (s : State) (g : Gallery) {test : Desc → Bool} (st : Steady test) (w : Whole none s) :
    ∀ d ∈ (s.cutIf g test).transfers, d.kind.gallery = g → test d = true → d.state.airMoves = false := by
  intro d hd hg ht
  by_contra hne
  have ha : d.state.airMoves = true := by simpa using hne
  obtain ⟨-, af⟩ := quiet_cutIf s g test none w
  obtain ⟨d0, h0, a0, -, c0, k0⟩ := af.air d hd ha
  have hq0 : d0.state ≠ .queued := by intro h; rw [h] at a0; exact absurd a0 (by decide)
  have hs : s.served g = some d0 := by
    have := w.served_of h0 hq0 (by simp)
    rwa [k0, hg] at this
  have ht0 : test d0 = true := by rw [st d0 d c0 k0]; exact ht
  unfold State.cutIf at hd
  rw [hs] at hd
  simp only [ht0, if_true] at hd
  exact hne ((endStep_law s g .cut none w).2.2 d hd hg)

/-- A cut on both galleries leaves no air moving that meets its test (R92). -/
theorem cutBoth_still (s : State) {test : Desc → Bool} (st : Steady test) (w : Whole none s) :
    AirStill (s.cutBoth test) test := by
  intro d hd ht
  obtain ⟨w1, -⟩ := quiet_cutIf s .a test none w
  obtain ⟨-, a2⟩ := quiet_cutIf (s.cutIf .a test) .b test none w1
  by_contra hne
  have ha : d.state.airMoves = true := by simpa using hne
  cases hg : d.kind.gallery with
  | b => exact hne (cutIf_still _ .b st w1 d hd hg ht)
  | a =>
    obtain ⟨d0, h0, a0, -, c0, k0⟩ := a2.air d hd ha
    have := cutIf_still s .a st w d0 h0 (by rw [k0]; exact hg) (by rw [st d0 d c0 k0]; exact ht)
    rw [this] at a0
    exact absurd a0 (by decide)

/-- A decision that turns brake priority ON leaves no fill moving air (R50). -/
theorem brakeDecision_still (e : Ev) (w : Whole none e.st) (off : e.st.aac.priority = false)
    (on : e.st.nextPriority = true) : AirStill e.brakeDecision.st fun d => d.kind.isFill := by
  have h : SameRecords e.st (Ev.latch .brakePriority [] (e.on fun s => { s with aac.priority := true })).st := by
    refine SameRecords.trans ?_ (same_latch _ _ _)
    exact .aside
  have hb : e.brakeDecision.st = ((Ev.latch .brakePriority [] (e.on fun s => { s with aac.priority := true })).st).cutBoth
      fun d => d.kind.isFill := by
    unfold Ev.brakeDecision
    simp [on, off]
  rw [hb]
  exact cutBoth_still _ steady_isFill (h.quiet none w).1

/-- An update that puts the hold in force leaves no HEIGHT or LIFT step moving air (R93). -/
theorem holdUpdate_still (old : Vehicle) (e : Ev) (w : Whole none e.st)
    (free : (old.braking || old.speedState == .unknown) = false) (held : e.st.held = true) :
    AirStill (e.holdUpdate old).st fun d => d.cls.movesDeck := by
  have hc : (e.st.tgu.vehicle.braking && !old.braking ||
      e.st.tgu.vehicle.speedState == .unknown && old.speedState != .unknown) = true := by
    unfold State.held State.speedState at held
    cases hb : old.braking <;> cases hu : (old.speedState == SpeedState.unknown) <;> simp [hb, hu] at free
    simp only [Bool.or_eq_true] at held
    rcases held with h | h
    · simp [h]
    · simp only [beq_eq_false_iff_ne, ne_eq] at hu
      simp [h, hu]
  have hs : (e.holdUpdate old).st = e.st.cutBoth fun d => d.cls.movesDeck := by
    unfold Ev.holdUpdate
    dsimp only
    rw [if_pos hc]
    split <;> simp
  rw [hs]
  exact cutBoth_still _ steady_movesDeck w

end Sys2Proof.Machine
end

