-- ==== Sys2Proof/Laws/Close.lean ====
section
/-! SUPPORT. The end of an event and the two ways into one: what queueing changes (R148), what a request and an event come to. -/

set_option Elab.async false

namespace Sys2Proof.Machine

/-! ### Queueing -/

theorem Queued.refl (s : State) : Queued s s := rfl

theorem Queued.trans {s t u : State} (h : Queued s t) (k : Queued t u) : Queued s u := by
  unfold Queued at *
  rw [k]
  rw [h]

theorem Queued.same {s t : State} (h : Queued s t) : SameRecords s t := by
  unfold Queued at h
  rw [h]
  exact .aside

theorem Queued.link {s t : State} (h : Queued s t) : SameLink s t := by
  unfold Queued at h
  rw [h]
  rfl

theorem Queued.fixed {s t : State} (h : Queued s t) :
    t.fixed = { s.fixed with lku := t.lku, freeCount := t.freeCount } := by
  unfold Queued at h
  rw [h]
  rfl

theorem queued_settleHead (s : State) : Queued s s.settleHead := by
  unfold State.settleHead
  split
  · split <;> rfl
  · rfl

theorem queued_enqueue (s : State) (m : OutMsg) : Queued s (s.enqueue m).1 := by
  unfold State.enqueue
  split
  · rfl
  · split
    · dsimp only
      split
      · exact (queued_settleHead s).trans rfl
      · rfl
    · rfl

theorem queued_enqueueAll (ms : List OutMsg) (s : State) : Queued s (s.enqueueAll ms) := by
  induction ms generalizing s with
  | nil => rfl
  | cons m r ih => exact (queued_enqueue s m).trans (ih _)

/-- The end of an event: its scans, and then nothing but queueing. -/
theorem queued_close (reply : Option OutMsg) (e : Ev) : Queued (e.scans scanBound).st (e.close reply) :=
  queued_enqueueAll _ _

/-- The fixed fields at the end of an event. -/
theorem close_fixed (reply : Option OutMsg) (e : Ev) :
    (e.close reply).fixed = { e.st.fixed with lku := (e.close reply).lku, freeCount := (e.close reply).freeCount } := by
  have h := (queued_close reply e).fixed
  rw [Ev.scans_fixed] at h
  exact h

/-- The link unit at the end of an event. -/
theorem close_link (reply : Option OutMsg) (e : Ev) : SameLink e.st (e.close reply) := by
  have h := (queued_close reply e).link
  unfold SameLink at *
  rw [h]
  have : (e.scans scanBound).st.lku = e.st.lku := congrArg Fixed.lku (Ev.scans_fixed _ _)
  rw [this]

/-- The end of an event that starts no scan. -/
theorem close_noScan (reply : Option OutMsg) (e : Ev) (ha : e.scan.a = false) (hb : e.scan.b = false) :
    e.close reply = e.st.enqueueAll (reply.toList ++ e.out) := by
  unfold Ev.close
  rw [scans_none _ _ ha hb]

/-- The end of an event keeps the records whole and the restrictions met. -/
theorem close_law (reply : Option OutMsg) (e : Ev) (w : Whole none e.st) (r : Restrained e.st) :
    Whole none (e.close reply) ∧ Restrained (e.close reply) := by
  obtain ⟨w1, r1⟩ := scans_law scanBound e w r
  have q := queued_close reply e
  obtain ⟨w2, a2⟩ := q.same.quiet none w1
  refine ⟨w2, ?_⟩
  rw [restrained_iff] at r1 ⊢
  intro d hd ha
  obtain ⟨d0, h0, a0, -, c, k⟩ := a2.air d hd ha
  have u := r1 d0 h0 a0
  have e1 : (e.close reply).glc.stop = (e.scans scanBound).st.glc.stop := congrArg Fixed.stop q.fixed
  have e2 : (e.close reply).tgu.vehicle = (e.scans scanBound).st.tgu.vehicle := congrArg Fixed.vehicle q.fixed
  have e3 : (e.close reply).aac.priority = (e.scans scanBound).st.aac.priority := congrArg Fixed.priority q.fixed
  refine ⟨by rw [e1]; exact u.stop, ?_, ?_⟩
  · intro hm
    have := u.hold (by rw [c]; exact hm)
    unfold State.held State.speedState at this ⊢
    rw [e2]; exact this
  · intro hk
    rw [e3]; exact u.brake (by rw [k]; exact hk)

/-! ### Requests and events -/

/-- A request that passes its common checks. -/
theorem request_taken {c : Instr} {h : Hdr} {code : Nat} {handler : Ev → Ev × Answer} {ff : Answer → Bool} {s : State}
    (run : s.sts.phase ≠ .reset) (ok : (s.receive h c).1.commonRefusal h code = none) :
    request c h code handler ff s =
      (handler (Ev.of (s.receive h c).1)).1.close
        (if h.noReply || silentKind code then none
         else some ((s.receive h c).1.reply h (byteOf code)
          (if ff (handler (Ev.of (s.receive h c).1)).2 then
              (s.receive h c).2.getD ((s.receive h c).1.ws.address h.sender)
            else (s.receive h c).1.ws.address h.sender) (handler (Ev.of (s.receive h c).1)).2)) := by
  unfold request
  rw [if_neg run]
  dsimp only
  rw [ok]

/-- A request that a common check refuses. -/
theorem request_refused {c : Instr} {h : Hdr} {code : Nat} {handler : Ev → Ev × Answer} {ff : Answer → Bool} {s : State}
    {r : Reason} (run : s.sts.phase ≠ .reset) (no : (s.receive h c).1.commonRefusal h code = some r) :
    request c h code handler ff s =
      (Ev.of (s.receive h c).1).close
        (if repliesToRefusal h code r then
          some ((s.receive h c).1.reply h (byteOf code) ((s.receive h c).1.ws.address h.sender) (.refused r)) else none) := by
  unfold request
  rw [if_neg run]
  dsimp only
  rw [no]

/-- A request while the reset line is asserted. -/
theorem request_reset {c : Instr} {h : Hdr} {code : Nat} {handler : Ev → Ev × Answer} {ff : Answer → Bool} {s : State}
    (r : s.sts.phase = .reset) : request c h code handler ff s = s := by
  unfold request
  rw [if_pos r]

theorem event_run {f : Ev → Ev} {s : State} (run : s.sts.phase ≠ .reset) : event f s = (f (Ev.of s)).close none := by
  unfold event
  rw [if_neg run]

theorem event_reset {f : Ev → Ev} {s : State} (r : s.sts.phase = .reset) : event f s = s := by
  unfold event
  rw [if_pos r]

theorem portEvent_run {f : State → State} {s : State} (run : s.sts.phase ≠ .reset) : portEvent f s = f s := by
  unfold portEvent
  rw [if_neg run]

theorem portEvent_reset {f : State → State} {s : State} (r : s.sts.phase = .reset) : portEvent f s = s := by
  unfold portEvent
  rw [if_pos r]

/-- What the receipt of a request may change: the receivers' frames, and the panel link's timer and state. -/
theorem receive_st (s : State) (h : Hdr) (c : Instr) :
    (s.receive h c).1 =
      { s with
        lku.fifo := (s.receive h c).1.lku.fifo
        lku.good := (s.receive h c).1.lku.good
        lku.panelSilence := (s.receive h c).1.lku.panelSilence
        lku.panelLink := (s.receive h c).1.lku.panelLink } := by
  unfold State.receive State.takeFrame
  dsimp only
  split
  · split
    · split
      · split <;> rfl
      · rfl
    · split
      · split <;> rfl
      · rfl
  · split
    · split
      · split <;> rfl
      · rfl
    · split
      · split <;> rfl
      · rfl

theorem same_receive (s : State) (h : Hdr) (c : Instr) : SameRecords s (s.receive h c).1 := by
  rw [receive_st]; exact .aside

theorem receive_fixed (s : State) (h : Hdr) (c : Instr) :
    (s.receive h c).1.fixed = { s.fixed with lku := (s.receive h c).1.lku } := by
  rw [receive_st]; rfl

@[simp] theorem receive_phase (s : State) (h : Hdr) (c : Instr) : (s.receive h c).1.sts.phase = s.sts.phase := by
  rw [receive_st]

end Sys2Proof.Machine
end

