-- ==== Sys2Proof/Laws/Effects.lean ====
section
/-! SUPPORT. What the larger operations of an event do to the fixed fields: the fields that they write, and that they write no others. -/

set_option Elab.async false

namespace Sys2Proof.Machine

/-! ### Views that read fixed fields alone -/

theorem ws_of_fixed {s t : State} (h : t.fixed = s.fixed) : t.ws = s.ws := congrArg (fun f => f.sts.ws) h
theorem speedState_of_fixed {s t : State} (h : t.fixed = s.fixed) : t.speedState = s.speedState :=
  congrArg (fun f => f.vehicle.speedState) h
theorem held_of_fixed {s t : State} (h : t.fixed = s.fixed) : t.held = s.held :=
  congrArg (fun f : Fixed => f.vehicle.braking || f.vehicle.speedState == .unknown) h
theorem pressure_of_fixed {s t : State} (h : t.fixed = s.fixed) (n : Node) : t.pressure n = s.pressure n :=
  congrArg (fun f => if (f.msu.nodes.get n).valid then some (f.msu.nodes.get n).value else none) h
theorem height_of_fixed {s t : State} (h : t.fixed = s.fixed) (sd : Side) : t.height sd = s.height sd :=
  congrArg (fun f => (f.msu.heights.get sd).filtered) h

/-- The nominal target that a set of fixed fields gives (R100). -/
def Fixed.nominal (f : Fixed) : Nat :=
  match f.mode with
  | .road => f.sts.ws.nominal .road
  | .field => f.sts.ws.nominal .field
  | .loading => f.sts.ws.nominal f.basis

theorem nominal_eq (s : State) : s.nominal = s.fixed.nominal := rfl

/-- The decision of R49 as a function of the record, the flag and BRAKE_MIN. -/
def priorityOf_ (v : Vehicle) (flag : Bool) (brakeMin : Nat) : Bool :=
  if flag then !(holdsOf v.brakePressure (fun g => decide (brakeMin + brakeHysteresis ≤ g)) && v.speedState != .unknown)
  else !holdsOf v.brakePressure (fun g => decide (brakeMin ≤ g)) || v.speedState == .unknown

theorem nextPriority_eq (s : State) : s.nextPriority = priorityOf_ s.tgu.vehicle s.aac.priority s.ws.brakeMin := rfl

/-! ### Mode and guard -/

/-- A change of mode at the height loop writes the target, and nothing in LOADING. -/
theorem heightMode_fixed (b : Bool) (e : Ev) :
    (e.heightMode b).1.st.fixed =
      { e.st.fixed with target := if e.st.tgu.mode = .loading then e.st.hlc.target else e.st.nominal } := by
  have h : (e.on fun s => s.stopPersist.beaconSync).st.fixed = e.st.fixed := by simp
  have hm : (e.on fun s => s.stopPersist.beaconSync).st.tgu.mode = e.st.tgu.mode := congrArg Fixed.mode h
  unfold Ev.heightMode
  dsimp only
  rw [hm]
  split
  · rw [h]; rfl
  · rw [Ev.retarget_fixed, h, nominal_eq, h, ← nominal_eq]

/-- A change of mode writes the mode, its basis and the height target. -/
theorem changeMode_fixed (m : Mode) (e : Ev) :
    (e.changeMode m).st.fixed =
      { e.st.fixed with
        mode := m
        basis := m.basis e.st.tgu.basis
        target := match m with
          | .road => e.st.ws.nominal .road
          | .field => e.st.ws.nominal .field
          | .loading => e.st.hlc.target } := by
  unfold Ev.changeMode
  dsimp only
  generalize (m.basis e.st.tgu.basis != e.st.tgu.basis) = change
  have h2 : ∀ e2 : Ev, e2.st.fixed = (e.st.setMode m).fixed → (e2.heightMode change).1.st.fixed =
      { e.st.fixed with
        mode := m
        basis := m.basis e.st.tgu.basis
        target := match m with
          | .road => e.st.ws.nominal .road
          | .field => e.st.ws.nominal .field
          | .loading => e.st.hlc.target } := by
    intro e2 h
    have hm : e2.st.tgu.mode = m := congrArg Fixed.mode h
    have ht : e2.st.hlc.target = e.st.hlc.target := congrArg Fixed.target h
    rw [heightMode_fixed, hm, ht, nominal_eq, h]
    cases m <;> rfl
  have h3 : (if m = .loading then (e.on fun s => s.setMode m).on State.freezeTyres
      else (e.on fun s => s.setMode m).recomputeAll (if change then .basis else .other)).st.fixed = (e.st.setMode m).fixed := by
    split <;> simp
  generalize (if m = .loading then (e.on fun s => s.setMode m).on State.freezeTyres
      else (e.on fun s => s.setMode m).recomputeAll (if change then .basis else .other)) = e2 at *
  have h4 := h2 _ h3
  split <;> split <;> simp only [Ev.triggerBoth_st, Ev.liftMode_fixed, Ev.basisAllocations_fixed] <;> exact h4

theorem guardOn_fixed (e : Ev) :
    e.guardOn.st.fixed = { e.st.fixed with guard := { on := true, overT := none, underT := none } } := by
  unfold Ev.guardOn
  rw [Ev.recomputeAll_fixed, Ev.latch_fixed]
  rfl

theorem guardOff_fixed (e : Ev) :
    e.guardOff.st.fixed = { e.st.fixed with guard := { on := false, overT := none, underT := none } } := by
  unfold Ev.guardOff
  rw [Ev.recomputeAll_fixed]
  rfl

/-- An update at the speed guard writes the guard. -/
theorem guardUpdate_fixed (e : Ev) : ∃ g, e.guardUpdate.st.fixed = { e.st.fixed with guard := g } := by
  unfold Ev.guardUpdate
  dsimp only
  split
  · split <;> exact ⟨_, rfl⟩
  · split
    · exact ⟨_, guardOn_fixed e⟩
    · split <;> exact ⟨_, rfl⟩

/-- The forcing of ROAD writes the mode, its basis, the height target and the authority. -/
theorem forceMode_fixed (x : SpeedState) (e : Ev) :
    ∃ m b t h a, (e.forceMode x).st.fixed =
      { e.st.fixed with mode := m, basis := b, target := t, holder := h, authT := a } := by
  unfold Ev.forceMode
  split
  · rw [changeMode_fixed, Ev.lapse_fixed, Ev.latch_fixed]
    split <;> exact ⟨_, _, _, _, _, rfl⟩
  · exact ⟨_, _, _, _, _, rfl⟩

/-- A change of the speed state at the height loop writes the height target and the authority. -/
theorem heightSpeed_fixed (x : SpeedState) (e : Ev) :
    ∃ t h a, (e.heightSpeed x).st.fixed = { e.st.fixed with target := t, holder := h, authT := a } := by
  have h2 : ∃ h a, (if x = .standstill then e.on State.stopPersist else (e.on State.stopPersist).lapse).st.fixed =
      { e.st.fixed with holder := h, authT := a } := by
    split
    · exact ⟨_, _, rfl⟩
    · rw [Ev.lapse_fixed]
      split <;> exact ⟨_, _, rfl⟩
  obtain ⟨h, a, hh⟩ := h2
  unfold Ev.heightSpeed
  dsimp only
  split
  · rw [Ev.autoRideReturn_fixed, hh]
    exact ⟨_, _, _, rfl⟩
  · rw [hh]
    exact ⟨_, _, _, rfl⟩

/-- An update of the vehicle state record writes the record, brake priority by the table of R49, and, of the other fixed fields, the
guard, the mode, the height target and the authority at most. -/
theorem vehicleUpdate_fixed (v : Vehicle) (e : Ev) :
    ∃ g m b t h a, (e.vehicleUpdate v).st.fixed =
      { e.st.fixed with
        vehicle := v, guard := g, mode := m, basis := b, target := t, holder := h, authT := a
        priority := priorityOf_ v e.st.aac.priority e.st.ws.brakeMin } := by
  unfold Ev.vehicleUpdate
  dsimp only
  obtain ⟨g, hg⟩ := guardUpdate_fixed (e.on fun s => { s with tgu.vehicle := v })
  generalize Ev.guardUpdate (e.on fun s => { s with tgu.vehicle := v }) = e1 at *
  have h2 : ∃ m b t h a, (if (v.speedState != e.st.tgu.vehicle.speedState) = true then e1.forceMode v.speedState
      else e1).st.fixed = { e.st.fixed with
        vehicle := v, guard := g, mode := m, basis := b, target := t, holder := h, authT := a } := by
    split
    · obtain ⟨m, b, t, h, a, hf⟩ := forceMode_fixed v.speedState e1
      rw [hf, hg]
      exact ⟨m, b, t, h, a, rfl⟩
    · rw [hg]
      exact ⟨_, _, _, _, _, rfl⟩
  obtain ⟨m, b, t, h, a, hf⟩ := h2
  generalize (if (v.speedState != e.st.tgu.vehicle.speedState) = true then e1.forceMode v.speedState else e1) = e2 at *
  have hp : e2.st.nextPriority = priorityOf_ v e.st.aac.priority e.st.ws.brakeMin := by
    rw [nextPriority_eq]
    have h1 : e2.st.tgu.vehicle = v := congrArg Fixed.vehicle hf
    have h2 : e2.st.aac.priority = e.st.aac.priority := congrArg Fixed.priority hf
    have h3 : e2.st.ws = e.st.ws := congrArg (fun f => f.sts.ws) hf
    rw [h1, h2, h3]
  have h3 : ((e2.brakeDecision.holdUpdate e.st.tgu.vehicle).brakingUpdate e.st.tgu.vehicle).st.fixed =
      { e.st.fixed with
        vehicle := v, guard := g, mode := m, basis := b, target := t, holder := h, authT := a
        priority := priorityOf_ v e.st.aac.priority e.st.ws.brakeMin } := by
    rw [Ev.brakingUpdate_fixed, Ev.holdUpdate_fixed, Ev.brakeDecision_fixed, hf, hp]
  split
  · rw [Ev.on_st, State.liftTimerTest_fixed]
    obtain ⟨t', h', a', hs⟩ := heightSpeed_fixed v.speedState
      ((e2.brakeDecision.holdUpdate e.st.tgu.vehicle).brakingUpdate e.st.tgu.vehicle)
    rw [hs, h3]
    exact ⟨g, m, b, t', h', a', rfl⟩
  · rw [h3]
    exact ⟨g, m, b, t, h, a, rfl⟩

/-- The loss of the brake link. -/
theorem brakeLinkLost_fixed (e : Ev) :
    ∃ g m b t h a, e.brakeLinkLost.st.fixed =
      { e.st.fixed with
        vehicle := e.st.tgu.vehicle.lost, guard := g, mode := m, basis := b, target := t, holder := h, authT := a
        priority := priorityOf_ e.st.tgu.vehicle.lost e.st.aac.priority e.st.ws.brakeMin
        brakeOk := PerMaster.fill false } := by
  unfold Ev.brakeLinkLost
  obtain ⟨g, m, b, t, h, a, hv⟩ := vehicleUpdate_fixed e.st.tgu.vehicle.lost (Ev.latch .brakeLinkLost [] (e.on State.brakeLow))
  rw [hv, Ev.latch_fixed]
  have h1 : (Ev.latch .brakeLinkLost [] (e.on State.brakeLow)).st.aac.priority = e.st.aac.priority :=
    congrArg Fixed.priority (Ev.latch_fixed (e.on State.brakeLow) _ _)
  have h2 : (Ev.latch .brakeLinkLost [] (e.on State.brakeLow)).st.ws = e.st.ws :=
    congrArg (fun f => f.sts.ws) (Ev.latch_fixed (e.on State.brakeLow) _ _)
  rw [h1, h2]
  exact ⟨g, m, b, t, h, a, rfl⟩

/-! ### Arrivals -/

/-- A bellows arrival at the load and lift unit writes the side's load and its freshness timer. -/
theorem settledLoad_fixed (sd : Side) (e : Ev) :
    (e.settledLoad sd).st.fixed =
      match e.st.pressure sd.bellows.node with
      | some g =>
        if e.st.llu.heightStep then e.st.fixed
        else
          { e.st.fixed with
            load := e.st.llu.load.set sd (some (sideLoad g e.st.ws.lf))
            fresh := e.st.llu.fresh.set sd (e.st.timer freshnessTime) }
      | none => e.st.fixed := by
  unfold Ev.settledLoad
  split
  · next h => rw [h]
  · next g h =>
    rw [h]
    dsimp only
    split
    · rfl
    · split
      · rfl
      · rw [Ev.overloadTest_fixed, Ev.on_st, State.liftTimerTest_fixed, Ev.recomputeSide_fixed]
        rfl

theorem firstLft_fixed (e : Ev) : e.firstLft.st.fixed = { e.st.fixed with lftSeen := true } := by
  unfold Ev.firstLft
  split
  · next h => rw [← h]; rfl
  · rw [Ev.setLift_fixed]; rfl

/-- The air account at an RSV arrival writes the reported headroom, the supply condition and the recovery reference. -/
theorem supplyArrival_fixed (s : State) :
    ∃ x r, s.supplyArrival.fixed = { s.fixed with reported := s.headroom, supply := x, recovery := r } := by
  unfold State.supplyArrival State.supplyReading State.openWindow
  dsimp only
  split
  · split
    · split
      · split
        · exact ⟨_, _, rfl⟩
        · split <;> exact ⟨_, _, rfl⟩
      · split <;> exact ⟨_, _, rfl⟩
    · split
      · split
        · exact ⟨_, _, rfl⟩
        · split
          · split <;> exact ⟨_, _, rfl⟩
          · exact ⟨_, _, rfl⟩
      · exact ⟨_, _, rfl⟩
  · exact ⟨_, _, rfl⟩

/-- A height arrival at the lockout writes the recovery counts. -/
theorem heightSensor_fixed (sd : Side) (v r : Bool) (e : Ev) :
    ∃ c, (e.heightSensor sd v r).st.fixed = { e.st.fixed with recounts := c } := by
  unfold Ev.heightSensor
  split
  · split <;> exact ⟨_, rfl⟩
  · dsimp only
    split
    · split
      · rw [Ev.latch_fixed]; exact ⟨_, rfl⟩
      · rw [Ev.addCause_fixed, Ev.latch_fixed]; exact ⟨_, rfl⟩
    · exact ⟨_, rfl⟩

theorem rsvArrival_fixed (e : Ev) : e.rsvArrival.st.fixed = e.st.fixed := by
  unfold Ev.rsvArrival; dsimp only; split <;> simp
theorem pressureEnds_fixed (m : Managed) (e : Ev) : (e.pressureEnds m).st.fixed = e.st.fixed := by simp [Ev.pressureEnds]
theorem watch_fixed (n : Node) (e : Ev) : (e.watch n).st.fixed = e.st.fixed := by
  unfold Ev.watch; split <;> simp

/-- What a pressure arrival may write among the fixed fields beside the readings. -/
theorem pressureReceivers_fixed (n : Node) (e : Ev) :
    ∃ rep sup rec ld fr lf, (e.pressureReceivers n).st.fixed =
      { e.st.fixed with reported := rep, supply := sup, recovery := rec, load := ld, fresh := fr, lftSeen := lf } := by
  have h : ∀ e1 : Ev, ((e1.watch n).sensorFault n).st.fixed = e1.st.fixed := fun e1 => by
    rw [Ev.sensorFault_fixed, watch_fixed]
  unfold Ev.pressureReceivers
  rw [h]
  split
  · rw [rsvArrival_fixed, Ev.on_st]
    obtain ⟨x, r, hx⟩ := supplyArrival_fixed e.st
    rw [hx]; exact ⟨_, _, _, _, _, _, rfl⟩
  · rw [pressureEnds_fixed, settledLoad_fixed]
    split
    · split <;> exact ⟨_, _, _, _, _, _, rfl⟩
    · exact ⟨_, _, _, _, _, _, rfl⟩
  · rw [pressureEnds_fixed, settledLoad_fixed]
    split
    · split <;> exact ⟨_, _, _, _, _, _, rfl⟩
    · exact ⟨_, _, _, _, _, _, rfl⟩
  · rw [pressureEnds_fixed]
    unfold Ev.lftArrival
    rw [Ev.liftAuto_fixed, firstLft_fixed]
    exact ⟨_, _, _, _, _, _, rfl⟩
  · split
    · rw [pressureEnds_fixed, Ev.tyreLoop_fixed]; exact ⟨_, _, _, _, _, _, rfl⟩
    · exact ⟨_, _, _, _, _, _, rfl⟩

/-- A height arrival writes the recovery counts among the fixed fields beside the readings. -/
theorem heightReceivers_fixed (sd : Side) (v r : Bool) (e : Ev) :
    ∃ c, (e.heightReceivers sd v r).st.fixed = { e.st.fixed with recounts := c } := by
  obtain ⟨c, hc⟩ := heightSensor_fixed sd v r e
  unfold Ev.heightReceivers
  dsimp only
  rw [Ev.heightEnd_fixed, Ev.heightEnd_fixed]
  split
  · rw [Ev.heightHandOff_fixed, hc]; exact ⟨c, rfl⟩
  · rw [hc]; exact ⟨c, rfl⟩

/-! ### Step timers -/

@[simp] theorem State.openExpiry_fixed (s : State) (g : Gallery) : (s.openExpiry g).fixed = s.fixed := by
  unfold State.openExpiry; split <;> simp
@[simp] theorem State.stepExpiry_fixed (s : State) (g : Gallery) : (s.stepExpiry g).fixed = s.fixed := by
  unfold State.stepExpiry; split <;> simp
@[simp] theorem State.leaveClosing_fixed (s : State) (c : Cls) : (s.leaveClosing c).fixed = s.fixed := by
  unfold State.leaveClosing; split <;> simp
@[simp] theorem Ev.closeExpiry_fixed (g : Gallery) (e : Ev) : (e.closeExpiry g).st.fixed = e.st.fixed := by
  unfold Ev.closeExpiry; split
  · dsimp only; split <;> simp
  · rfl
@[simp] theorem Ev.settleExpiry_fixed (g : Gallery) (e : Ev) : (e.settleExpiry g).st.fixed = e.st.fixed := by
  unfold Ev.settleExpiry; dsimp only; split <;> simp

theorem State.servedIn_some {s : State} {g : Gallery} {x : DescState} {d : Desc} (h : s.servedIn g x = some d) :
    s.served g = some d ∧ d.state = x := by
  unfold State.servedIn at h
  split at h
  · split at h
    · next hs hx => simp only [Option.some.injEq] at h; subst h; exact ⟨hs, hx⟩
    · simp at h
  · simp at h

theorem SameRecords.served {s t : State} (h : SameRecords s t) (g : Gallery) : t.served g = s.served g := by
  unfold State.served
  have := h.flight g
  cases hs : (s.glc.galleries.get g).flight with
  | none => rw [idle_of_ids h.flight g hs]; rfl
  | some f =>
    cases ht : (t.glc.galleries.get g).flight with
    | none => simp [hs, ht] at this
    | some f' =>
      have e : f'.id = f.id := by simpa [hs, ht] using this
      simp only [Option.bind_some, e]
      unfold State.descAt
      rw [State.findDesc_eq, State.findDesc_eq, h.transfers]

theorem quiet_openExpiry (s : State) (g : Gallery) : Quiet none none s (s.openExpiry g) := by
  unfold State.openExpiry
  split
  · next d _ hd =>
    obtain ⟨hs, hx⟩ := State.servedIn_some hd
    have sr := sameRecords_modGallery s g (fun x => { x with openT := none }) (fun x => rfl)
    intro w
    obtain ⟨hm, -⟩ := w.of_served hs
    refine ((sr.quiet none).trans (quiet_modDesc _ d.id _ none ?_)) w
    intro c hc hi
    rw [sr.transfers] at hc
    rw [w.unique hc hm hi]
    exact ⟨rfl, rfl, rfl, fun h => ⟨h.names, h.takes⟩, .inr ⟨rfl, by rw [hx]; simp, by simp, by rw [hx]; rfl⟩⟩
  · exact .refl _ _

theorem quiet_stepExpiry (s : State) (g : Gallery) : Quiet none none s (s.stepExpiry g) := by
  unfold State.stepExpiry; split
  · exact quiet_endStep _ _ _ _
  · exact .refl _ _

theorem same_leaveClosing (s : State) (c : Cls) : SameRecords s (s.leaveClosing c) := by
  unfold State.leaveClosing; split
  · exact same_stepCloses _
  · exact .refl _

theorem quiet_closeExpiry (g : Gallery) (e : Ev) : Quiet none none e.st (e.closeExpiry g).st := by
  unfold Ev.closeExpiry
  split
  · next d _ hd =>
    obtain ⟨hs, hx⟩ := State.servedIn_some hd
    have hl : SameRecords e.st (e.on fun s => s.leaveClosing d.cls).st := same_leaveClosing _ _
    generalize (e.on fun s => s.leaveClosing d.cls) = e1 at *
    intro w
    obtain ⟨w1, -⟩ := hl.quiet none w
    have hs1 : e1.st.served g = some d := by rw [hl.served]; exact hs
    obtain ⟨hm, -⟩ := w1.of_served hs1
    dsimp only
    split
    · exact ((hl.quiet none).trans ((quiet_finishStep g e1 hs1 (by rw [hx]; rfl)).trans
        (quiet_freeTransfer_ex d _ _ ⟨d, by rw [finishStep_transfers]; exact hm, rfl⟩))) w
    · have sr := sameRecords_modGallery e1.st g
        (fun x => { x with closeT := none, settleT := e1.st.timer (e1.st.ws.settle.get d.cls) }) (fun x => rfl)
      refine (((hl.quiet none).trans (sr.quiet none)).trans (quiet_modDesc _ d.id _ none ?_)) w
      intro c hc hi
      rw [sr.transfers] at hc
      rw [w1.unique hc hm hi]
      exact ⟨rfl, rfl, rfl, fun h => ⟨h.names, h.takes⟩, .inr ⟨rfl, by rw [hx]; simp, by simp, by rw [hx]; rfl⟩⟩
  · exact .refl _ _

theorem quiet_settleExpiry (g : Gallery) (e : Ev) : Quiet none none e.st (e.settleExpiry g).st := by
  unfold Ev.settleExpiry
  dsimp only
  split
  · next d _ hd =>
    obtain ⟨hs, hx⟩ := State.servedIn_some hd
    intro w
    obtain ⟨hm, -⟩ := w.of_served hs
    refine ((quiet_finishStep g e hs (by rw [hx]; rfl)).trans (quiet_evaluate d.id _ _ (.inl rfl) ⟨d, ?_⟩)) w
    have : (e.finishStep g).st.descAt d.id = e.st.descAt d.id := by
      unfold State.descAt
      rw [State.findDesc_eq, State.findDesc_eq, finishStep_transfers]
    rw [this]; exact w.pool.descAt hm
  · exact .refl _ _

end Sys2Proof.Machine
end

