-- ==== Sys2Proof/Laws/Cancel.lean ====
section
/-! SUPPORT. The teardown of the records that a CANCEL selects (R71, R72). -/

set_option Elab.async false

namespace Sys2Proof.Machine

theorem State.modDesc_keeps {s : State} {id : Nat} {r : LiveRec} (f : Desc → Desc) (h : r ∈ s.dqm.live) (n : r.id ≠ id) :
    r ∈ (s.modDesc id f).dqm.live := by
  unfold State.modDesc
  refine List.mem_map.2 ⟨r, h, ?_⟩
  cases r with
  | transfer c =>
    simp only [LiveRec.id_transfer] at n
    simp only [LiveRec.transfer.injEq]
    rw [if_neg n]
  | point p => rfl

theorem Ev.dropTransfer_keeps {e : Ev} {d : Desc} {r : LiveRec} (x : Ending) (h : r ∈ e.st.dqm.live) (n : r.id ≠ d.id) :
    r ∈ (e.dropTransfer d x).st.dqm.live := by
  unfold Ev.dropTransfer
  rw [Ev.on_st]
  have : (if x = .torn then e else e.endReports d x).st = e.st := by split <;> simp
  rw [this]
  exact List.mem_filter.2 ⟨h, by simpa using n⟩

theorem finishStep_live (g : Gallery) (e : Ev) : (e.finishStep g).st.dqm.live = e.st.dqm.live := by
  unfold Ev.finishStep
  rw [Ev.trigger_st, Ev.on_st]
  dsimp only
  split
  · rfl
  · next d _ =>
    have h := (same_resetMonitors d.nodes (e.st.modGallery g fun x =>
      { x with flight := none, openT := none, stepT := none, closeT := none, settleT := none })).live
    split
    · exact h.trans rfl
    · exact h.trans rfl

/-- The teardown of one live descriptor leaves every other live record. -/
theorem Ev.tearDown_keeps {b : TornBy} {d : Desc} {e : Ev} {r : LiveRec} (w : Whole none e.st) (hd : d ∈ e.st.transfers)
    (h : r ∈ e.st.dqm.live) (n : r.id ≠ d.id) : r ∈ (e.tearDown b d).1.st.dqm.live := by
  have td : ∀ e' : Ev, e'.st = e.st → r ∈ (e'.takeDown b d).1.st.dqm.live := by
    intro e' he
    unfold Ev.takeDown
    split
    · exact Ev.dropTransfer_keeps _ (by rw [he]; exact h) n
    · exact Ev.dropTransfer_keeps _ (by rw [finishStep_live, he]; exact h) n
    · exact State.modDesc_keeps _ (by rw [he]; exact h) n
    · next hq _ _ =>
      rw [Ev.on_st, he]
      refine State.modDesc_keeps _ ?_ n
      have hs := w.served_of hd hq (by simp)
      unfold State.endStep
      rw [hs]
      dsimp only
      split
      · exact State.modDesc_keeps _ h n
      · exact h
  unfold Ev.tearDown
  split
  · exact h
  · split
    · exact td _ (Ev.endReports_st _ _ _)
    · exact td _ rfl

/-- The selected records torn down: the records stay whole. -/
theorem quiet_cancelRecords (rs : List LiveRec) (e : Ev) (sub : ∀ r ∈ rs, r ∈ e.st.dqm.live)
    (nd : (rs.map LiveRec.id).Nodup) : Quiet none none e.st (Ev.cancelRecords rs e).1.st := by
  induction rs generalizing e with
  | nil => exact .refl _ _
  | cons r rs ih =>
    intro w
    rw [List.map_cons, List.nodup_cons] at nd
    have ne : ∀ q ∈ rs, q.id ≠ r.id := fun q hq h => nd.1 (List.mem_map.2 ⟨q, hq, h⟩)
    cases r with
    | point p =>
      unfold Ev.cancelRecords
      have hp := sub _ List.mem_cons_self
      have q1 : Quiet none none e.st ((e.on fun s => s.unlink p.id).triggerBoth).st := by
        rw [Ev.triggerBoth_st, Ev.on_st]
        refine quiet_unlink e.st none (List.mem_map.2 ⟨_, hp, rfl⟩) ?_
        intro d hd hi
        have := w.pool.unique_rec (State.mem_transfers.1 hd) hp hi
        simp at this
      refine (q1.trans (ih _ ?_ nd.2)) w
      intro q hq
      rw [Ev.triggerBoth_st, Ev.on_st]
      exact List.mem_filter.2 ⟨sub q (List.mem_cons_of_mem _ hq), by simpa using ne q hq⟩
    | transfer d =>
      unfold Ev.cancelRecords
      have hd := State.mem_transfers.2 (sub _ List.mem_cons_self)
      refine ((quiet_tearDown .cancel d e hd).trans (ih _ ?_ nd.2)) w
      intro q hq
      exact Ev.tearDown_keeps w hd (sub q (List.mem_cons_of_mem _ hq)) (ne q hq)

@[simp] theorem Ev.cancelRecords_fixed (rs : List LiveRec) (e : Ev) : (Ev.cancelRecords rs e).1.st.fixed = e.st.fixed := by
  induction rs generalizing e with
  | nil => rfl
  | cons r rs ih => cases r <;> simp [Ev.cancelRecords, ih]

theorem quiet_ownersTold (ds : List Desc) (e : Ev) (ex : Option Nat) : Quiet ex ex e.st (e.ownersTold ds).st := by
  induction ds generalizing e with
  | nil => exact .refl _ _
  | cons d r ih => exact (quiet_ownerFreed d .torn e ex).trans (ih _)

@[simp] theorem Ev.ownersTold_fixed (ds : List Desc) (e : Ev) : (e.ownersTold ds).st.fixed = e.st.fixed := by
  induction ds generalizing e with
  | nil => rfl
  | cons d r ih => unfold Ev.ownersTold; simp [ih]

/-- A CANCEL at the descriptor manager. -/
theorem quiet_cancel (m : Master) (scope cls node : Byte) (e : Ev) :
    Quiet none none e.st (e.cancel m scope cls node).1.st := by
  unfold Ev.cancel
  split
  · split
    · intro w
      next x n _ _ _ =>
      have q := quiet_cancelRecords (e.st.dqm.live.filter (x.selects m n)) e
        (fun r hr => (List.mem_filter.1 hr).1)
        (((List.filter_sublist (l := e.st.dqm.live)).map LiveRec.id).nodup w.pool.nodup_live)
      dsimp only
      refine (Quiet.trans ?_ (quiet_ownersTold _ _ none)) w
      split
      · exact q
      · exact q.trans (quiet_testPoints _ _)
    · exact .refl _ _
  · exact .refl _ _

@[simp] theorem Ev.cancel_fixed (m : Master) (scope cls node : Byte) (e : Ev) :
    (e.cancel m scope cls node).1.st.fixed = e.st.fixed := by
  unfold Ev.cancel
  split
  · split
    · dsimp only; rw [Ev.ownersTold_fixed]; split <;> simp
    · rfl
  · rfl

end Sys2Proof.Machine
end

