-- ==== Sys2Proof/Laws/Grows.lean ====
section
/-! SUPPORT. What the shared operations of an event never take back: a latch (R157), a fault flag (R136), a starvation counter (R60);
and that they keep the active targets in their range. One lemma for each operation. -/

set_option Elab.async false

namespace Sys2Proof.Machine

/-! ### Latch sets -/

theorem LatchesLe.refl (a : LatchSet) : LatchesLe a a := fun _ p h => ⟨p, h, fun _ h => h⟩

theorem LatchesLe.trans {a b c : LatchSet} (h : LatchesLe a b) (k : LatchesLe b c) : LatchesLe a c := by
  intro x p hp
  obtain ⟨q, hq, hpq⟩ := h x p hp
  obtain ⟨r, hr, hqr⟩ := k x q hq
  exact ⟨r, hr, fun n hn => hqr n (hpq n hn)⟩

theorem foldl_set_get (ns : List Node) (p : NodeSet) (n : Node) :
    (ns.foldl (fun q m => q.set m true) p).get n = (decide (n ∈ ns) || p.get n) := by
  induction ns generalizing p with
  | nil => simp
  | cons m r ih =>
    rw [List.foldl_cons, ih, PerNode.get_set_if]
    by_cases h : n = m <;> simp [h]

/-- A latch adds to the set it is applied to. -/
theorem latchInto_le (set : LatchSet) (k : EventKind) (ns : List Node) : LatchesLe set (latchInto set k ns).1 := by
  unfold latchInto
  split
  · next h =>
    intro j p hp
    by_cases e : j = k
    · rw [e, h] at hp; simp at hp
    · exact ⟨p, by rw [PerKind.get_set_ne _ _ e]; exact hp, fun _ h => h⟩
  · next p0 h =>
    dsimp only
    split
    · exact .refl _
    · intro j p hp
      by_cases e : j = k
      · subst e
        rw [h] at hp
        simp only [Option.some.injEq] at hp
        subst hp
        exact ⟨_, PerKind.get_set _ _ _, fun n hn => by rw [foldl_set_get, hn]; simp⟩
      · exact ⟨p, by rw [PerKind.get_set_ne _ _ e]; exact hp, fun _ h => h⟩

/-- A latch holds the nodes it names. -/
theorem latchInto_names (set : LatchSet) (k : EventKind) (ns : List Node) :
    ∃ q, (latchInto set k ns).1.get k = some q ∧ ∀ n ∈ ns, q.get n = true := by
  unfold latchInto
  split
  · refine ⟨_, PerKind.get_set _ _ _, fun n hn => ?_⟩
    unfold nodeSet
    rw [foldl_set_get]
    simp [hn]
  · next p0 h =>
    dsimp only
    split
    · next he =>
      refine ⟨p0, h, fun n hn => ?_⟩
      rw [List.isEmpty_iff, List.filter_eq_nil_iff] at he
      simpa using he n hn
    · refine ⟨_, PerKind.get_set _ _ _, fun n hn => ?_⟩
      rw [foldl_set_get]
      by_cases hp : p0.get n = true
      · simp [hp]
      · have : n ∈ ns.filter fun n => !p0.get n := List.mem_filter.2 ⟨hn, by simpa using hp⟩
        simp [this]

/-! ### Targets -/

/-- The ranges that the settings give the holding values and GUARD_FLOOR. -/
theorem legal_ranges {w : Settings} (h : w.legal = true) :
    (450 ≤ w.guardFloor ∧ w.guardFloor ≤ 760) ∧
      ∀ t, (tyreMin ≤ w.road.get t ∧ w.road.get t ≤ tyreMax) ∧ (tyreMin ≤ w.field.get t ∧ w.field.get t ≤ tyreMax) := by
  unfold Settings.legal at h
  simp only [Bool.and_eq_true] at h
  obtain ⟨⟨⟨h1, -⟩, -⟩, h4⟩ := h
  rw [List.all_eq_true] at h1 h4
  constructor
  · have := h1 16 (by decide)
    simp only [Settings.param, paramInRange, paramRange, listedValue, Option.getD_some, Bool.and_eq_true,
      decide_eq_true_eq] at this
    exact ⟨this.1.1, this.1.2⟩
  · intro t
    have := h4 t (by cases t <;> decide)
    simp only [Bool.and_eq_true, decide_eq_true_eq] at this
    exact ⟨⟨this.1.1.1, this.1.1.2⟩, this.1.2, this.2⟩

/-- The load-follow result of a holding value at or above GUARD_FLOOR lies between the two (R30). -/
theorem loadFollowResult_range (load : Option Nat) (axles p rated gf : Nat) :
    min p gf ≤ loadFollowResult load axles p rated gf ∧ loadFollowResult load axles p rated gf ≤ p := by
  unfold loadFollowResult
  split
  · omega
  · split <;> omega

/-- A formed target lies within 300 to 820 kPa when the settings are legal and the override does (R29). -/
theorem formTarget_range {s : State} (h : s.ws.legal = true) (t : Tyre) (o : Option Nat)
    (ho : ∀ v, o = some v → tyreMin ≤ v ∧ v ≤ tyreMax) : tyreMin ≤ s.formTarget t o ∧ s.formTarget t o ≤ tyreMax := by
  obtain ⟨⟨g1, g2⟩, hr⟩ := legal_ranges h
  obtain ⟨⟨r1, r2⟩, f1, f2⟩ := hr t
  have hb : tyreMin ≤ s.baseTarget t o ∧ s.baseTarget t o ≤ tyreMax := by
    unfold State.baseTarget
    split
    · next v => exact ho v rfl
    · split
      · exact ⟨f1, f2⟩
      · split
        · have := loadFollowResult_range (s.llu.load.get t.side) s.llu.axles (s.ws.road.get t) s.ws.rated s.ws.guardFloor
          unfold tyreMin tyreMax at *
          omega
        · exact ⟨r1, r2⟩
  unfold State.formTarget
  dsimp only
  unfold tyreMin tyreMax at *
  split <;> omega

/-- The tyres' targets lie in their range. -/
def TyresInRange (s : State) : Prop :=
  ∀ t, tyreMin ≤ (s.tgu.tyres.get t).target ∧ (s.tgu.tyres.get t).target ≤ tyreMax

/-- Every override lies in its range. -/
def OverridesInRange (s : State) : Prop :=
  ∀ t v, (s.tgu.tyres.get t).override = some v → tyreMin ≤ v ∧ v ≤ tyreMax

/-! ### The relation -/

/-- Latches, starvation counters and, but for a clearing of faults (`cl`), fault flags stay; settings and overrides are the same; and
tyre targets stay in their range. -/
structure Grows (cl : Bool) (s t : State) : Prop where
  latches : ∀ m, LatchesLe (s.evu.latches.get m) (t.evu.latches.get m)
  height : s.dqm.starve.height ≤ t.dqm.starve.height
  lift : s.dqm.starve.lift ≤ t.dqm.starve.lift
  tyre : s.dqm.starve.tyre ≤ t.dqm.starve.tyre
  point : s.dqm.starve.point ≤ t.dqm.starve.point
  faults : cl = false → ∀ n, s.faulted n = true → t.faulted n = true
  ws : t.ws = s.ws
  overrides : ∀ u, (t.tgu.tyres.get u).override = (s.tgu.tyres.get u).override
  targets : s.ws.legal = true → OverridesInRange s → TyresInRange s → TyresInRange t

theorem Grows.refl (cl : Bool) (s : State) : Grows cl s s :=
  ⟨fun _ => .refl _, Nat.le_refl _, Nat.le_refl _, Nat.le_refl _, Nat.le_refl _, fun _ _ h => h, rfl, fun _ => rfl,
    fun _ _ h => h⟩

theorem Grows.trans {cl : Bool} {s t u : State} (h : Grows cl s t) (k : Grows cl t u) : Grows cl s u where
  latches m := (h.latches m).trans (k.latches m)
  height := h.height.trans k.height
  lift := h.lift.trans k.lift
  tyre := h.tyre.trans k.tyre
  point := h.point.trans k.point
  faults c n hn := k.faults c n (h.faults c n hn)
  ws := k.ws.trans h.ws
  overrides v := (k.overrides v).trans (h.overrides v)
  targets hw ho ht :=
    k.targets (by rw [h.ws]; exact hw) (fun v x hx => ho v x (by rw [← h.overrides v]; exact hx)) (h.targets hw ho ht)

/-- A change that none of this sees. -/
theorem Grows.aside {cl : Bool} {s t : State} (hl : t.evu.latches = s.evu.latches := by rfl)
    (hs : t.dqm.starve = s.dqm.starve := by rfl) (hf : t.spu.faults = s.spu.faults := by rfl)
    (hw : t.sts.ws = s.sts.ws := by rfl) (ht : t.tgu.tyres = s.tgu.tyres := by rfl) : Grows cl s t where
  latches m := by rw [hl]; exact .refl _
  height := by rw [hs]
  lift := by rw [hs]
  tyre := by rw [hs]
  point := by rw [hs]
  faults _ n hn := by unfold State.faulted at *; rw [hf]; exact hn
  ws := hw
  overrides u := by rw [ht]
  targets _ _ h := by unfold TyresInRange at *; rw [ht]; exact h

/-- A change of a tyre's timer or mark. -/
theorem Grows.tyreAside {cl : Bool} {s : State} (u : Tyre) (f : TyreRec → TyreRec) (ho : ∀ r, (f r).override = r.override)
    (ht : ∀ r, (f r).target = r.target) : Grows cl s { s with tgu.tyres := s.tgu.tyres.modify u f } where
  latches m := .refl _
  height := Nat.le_refl _
  lift := Nat.le_refl _
  tyre := Nat.le_refl _
  point := Nat.le_refl _
  faults _ _ h := h
  ws := rfl
  overrides v := by
    simp only [PerTyre.modify, PerTyre.get_set_if]
    split
    · next e => rw [e, ho]
    · rfl
  targets _ _ h v := by
    have := h v
    simp only [PerTyre.modify, PerTyre.get_set_if]
    split
    · next e => rw [ht, ← e]; exact this
    · exact this

theorem grows_latch (cl : Bool) (e : Ev) (k : EventKind) (ns : List Node) : Grows cl e.st (Ev.latch k ns e).st := by
  have one : ∀ (m : Master) (e : Ev), Grows cl e.st (e.latchFor m k ns).st := by
    intro m e
    rw [Ev.latchFor_st]
    refine ⟨fun m' => ?_, Nat.le_refl _, Nat.le_refl _, Nat.le_refl _, Nat.le_refl _, fun _ _ h => h, rfl, fun _ => rfl,
      fun _ _ h => h⟩
    simp only [PerMaster.get_set_if]
    split
    · next h => rw [h]; exact latchInto_le _ _ _
    · exact .refl _
  exact ((one .cab e).trans (one .brake _)).trans (one .panel _)

/-- After a latch every set holds the kind and the nodes it names. -/
theorem latch_holds (e : Ev) (k : EventKind) (ns : List Node) (m : Master) :
    ∃ q, ((Ev.latch k ns e).st.evu.latches.get m).get k = some q ∧ ∀ n ∈ ns, q.get n = true := by
  unfold Ev.latch
  simp only [Ev.latchFor_st]
  cases m
  · obtain ⟨q, h, hn⟩ := latchInto_names (e.st.evu.latches.get .cab) k ns
    exact ⟨q, by simpa [PerMaster.get, PerMaster.set] using h, hn⟩
  · obtain ⟨q, h, hn⟩ := latchInto_names (e.st.evu.latches.get .brake) k ns
    exact ⟨q, by simpa [PerMaster.get, PerMaster.set] using h, hn⟩
  · obtain ⟨q, h, hn⟩ := latchInto_names (e.st.evu.latches.get .panel) k ns
    exact ⟨q, by simpa [PerMaster.get, PerMaster.set] using h, hn⟩

theorem starveUp_le (n : Nat) : n ≤ starveUp n := by unfold starveUp; split <;> omega

/-! ### Operations -/

variable (cl : Bool)

theorem grows_beaconSync (s : State) : Grows cl s s.beaconSync := by
  unfold State.beaconSync; split
  · exact .aside
  · split
    · exact .aside
    · exact .refl _ _

theorem grows_stepOpens (s : State) : Grows cl s s.stepOpens :=
  (Grows.aside : Grows cl s { s with evu.activeSteps := s.evu.activeSteps + 1 }).trans (grows_beaconSync cl _)

theorem grows_stepCloses (s : State) : Grows cl s s.stepCloses :=
  (Grows.aside : Grows cl s { s with evu.activeSteps := s.evu.activeSteps - 1 }).trans (grows_beaconSync cl _)

theorem grows_modDesc (s : State) (id : Nat) (f : Desc → Desc) : Grows cl s (s.modDesc id f) := .aside
theorem grows_putDesc (s : State) (d : Desc) : Grows cl s (s.putDesc d) := .aside
theorem grows_unlink (s : State) (id : Nat) : Grows cl s (s.unlink id) := .aside

theorem grows_testPoints (e : Ev) : Grows cl e.st e.testPoints.st := by
  unfold Ev.testPoints; dsimp only; split
  · exact .refl _ _
  · rw [Ev.triggerBoth_st]; exact .aside

theorem grows_refuse (c : Cls) (ns : List Managed) (e : Ev) : Grows cl e.st (e.refuse c ns).st := by
  unfold Ev.refuse
  refine Grows.trans ?_ (grows_latch cl _ _ _)
  rw [Ev.on_st]
  cases c
  · exact ⟨fun _ => .refl _, starveUp_le _, Nat.le_refl _, Nat.le_refl _, Nat.le_refl _, fun _ _ h => h, rfl, fun _ => rfl,
      fun _ _ h => h⟩
  · exact ⟨fun _ => .refl _, Nat.le_refl _, starveUp_le _, Nat.le_refl _, Nat.le_refl _, fun _ _ h => h, rfl, fun _ => rfl,
      fun _ _ h => h⟩
  · exact ⟨fun _ => .refl _, Nat.le_refl _, Nat.le_refl _, starveUp_le _, Nat.le_refl _, fun _ _ h => h, rfl, fun _ => rfl,
      fun _ _ h => h⟩

theorem grows_refusePoint (e : Ev) : Grows cl e.st e.refusePoint.st := by
  unfold Ev.refusePoint
  refine Grows.trans ?_ (grows_latch cl _ _ _)
  rw [Ev.on_st]
  exact ⟨fun _ => .refl _, Nat.le_refl _, Nat.le_refl _, Nat.le_refl _, starveUp_le _, fun _ _ h => h, rfl, fun _ => rfl,
    fun _ _ h => h⟩

theorem grows_setTyreTimer (s : State) (t : Tyre) (x : Timer) : Grows cl s (s.setTyreTimer t x) :=
  .tyreAside t _ (fun _ => rfl) fun _ => rfl
theorem grows_setTyrePending (s : State) (t : Tyre) (b : Bool) : Grows cl s (s.setTyrePending t b) :=
  .tyreAside t _ (fun _ => rfl) fun _ => rfl
theorem grows_tyreServed (s : State) (t : Tyre) : Grows cl s (s.tyreServed t) :=
  .tyreAside t _ (fun _ => rfl) fun _ => rfl

theorem grows_tyresServed (ms : List Managed) (s : State) : Grows cl s (s.tyresServed ms) := by
  induction ms generalizing s with
  | nil => exact .refl _ _
  | cons m r ih =>
    unfold State.tyresServed; split
    · exact (grows_tyreServed cl s _).trans (ih _)
    · exact ih s

theorem grows_becameLive (s : State) (a : Ask) : Grows cl s (s.becameLive a) := by
  unfold State.becameLive; split
  · exact grows_tyresServed cl _ s
  · exact .aside
  · exact .refl _ _

theorem grows_allocate (a : Ask) (e : Ev) : Grows cl e.st (e.allocate a).1.st := by
  unfold Ev.allocate
  split
  · exact grows_refuse cl _ _ _
  · split
    · exact grows_refuse cl _ _ _
    · rw [Ev.triggerBoth_st, Ev.on_st]
      refine Grows.trans ?_ (grows_becameLive cl _ a)
      exact .aside

theorem grows_placePoint (p q : FamilySet) (o : Origin) (e : Ev) : Grows cl e.st (e.placePoint p q o).1.st := by
  unfold Ev.placePoint
  split
  · dsimp only
    refine Grows.trans ?_ (grows_testPoints cl _)
    exact .aside
  · exact grows_refusePoint cl _

theorem grows_mergeQueued (d : Desc) (a : Ask) (e : Ev) : Grows cl e.st (e.mergeQueued d a).st := by
  have h : ∀ e' : Ev, e'.st = e.st → ∀ d' : State → Desc, Grows cl e.st (e'.on fun s => s.putDesc (d' s)).st := by
    intro e' he d'
    rw [Ev.on_st, he]
    exact grows_putDesc cl _ _
  unfold Ev.mergeQueued
  dsimp only
  rw [Ev.triggerBoth_st]
  split
  · exact h _ (Ev.completion_st _ _ _ _ _) _
  · exact (h _ (Ev.completion_st _ _ _ _ _) _).trans (grows_testPoints cl _)

theorem grows_mergePending (d : Desc) (a : Ask) (e : Ev) : Grows cl e.st (e.mergePending d a).st := by
  unfold Ev.mergePending
  dsimp only
  rw [Ev.on_st]
  split
  · rw [Ev.completion_st]; exact grows_putDesc cl _ _
  · exact grows_putDesc cl _ _

theorem grows_ask (a : Ask) (e : Ev) : Grows cl e.st (e.ask a).1.st := by
  unfold Ev.ask
  split
  · split
    · exact grows_refuse cl _ _ _
    · split
      · exact grows_mergeQueued cl _ _ _
      · exact grows_mergePending cl _ _ _
  · exact grows_allocate cl _ _

theorem grows_dropTransfer (d : Desc) (x : Ending) (e : Ev) : Grows cl e.st (e.dropTransfer d x).st := by
  unfold Ev.dropTransfer
  rw [Ev.on_st]
  have : (if x = .torn then e else e.endReports d x).st = e.st := by split <;> simp
  rw [this]
  exact grows_unlink cl _ _

theorem grows_unlinkTransfer (d : Desc) (x : Ending) (e : Ev) : Grows cl e.st (e.unlinkTransfer d x).st :=
  (grows_dropTransfer cl d x e).trans (grows_testPoints cl _)

theorem grows_askTyre (t : Tyre) (e : Ev) : Grows cl e.st (e.askTyre t).st := by
  have h := grows_ask cl (e.st.tyreAsk t (e.st.tgu.tyres.get t).target .auto) e
  unfold Ev.askTyre
  dsimp only
  split
  · exact h.trans (grows_setTyrePending cl _ _ _)
  · exact h

theorem grows_retargeted (c : Cause) (t : Tyre) (o n : Nat) (e : Ev) : Grows cl e.st (e.retargeted c t o n).st := by
  unfold Ev.retargeted
  split
  · exact grows_askTyre cl t e
  · split
    · exact (grows_setTyreTimer cl e.st t none).trans (grows_askTyre cl t (e.on fun s => s.setTyreTimer t none))
    · exact .refl _ _

/-- A formed value put in the place of a target. -/
theorem grows_setTarget (s : State) (t : Tyre) : Grows cl s (s.setTarget t (s.formTarget t (s.tgu.tyres.get t).override)) where
  latches m := .refl _
  height := Nat.le_refl _
  lift := Nat.le_refl _
  tyre := Nat.le_refl _
  point := Nat.le_refl _
  faults _ _ h := h
  ws := rfl
  overrides v := by
    simp only [State.setTarget, PerTyre.modify, PerTyre.get_set_if]
    split
    · next e => rw [e]
    · rfl
  targets hw ho h v := by
    simp only [State.setTarget, PerTyre.modify, PerTyre.get_set_if]
    split
    · exact formTarget_range hw t _ (ho t)
    · exact h v

theorem grows_recompute (c : Cause) (t : Tyre) (e : Ev) : Grows cl e.st (e.recompute c t).st := by
  unfold Ev.recompute
  dsimp only
  split
  · exact .refl _ _
  · split
    · refine Grows.trans ?_ (grows_retargeted cl c t _ _ _)
      exact grows_setTarget cl e.st t
    · exact .refl _ _

theorem grows_recomputeList (c : Cause) (ts : List Tyre) (e : Ev) : Grows cl e.st (e.recomputeList c ts).st := by
  induction ts generalizing e with
  | nil => exact .refl _ _
  | cons t r ih => exact (grows_recompute cl c t e).trans (ih _)

theorem grows_recomputeAll (c : Cause) (e : Ev) : Grows cl e.st (e.recomputeAll c).st := grows_recomputeList cl c _ e
theorem grows_loadFollow (ts : List Tyre) (e : Ev) : Grows cl e.st (e.loadFollow ts).st := by
  unfold Ev.loadFollow
  split
  · exact .refl _ _
  · exact Grows.trans .aside (grows_recomputeList cl _ _ _)
theorem grows_recomputeSide (sd : Side) (e : Ev) : Grows cl e.st (e.recomputeSide sd).st := grows_loadFollow cl _ e

theorem grows_tyreDeadbandTest (s : State) (t : Tyre) : Grows cl s (s.tyreDeadbandTest t) := by
  unfold State.tyreDeadbandTest; dsimp only; split
  · exact .refl _ _
  · split <;> exact grows_setTyreTimer cl _ _ _

theorem grows_tyreLoop (t : Tyre) (e : Ev) : Grows cl e.st (e.tyreLoop t).st := by
  unfold Ev.tyreLoop
  dsimp only
  split
  · split
    · split
      · exact (grows_setTyrePending cl e.st t false).trans (grows_tyreDeadbandTest cl _ t)
      · exact grows_askTyre cl t e
    · exact .refl _ _
    · exact grows_tyreDeadbandTest cl _ t
  · exact .refl _ _

theorem grows_tyreExpiry (t : Tyre) (e : Ev) : Grows cl e.st (e.tyreExpiry t).st := by
  unfold Ev.tyreExpiry
  dsimp only
  have h : Grows cl e.st (e.on fun s => s.setTyreTimer t none).st := grows_setTyreTimer cl _ _ _
  split
  · exact h.trans (grows_askTyre cl t _)
  · exact h

theorem grows_resetMonitorOf (s : State) (n : Node) : Grows cl s (s.resetMonitorOf n) := by
  unfold State.resetMonitorOf; split
  · exact .aside
  · exact .refl _ _

theorem grows_resetMonitors (ms : List Managed) (s : State) : Grows cl s (s.resetMonitors ms) := by
  induction ms generalizing s with
  | nil => exact .refl _ _
  | cons m r ih => exact (grows_resetMonitorOf cl s m.node).trans (ih _)

theorem grows_suspendMonitors (ms : List Managed) (s : State) : Grows cl s (s.suspendMonitors ms) := by
  induction ms generalizing s with
  | nil => exact .refl _ _
  | cons m r ih =>
    unfold State.suspendMonitors; split
    · exact Grows.trans .aside (ih _)
    · exact ih s

theorem grows_monitorArrival (w : Watched) (e : Ev) : Grows cl e.st (e.monitorArrival w).st := by
  unfold Ev.monitorArrival; dsimp only; split
  · split
    · split
      · exact (grows_latch cl e _ _).trans .aside
      · exact .refl _ _
    · exact .aside
  · exact .refl _ _

theorem grows_windowEnd (w : Watched) (e : Ev) : Grows cl e.st (e.windowEnd w).st := by
  unfold Ev.windowEnd; dsimp only; split
  · refine Grows.trans (t := (ite _ (Ev.latch .leakSlow [w.node] e) e).st) ?_ .aside
    split
    · split
      · exact grows_latch cl e _ _
      · exact .refl _ _
    · exact .refl _ _
  · exact .aside

/-- A fault flag set. -/
theorem grows_setFault (s : State) (n : Node) : Grows cl s { s with spu.faults := s.spu.faults.set n true } where
  latches m := .refl _
  height := Nat.le_refl _
  lift := Nat.le_refl _
  tyre := Nat.le_refl _
  point := Nat.le_refl _
  faults _ m h := by
    unfold State.faulted at *
    simp only [PerNode.get_set_if]
    split
    · rfl
    · exact h
  ws := rfl
  overrides _ := rfl
  targets _ _ h := h

theorem grows_flagFault (n : Node) (e : Ev) : Grows cl e.st (e.flagFault n).st := by
  unfold Ev.flagFault
  refine Grows.trans ?_ (grows_latch cl _ _ _)
  rw [Ev.on_st]
  exact (grows_setFault cl e.st n).trans (grows_resetMonitorOf cl _ n)

theorem grows_setLift (x : LiftState) (e : Ev) : Grows cl e.st (e.setLift x).st := by
  unfold Ev.setLift
  dsimp only
  split
  · exact .refl _ _
  · refine Grows.trans ?_ (grows_loadFollow cl _ _)
    rw [Ev.on_st]
    split <;> exact .aside

theorem grows_liftDecide (o : Origin) (e : Ev) : Grows cl e.st (e.liftDecide o).1.st := by
  unfold Ev.liftDecide
  split
  · exact .refl _ _
  · split
    · exact .refl _ _
    · next g x _ =>
      have h := grows_ask cl { cls := .lift, nodes := [.lft], goal := g, origin := o, kind := liftKind g } e
      dsimp only
      split
      · exact h
      · exact h.trans (grows_setLift cl _ _)

theorem grows_liftAuto (e : Ev) : Grows cl e.st e.liftAuto.st := grows_liftDecide cl _ e

theorem grows_aimTo (b : Bool) (e : Ev) : Grows cl e.st (e.aimTo b).st := by
  unfold Ev.aimTo
  split
  · exact .refl _ _
  · exact Grows.trans .aside (grows_liftAuto cl _)

theorem grows_overloadTest (e : Ev) : Grows cl e.st e.overloadTest.st := by
  unfold Ev.overloadTest
  split
  · exact grows_aimTo cl _ _
  · exact .refl _ _

theorem grows_liftTimerTest (e : Ev) : Grows cl e.st (e.on State.liftTimerTest).st := .aside

theorem grows_settledLoad (sd : Side) (e : Ev) : Grows cl e.st (e.settledLoad sd).st := by
  unfold Ev.settledLoad
  split
  · exact .refl _ _
  · split
    · exact .refl _ _
    · dsimp only
      split
      · exact .aside
      · refine Grows.trans ?_ (grows_overloadTest cl _)
        refine Grows.trans ?_ (grows_liftTimerTest cl _)
        refine Grows.trans ?_ (grows_recomputeSide cl sd _)
        exact .aside

theorem grows_firstLft (e : Ev) : Grows cl e.st e.firstLft.st := by
  unfold Ev.firstLft
  split
  · exact .refl _ _
  · exact Grows.trans .aside (grows_setLift cl _ _)

theorem grows_lftArrival (e : Ev) : Grows cl e.st e.lftArrival.st := (grows_firstLft cl e).trans (grows_liftAuto cl _)

theorem grows_liftStall (x : Ending) (e : Ev) : Grows cl e.st (e.liftStall x).st := by
  unfold Ev.liftStall
  split
  · exact grows_flagFault cl _ _
  · exact .refl _ _

theorem grows_liftFreed (x : Ending) (e : Ev) : Grows cl e.st (e.liftFreed x).st := by
  unfold Ev.liftFreed
  dsimp only
  refine Grows.trans ?_ (grows_liftAuto cl _)
  refine Grows.trans ?_ (grows_liftTimerTest cl _)
  refine Grows.trans ?_ (grows_liftStall cl x _)
  split
  · exact (grows_setLift cl _ e).trans .aside
  · exact grows_setLift cl _ e

theorem grows_ownerFreed (d : Desc) (x : Ending) (e : Ev) : Grows cl e.st (e.ownerFreed d x).st := by
  unfold Ev.ownerFreed
  split
  · exact grows_liftFreed cl x e
  · exact .refl _ _
  · exact .refl _ _

theorem grows_freeTransfer (d : Desc) (x : Ending) (e : Ev) : Grows cl e.st (e.freeTransfer d x).st :=
  (grows_unlinkTransfer cl d x e).trans (grows_ownerFreed cl _ _ _)

theorem grows_liftMode (m : Mode) (e : Ev) : Grows cl e.st (e.liftMode m).st := by
  unfold Ev.liftMode
  cases m
  · dsimp only
    split
    · exact (grows_aimTo cl _ _).trans .aside
    · exact .aside
  · exact (grows_aimTo cl _ _).trans .aside
  · exact (grows_aimTo cl _ _).trans .aside

theorem grows_endStep (s : State) (g : Gallery) (r : EndReason) : Grows cl s (s.endStep g r) := by
  unfold State.endStep; split
  · exact .refl _ _
  · split
    · exact .aside
    · exact .refl _ _

theorem grows_cutIf (s : State) (g : Gallery) (t : Desc → Bool) : Grows cl s (s.cutIf g t) := by
  unfold State.cutIf; split
  · exact .refl _ _
  · split
    · exact grows_endStep cl _ _ _
    · exact .refl _ _

theorem grows_cutBoth (s : State) (t : Desc → Bool) : Grows cl s (s.cutBoth t) :=
  (grows_cutIf cl s .a t).trans (grows_cutIf cl _ .b t)

theorem grows_finishStep (g : Gallery) (e : Ev) : Grows cl e.st (e.finishStep g).st := by
  unfold Ev.finishStep
  rw [Ev.trigger_st, Ev.on_st]
  dsimp only
  split
  · exact .aside
  · next d _ =>
    have h : Grows cl e.st ((e.st.modGallery g fun x =>
        { x with flight := none, openT := none, stepT := none, closeT := none, settleT := none }).resetMonitors d.nodes) :=
      Grows.trans .aside (grows_resetMonitors cl d.nodes _)
    split
    · exact h.trans .aside
    · exact h

theorem grows_takeDown (b : TornBy) (d : Desc) (e : Ev) : Grows cl e.st (e.takeDown b d).1.st := by
  unfold Ev.takeDown
  split
  · exact grows_dropTransfer cl _ _ _
  · exact (grows_finishStep cl _ _).trans (grows_dropTransfer cl _ _ _)
  · exact grows_modDesc cl _ _ _
  · rw [Ev.on_st]; exact (grows_endStep cl _ _ _).trans (grows_modDesc cl _ _ _)

theorem grows_tearDown (b : TornBy) (d : Desc) (e : Ev) : Grows cl e.st (e.tearDown b d).1.st := by
  unfold Ev.tearDown
  split
  · exact .refl _ _
  · split
    · have h := grows_takeDown cl .cancel d (e.endReports d .torn)
      rw [Ev.endReports_st] at h
      exact h
    · exact grows_takeDown cl .fault d e

theorem grows_faultDown (d : Desc) (e : Ev) : Grows cl e.st (e.faultDown d).st := by
  unfold Ev.faultDown
  dsimp only
  split
  · exact ((grows_tearDown cl _ d e).trans (grows_testPoints cl _)).trans (grows_ownerFreed cl _ _ _)
  · exact grows_tearDown cl _ d e

theorem grows_endSensor (g : Gallery) (n : Node) (e : Ev) : Grows cl e.st (e.endSensor g n).st := by
  unfold Ev.endSensor
  refine Grows.trans ?_ (grows_latch cl _ _ _)
  exact grows_endStep cl _ _ _

theorem grows_crossEnd (g : Gallery) (l r : Option Nat) (near : Nat → Nat → Bool) (e : Ev) :
    Grows cl e.st (e.crossEnd g l r near).st := by
  obtain ⟨_, _, _, _, _, h⟩ | ⟨_, _, _, _, _, h⟩ | ⟨_, h⟩ := e.crossEnd_cases g l r near <;> rw [h]
  · exact grows_endStep cl _ _ _
  · exact .refl _ _
  · exact grows_latch cl _ _ _

theorem grows_pressureEnd (g : Gallery) (m : Managed) (e : Ev) : Grows cl e.st (e.pressureEnd g m).st := by
  unfold Ev.pressureEnd
  split
  · exact .refl _ _
  · split
    · split
      · exact grows_endSensor cl _ _ _
      · exact grows_endSensor cl _ _ _
      · exact grows_endSensor cl _ _ _
      · split
        · exact grows_endStep cl _ _ _
        · exact .refl _ _
      · split
        · exact grows_endStep cl _ _ _
        · exact .refl _ _
      · exact grows_crossEnd cl _ _ _ _ _
      · exact .refl _ _
    · exact .refl _ _

theorem grows_floorTest (e : Ev) : Grows cl e.st e.floorTest.st := by
  unfold Ev.floorTest
  split
  · exact .refl _ _
  · split
    · split
      · split
        · refine Grows.trans ?_ (grows_latch cl _ _ _)
          exact grows_endStep cl _ _ _
        · exact .refl _ _
      · refine Grows.trans (Grows.trans ?_ (grows_latch cl _ _ _)) (grows_latch cl _ _ _)
        exact grows_endStep cl _ _ _
    · exact .refl _ _

theorem grows_sideReached (s : State) (g : Gallery) (sd : Side) : Grows cl s (s.sideReached g sd) := by
  unfold State.sideReached
  dsimp only
  split
  · refine Grows.trans ?_ (grows_endStep cl _ _ _)
    exact .aside
  · exact .aside

theorem grows_heightEnd (g : Gallery) (sd : Side) (e : Ev) : Grows cl e.st (e.heightEnd g sd).st := by
  unfold Ev.heightEnd
  split
  · exact .refl _ _
  · split
    · split
      · exact grows_endSensor cl _ _ _
      · exact grows_crossEnd cl _ _ _ _ _
      · split
        · exact grows_sideReached cl _ _ _
        · exact .refl _ _
    · exact .refl _ _

theorem grows_immediateAsk (t : Nat) (o : Origin) (b : Bool) (e : Ev) : Grows cl e.st (e.immediateAsk t o b).1.st := by
  unfold Ev.immediateAsk
  split
  · exact .refl _ _
  · split
    · exact Grows.trans .aside (grows_ask cl _ _)
    · split
      · exact .aside
      · exact .refl _ _
      · dsimp only
        split
        · exact .aside
        · exact Grows.trans .aside (grows_ask cl _ _)

theorem grows_retarget (t : Nat) (b : Bool) (e : Ev) : Grows cl e.st (e.retarget t b).1.st := by
  unfold Ev.retarget
  split
  · exact .refl _ _
  · have h : Grows cl e.st ((e.on fun s => s.setHeightTarget t).immediateAsk t .auto b).1.st :=
      Grows.trans .aside (grows_immediateAsk cl t .auto b (e.on fun s => s.setHeightTarget t))
    dsimp only
    split
    · exact h.trans .aside
    · exact h
    · exact h

theorem grows_handleMark (e : Ev) : Grows cl e.st e.handleMark.st := by
  unfold Ev.handleMark
  split
  · exact .refl _ _
  · exact .aside
  · exact grows_ask cl _ _

theorem grows_heightDeadbandTest (s : State) : Grows cl s s.heightDeadbandTest := by
  unfold State.heightDeadbandTest; split
  · exact .aside
  · split
    · exact .aside
    · exact .refl _ _

theorem grows_heightHandOff (e : Ev) : Grows cl e.st e.heightHandOff.st := by
  unfold Ev.heightHandOff
  split
  · exact .refl _ _
  · exact .refl _ _
  · split
    · exact grows_handleMark cl _
    · exact .refl _ _
  · split
    · exact grows_handleMark cl _
    · exact grows_heightDeadbandTest cl _

theorem grows_heightExpiry (e : Ev) : Grows cl e.st e.heightExpiry.st := by
  have sp : Grows cl e.st (e.on State.stopPersist).st := .aside
  unfold Ev.heightExpiry
  dsimp only
  split
  · split
    · exact sp.trans (grows_ask cl _ _)
    · exact sp
  · exact sp

theorem grows_lapse (e : Ev) : Grows cl e.st e.lapse.st := by
  unfold Ev.lapse; split
  · exact Grows.trans .aside (grows_latch cl _ _ _)
  · exact .refl _ _

theorem grows_heightMode (b : Bool) (e : Ev) : Grows cl e.st (e.heightMode b).1.st := by
  have h : Grows cl e.st (e.on fun s => s.stopPersist.beaconSync).st := by
    refine Grows.trans ?_ (grows_beaconSync cl _)
    exact .aside
  unfold Ev.heightMode
  dsimp only
  split
  · exact h
  · exact h.trans (grows_retarget cl _ _ _)

theorem grows_heightSpeed (x : SpeedState) (e : Ev) : Grows cl e.st (e.heightSpeed x).st := by
  have sp : Grows cl e.st (e.on State.stopPersist).st := .aside
  have h2 : Grows cl e.st (if x = .standstill then e.on State.stopPersist else (e.on State.stopPersist).lapse).st := by
    split
    · exact sp
    · exact sp.trans (grows_lapse cl _)
  unfold Ev.heightSpeed
  dsimp only
  split
  · exact h2.trans (grows_retarget cl _ _ _)
  · exact h2

theorem grows_addCause (x : Lockout) (e : Ev) : Grows cl e.st (e.addCause x).st := by
  unfold Ev.addCause
  dsimp only
  split
  · exact .aside
  · have h : Grows cl e.st ((e.on fun s => { s with hlc.lockout := x }).on fun s =>
        s.stopPersist.setHeightPending false).st := .aside
    split
    · exact h.trans (grows_faultDown cl _ _)
    · exact h

theorem grows_heightSensor (sd : Side) (v r : Bool) (e : Ev) : Grows cl e.st (e.heightSensor sd v r).st := by
  unfold Ev.heightSensor
  split
  · split
    · exact .aside
    · exact .refl _ _
  · dsimp only
    split
    · have h : Grows cl e.st ((e.on fun s =>
          { s with hlc.recovery := s.hlc.recovery.set sd 0 }).latch .sensorInvalid [sd.bellows.node]).st := by
        refine Grows.trans ?_ (grows_latch cl _ _ _)
        exact .aside
      split
      · exact h
      · exact h.trans (grows_addCause cl _ _)
    · exact .aside

theorem grows_faultDescriptor (m : Managed) (e : Ev) : Grows cl e.st (e.faultDescriptor m).st := by
  unfold Ev.faultDescriptor
  split
  · exact (grows_faultDown cl _ e).trans .aside
  · exact .refl _ _

theorem grows_faultOwner (m : Managed) (e : Ev) : Grows cl e.st (e.faultOwner m).st := by
  unfold Ev.faultOwner
  split
  · split
    · exact .refl _ _
    · exact grows_addCause cl _ _
  · split
    · exact .refl _ _
    · exact grows_addCause cl _ _
  · exact .aside
  · split
    · exact grows_tyreServed cl _ _
    · exact .refl _ _

theorem grows_faultNode (n : Node) (e : Ev) : Grows cl e.st (e.faultNode n).st := by
  unfold Ev.faultNode
  dsimp only
  split
  · exact .refl _ _
  · split
    · exact (grows_flagFault cl n e).trans ((grows_faultDescriptor cl _ _).trans (grows_faultOwner cl _ _))
    · exact grows_flagFault cl n e

theorem grows_faultNodes (ms : List Managed) (e : Ev) : Grows cl e.st (Ev.faultNodes ms e).st := by
  induction ms generalizing e with
  | nil => exact .refl _ _
  | cons m r ih => exact (grows_faultNode cl m.node e).trans (ih _)

theorem grows_sensorFault (n : Node) (e : Ev) : Grows cl e.st (e.sensorFault n).st := by
  unfold Ev.sensorFault
  split
  · exact grows_faultNode cl n e
  · exact .refl _ _

/-- A clearing keeps all of this but the flag it clears. -/
theorem grows_clearFault (n : Node) (e : Ev) : Grows true e.st (e.clearFault n).st := by
  have h : Grows true e.st (State.resetMonitorOf { e.st with spu.faults := e.st.spu.faults.set n false } n) := by
    refine Grows.trans ?_ (grows_resetMonitorOf true _ n)
    exact ⟨fun _ => .refl _, Nat.le_refl _, Nat.le_refl _, Nat.le_refl _, Nat.le_refl _, fun c => by simp at c, rfl,
      fun _ => rfl, fun _ _ h => h⟩
  unfold Ev.clearFault
  dsimp only
  split
  · split
    · rw [Ev.on_st, Ev.triggerBoth_st]; exact h.trans .aside
    · rw [Ev.on_st, Ev.triggerBoth_st]; exact h.trans .aside
    · refine Grows.trans ?_ (grows_liftAuto true _)
      rw [Ev.on_st, Ev.triggerBoth_st]; exact h.trans .aside
    · rw [Ev.triggerBoth_st]; exact h
  · exact h

theorem grows_clearFaults (ns : List Node) (e : Ev) : Grows true e.st (Ev.clearFaults ns e).st := by
  induction ns generalizing e with
  | nil => exact .refl _ _
  | cons m r ih => exact (grows_clearFault m e).trans (ih _)

theorem grows_fillQuery (d : Desc) (e : Ev) : Grows cl e.st (e.fillQuery d).1.st := by
  unfold Ev.fillQuery
  dsimp only
  split
  · exact .refl _ _
  · exact grows_latch cl _ _ _

theorem grows_brakeDecision (e : Ev) : Grows cl e.st e.brakeDecision.st := by
  have h : ∀ b, Grows cl e.st (e.on fun s => { s with aac.priority := b }).st := fun b => .aside
  unfold Ev.brakeDecision
  dsimp only
  split
  · exact .refl _ _
  · split
    · rw [Ev.on_st]
      exact ((h _).trans (grows_latch cl _ _ _)).trans (grows_cutBoth cl _ _)
    · rw [Ev.trigger_st]; exact h _

theorem grows_supplyArrival (s : State) : Grows cl s s.supplyArrival := by
  unfold State.supplyArrival State.supplyReading State.openWindow
  dsimp only
  split
  · split
    · split
      · split
        · exact .aside
        · split <;> exact .aside
      · split <;> exact .aside
    · split
      · split
        · exact .aside
        · split
          · split <;> exact .aside
          · exact .aside
      · exact .aside
  · exact .aside

theorem grows_supplyExpiry (e : Ev) : Grows cl e.st e.supplyExpiry.st := by
  unfold Ev.supplyExpiry
  split
  · refine Grows.trans ?_ (grows_latch cl _ _ _)
    exact .aside
  · exact .aside

theorem grows_applyPending (d : Desc) (e : Ev) : Grows cl e.st (e.applyPending d).1.st := by
  unfold Ev.applyPending
  split
  · rw [Ev.on_st, Ev.completion_st]; exact grows_putDesc cl _ _
  · exact .refl _ _

theorem grows_requeue (d : Desc) (e : Ev) : Grows cl e.st (e.requeue d).st := by
  unfold Ev.requeue
  rw [Ev.triggerBoth_st]
  refine Grows.trans ?_ (grows_testPoints cl _)
  exact grows_putDesc cl _ _

theorem grows_judge (d : Desc) (e : Ev) : Grows cl e.st (e.judge d).st := by
  unfold Ev.judge
  split
  · exact ((grows_unlinkTransfer cl d _ e).trans (grows_faultNodes cl _ _)).trans (grows_ownerFreed cl _ _ _)
  · split
    · exact (grows_latch cl e _ _).trans (grows_freeTransfer cl _ _ _)
    · exact grows_requeue cl d e

theorem grows_evaluate (id : Nat) (x : Option EndReason) (e : Ev) : Grows cl e.st (e.evaluate id x).st := by
  unfold Ev.evaluate
  split
  · exact .refl _ _
  · next d0 _ =>
    dsimp only
    refine (grows_applyPending cl d0 e).trans ?_
    split
    · exact grows_freeTransfer cl _ _ _
    · split
      · exact grows_freeTransfer cl _ _ _
      · split
        · split <;> exact grows_judge cl _ _
        · exact grows_judge cl _ _

theorem grows_grant (s : State) (g : Gallery) (n : Nat) (d : Desc) (x : Option Nat) : Grows cl s (s.grant g n d x) := by
  have tail : ∀ u : State, Grows cl s u → Grows cl s
      (if d.cls.movesDeck then
        State.stepOpens (if d.cls = .height then { u.suspendMonitors d.nodes with llu.heightStep := true } else u.suspendMonitors d.nodes)
      else (if d.cls = .height then { u.suspendMonitors d.nodes with llu.heightStep := true } else u.suspendMonitors d.nodes)) := by
    intro u h
    have h4 := h.trans (grows_suspendMonitors cl d.nodes u)
    generalize u.suspendMonitors d.nodes = u4 at *
    have h5 : Grows cl s (if d.cls = .height then { u4 with llu.heightStep := true } else u4) := by
      split
      · exact h4.trans .aside
      · exact h4
    split
    · exact h5.trans (grows_stepOpens cl _)
    · exact h5
  unfold State.grant
  dsimp only
  refine tail _ ?_
  split <;> exact .aside

theorem grows_passOver (s : State) (id : Nat) (cs : List Candidate) : Grows cl s (s.passOver id cs) := by
  induction cs generalizing s with
  | nil => exact .refl _ _
  | cons c r ih =>
    unfold State.passOver
    split
    · exact ih s
    · exact Grows.trans .aside (ih _)

theorem grows_testOne (g : Gallery) (acc : Ev × List Candidate) (id : Nat) :
    Grows cl acc.1.st (Ev.testOne g acc id).1.st := by
  unfold Ev.testOne
  dsimp only
  split
  · exact .refl _ _
  · split
    · split
      · exact .aside
      · split
        · split
          · exact (grows_fillQuery cl _ _).trans .aside
          · exact (grows_fillQuery cl _ _).trans .aside
          · exact (grows_fillQuery cl _ _).trans (grows_evaluate cl _ _ _)
        · exact .aside
    · exact .refl _ _

theorem grows_testAll (g : Gallery) (ids : List Nat) (acc : Ev × List Candidate) :
    Grows cl acc.1.st (Ev.testAll g ids acc).1.st := by
  induction ids generalizing acc with
  | nil => exact .refl _ _
  | cons i r ih => exact (grows_testOne cl g acc i).trans (ih _)

theorem grows_scanGallery (g : Gallery) (e : Ev) : Grows cl e.st (e.scanGallery g).st := by
  unfold Ev.scanGallery
  split
  · have h := grows_testAll cl g e.st.transferIds (e, [])
    dsimp only
    split
    · exact h.trans ((grows_grant cl _ _ _ _ _).trans (grows_passOver cl _ _ _))
    · exact h
  · exact .refl _ _

theorem grows_scans (n : Nat) (e : Ev) : Grows cl e.st (e.scans n).st := by
  induction n generalizing e with
  | zero => exact .refl _ _
  | succ n ih =>
    unfold Ev.scans
    split
    · exact (grows_scanGallery cl .a { e with scan := e.scan.set .a false }).trans (ih _)
    · split
      · exact (grows_scanGallery cl .b { e with scan := e.scan.set .b false }).trans (ih _)
      · exact .refl _ _

theorem grows_allocateHeld (a : Ask) (e : Ev) : Grows cl e.st (e.allocateHeld a).st := by
  have h := grows_ask cl a e
  unfold Ev.allocateHeld
  dsimp only
  split
  · exact h.trans .aside
  · split
    · exact h.trans (grows_setTyrePending cl _ _ _)
    · exact h
  · exact h

theorem grows_allocateAll (as : List Ask) (e : Ev) : Grows cl e.st (Ev.allocateAll as e).st := by
  induction as generalizing e with
  | nil => exact .refl _ _
  | cons a r ih => exact (grows_allocateHeld cl a e).trans (ih _)

theorem grows_basisAllocations (as : List Ask) (e : Ev) : Grows cl e.st (e.basisAllocations as).st := by
  unfold Ev.basisAllocations
  dsimp only
  exact ((grows_allocateAll cl _ _).trans (grows_placePoint cl _ _ _ _)).trans (grows_allocateAll cl _ _)

theorem grows_freezeTyres (s : State) : Grows cl s s.freezeTyres where
  latches m := .refl _
  height := Nat.le_refl _
  lift := Nat.le_refl _
  tyre := Nat.le_refl _
  point := Nat.le_refl _
  faults _ _ h := h
  ws := rfl
  overrides u := by cases u <;> rfl
  targets _ _ h u := by have := h u; cases u <;> exact this

theorem grows_changeMode (m : Mode) (e : Ev) : Grows cl e.st (e.changeMode m).st := by
  unfold Ev.changeMode
  dsimp only
  generalize (m.basis e.st.tgu.basis != e.st.tgu.basis) = change
  have h1 : Grows cl e.st (e.on fun s => s.setMode m).st := .aside
  have h2 : Grows cl e.st (if m = .loading then (e.on fun s => s.setMode m).on State.freezeTyres
      else (e.on fun s => s.setMode m).recomputeAll (if change then .basis else .other)).st := by
    split
    · exact h1.trans (grows_freezeTyres cl _)
    · exact h1.trans (grows_recomputeAll cl _ _)
  generalize (if m = .loading then (e.on fun s => s.setMode m).on State.freezeTyres
      else (e.on fun s => s.setMode m).recomputeAll (if change then .basis else .other)) = e2 at *
  have h3 := h2.trans (grows_heightMode cl change e2)
  have h4 : Grows cl e.st (if change then (e2.heightMode change).1.basisAllocations
      ((if change then e2.st.basisAsks else []) ++ (e2.heightMode change).2.toList) else (e2.heightMode change).1).st := by
    split
    · exact h3.trans (grows_basisAllocations cl _ _)
    · exact h3
  have h5 := h4.trans (grows_liftMode cl m _)
  split
  · rw [Ev.triggerBoth_st]; exact h5
  · exact h5

theorem grows_guardOn (e : Ev) : Grows cl e.st e.guardOn.st := by
  unfold Ev.guardOn
  refine Grows.trans (Grows.trans ?_ (grows_latch cl _ _ _)) (grows_recomputeAll cl _ _)
  exact .aside

theorem grows_guardOff (e : Ev) : Grows cl e.st e.guardOff.st := Grows.trans .aside (grows_recomputeAll cl _ _)

theorem grows_guardUpdate (e : Ev) : Grows cl e.st e.guardUpdate.st := by
  unfold Ev.guardUpdate
  dsimp only
  split
  · split <;> exact .aside
  · split
    · exact grows_guardOn cl e
    · split <;> exact .aside

theorem grows_forceMode (x : SpeedState) (e : Ev) : Grows cl e.st (e.forceMode x).st := by
  unfold Ev.forceMode
  split
  · exact ((grows_latch cl e _ _).trans (grows_lapse cl _)).trans (grows_changeMode cl _ _)
  · exact .refl _ _

theorem grows_holdUpdate (old : Vehicle) (e : Ev) : Grows cl e.st (e.holdUpdate old).st := by
  unfold Ev.holdUpdate
  dsimp only
  split <;> split
  · rw [Ev.triggerBoth_st]; exact grows_cutBoth cl _ _
  · exact grows_cutBoth cl _ _
  · rw [Ev.triggerBoth_st]; exact .refl _ _
  · exact .refl _ _

theorem grows_brakingUpdate (old : Vehicle) (e : Ev) : Grows cl e.st (e.brakingUpdate old).st := by
  unfold Ev.brakingUpdate
  split
  · exact .aside
  · exact .refl _ _

theorem grows_vehicleUpdate (v : Vehicle) (e : Ev) : Grows cl e.st (e.vehicleUpdate v).st := by
  unfold Ev.vehicleUpdate
  dsimp only
  have h1 : Grows cl e.st (Ev.guardUpdate (e.on fun s => { s with tgu.vehicle := v })).st :=
    Grows.trans .aside (grows_guardUpdate cl (e.on fun s => { s with tgu.vehicle := v }))
  generalize (Ev.guardUpdate (e.on fun s => { s with tgu.vehicle := v })) = e1 at *
  have h2 : Grows cl e.st
      (if (v.speedState != e.st.tgu.vehicle.speedState) = true then e1.forceMode v.speedState else e1).st := by
    split
    · exact h1.trans (grows_forceMode cl _ _)
    · exact h1
  generalize (if (v.speedState != e.st.tgu.vehicle.speedState) = true then e1.forceMode v.speedState else e1) = e2 at *
  have h3 := ((h2.trans (grows_brakeDecision cl e2)).trans (grows_holdUpdate cl e.st.tgu.vehicle _)).trans
    (grows_brakingUpdate cl e.st.tgu.vehicle _)
  split
  · exact (h3.trans (grows_heightSpeed cl _ _)).trans .aside
  · exact h3

theorem grows_brakeLinkLost (e : Ev) : Grows cl e.st e.brakeLinkLost.st := by
  unfold Ev.brakeLinkLost
  refine Grows.trans (Grows.trans ?_ (grows_latch cl _ _ _)) (grows_vehicleUpdate cl _ _)
  exact .aside

theorem grows_openExpiry (s : State) (g : Gallery) : Grows cl s (s.openExpiry g) := by
  unfold State.openExpiry; split
  · exact .aside
  · exact .refl _ _

theorem grows_stepExpiry (s : State) (g : Gallery) : Grows cl s (s.stepExpiry g) := by
  unfold State.stepExpiry; split
  · exact grows_endStep cl _ _ _
  · exact .refl _ _

theorem grows_closeExpiry (g : Gallery) (e : Ev) : Grows cl e.st (e.closeExpiry g).st := by
  unfold Ev.closeExpiry
  split
  · next d _ _ =>
    have hl : Grows cl e.st (e.on fun s => s.leaveClosing d.cls).st := by
      rw [Ev.on_st]; unfold State.leaveClosing; split
      · exact grows_stepCloses cl _
      · exact .refl _ _
    dsimp only
    split
    · exact (hl.trans (grows_finishStep cl _ _)).trans (grows_freeTransfer cl _ _ _)
    · exact hl.trans .aside
  · exact .refl _ _

theorem grows_settleExpiry (g : Gallery) (e : Ev) : Grows cl e.st (e.settleExpiry g).st := by
  unfold Ev.settleExpiry
  dsimp only
  split
  · exact (grows_finishStep cl _ _).trans (grows_evaluate cl _ _ _)
  · exact .refl _ _

theorem grows_cancelRecords (rs : List LiveRec) (e : Ev) : Grows cl e.st (Ev.cancelRecords rs e).1.st := by
  induction rs generalizing e with
  | nil => exact .refl _ _
  | cons r rs ih =>
    cases r with
    | point p =>
      unfold Ev.cancelRecords
      refine Grows.trans ?_ (ih _)
      rw [Ev.triggerBoth_st, Ev.on_st]; exact grows_unlink cl _ _
    | transfer d => exact (grows_tearDown cl _ d e).trans (ih _)

theorem grows_ownersTold (ds : List Desc) (e : Ev) : Grows cl e.st (e.ownersTold ds).st := by
  induction ds generalizing e with
  | nil => exact .refl _ _
  | cons d r ih => exact (grows_ownerFreed cl d .torn e).trans (ih _)

theorem grows_cancel (m : Master) (scope cls node : Byte) (e : Ev) : Grows cl e.st (e.cancel m scope cls node).1.st := by
  unfold Ev.cancel
  split
  · split
    · dsimp only
      refine Grows.trans ?_ (grows_ownersTold cl _ _)
      split
      · exact grows_cancelRecords cl _ _
      · exact (grows_cancelRecords cl _ _).trans (grows_testPoints cl _)
    · exact .refl _ _
  · exact .refl _ _

theorem grows_queued {s t : State} (h : Queued s t) : Grows cl s t := by
  unfold Queued at h
  rw [h]
  exact .aside

theorem grows_close (reply : Option OutMsg) (e : Ev) : Grows cl e.st (e.close reply) :=
  (grows_scans cl scanBound e).trans (grows_queued cl (queued_close reply e))

theorem grows_receive (s : State) (h : Hdr) (c : Instr) : Grows cl s (s.receive h c).1 := by
  rw [receive_st]; exact .aside

end Sys2Proof.Machine
end

