-- ==== Sys2Proof/Laws/Completion.lean ====
section
/-! SUPPORT. How a command comes to its next state: a request that passes its checks, an event in a phase other than RESET, and the end
of an event whose scans find nothing to grant. -/

set_option Elab.async false

namespace Sys2Proof.Machine

theorem Passes.common {s : State} {h : Hdr} {code : Nat} (p : Passes s h code) (c : Instr) :
    (s.heard h c).commonRefusal h code = none := by
  unfold State.commonRefusal State.heard
  simp [p.role, p.shape, p.run]

/-- A taken request, answered to the sender's own address. -/
theorem Passes.request {s : State} {h : Hdr} {code : Nat} (p : Passes s h code) (c : Instr) (f : Ev → Ev × Answer)
    (loud : silentKind code = false) :
    Machine.request c h code f noFrame s =
      ((f (Ev.of (s.heard h c))).1.scans scanBound).st.enqueueAll
        ((s.heard h c).replies h code (f (Ev.of (s.heard h c))).2 ++ ((f (Ev.of (s.heard h c))).1.scans scanBound).out) := by
  rw [request_taken (by rw [p.run]; decide) (p.common c)]
  unfold Ev.close State.replies State.heard noFrame
  simp only [loud, Bool.or_false]
  cases h.noReply <;> simp

/-- A taken request that is never replied to. -/
theorem Passes.silent {s : State} {h : Hdr} {code : Nat} (p : Passes s h code) (c : Instr) (f : Ev → Ev × Answer)
    (quiet : silentKind code = true) :
    Machine.request c h code f noFrame s = (f (Ev.of (s.heard h c))).1.close none := by
  rw [request_taken (by rw [p.run]; decide) (p.common c)]
  unfold State.heard
  simp [quiet]

/-- The fixed fields after a taken request: those its handler leaves. -/
theorem Passes.fixed {s : State} {h : Hdr} {code : Nat} (p : Passes s h code) (c : Instr) (f : Ev → Ev × Answer)
    (ff : Answer → Bool) :
    (Machine.request c h code f ff s).fixed =
      { (f (Ev.of (s.heard h c))).1.st.fixed with
        lku := (Machine.request c h code f ff s).lku, freeCount := (Machine.request c h code f ff s).freeCount } := by
  rw [request_taken (by rw [p.run]; decide) (p.common c)]
  exact close_fixed _ _

/-- The link unit after a taken request: as its handler leaves it but for the transmit queues. -/
theorem Passes.link {s : State} {h : Hdr} {code : Nat} (p : Passes s h code) (c : Instr) (f : Ev → Ev × Answer)
    (ff : Answer → Bool) : SameLink (f (Ev.of (s.heard h c))).1.st (Machine.request c h code f ff s) := by
  rw [request_taken (by rw [p.run]; decide) (p.common c)]
  exact close_link _ _

/-- What a taken request's handler makes grow stays. -/
theorem Passes.grows {s : State} {h : Hdr} {code : Nat} (p : Passes s h code) (c : Instr) (f : Ev → Ev × Answer)
    (ff : Answer → Bool) (cl : Bool) : Grows cl (f (Ev.of (s.heard h c))).1.st (Machine.request c h code f ff s) := by
  rw [request_taken (by rw [p.run]; decide) (p.common c)]
  exact grows_close cl _ _

/-- A scan of a state with nothing to grant changes nothing. -/
theorem testAll_noGrant (g : Gallery) (ids : List Nat) (acc : Ev × List Candidate)
    (n : ∀ d ∈ acc.1.st.transfers, d.state = .queued → d.kind.gallery ≠ g) : Ev.testAll g ids acc = acc := by
  induction ids with
  | nil => rfl
  | cons id r ih =>
    have : Ev.testOne g acc id = acc := by
      unfold Ev.testOne
      dsimp only
      split
      · rfl
      · next d hd =>
        rw [if_neg]
        rintro ⟨q, k⟩
        exact n d (State.mem_of_descAt hd).1 q k
    unfold Ev.testAll
    rw [this, ih]

theorem walkSlots_nil (w : Settings) (p : Nat) : walkSlots w p [] = none := by
  unfold walkSlots
  rw [List.findSome?_eq_none_iff]
  intro x _
  rfl

theorem scanGallery_noGrant (g : Gallery) (e : Ev) (n : NoGrant e.st) : e.scanGallery g = e := by
  unfold Ev.scanGallery
  split
  · next i =>
    have h : Ev.testAll g e.st.transferIds (e, []) = (e, []) := by
      apply testAll_noGrant
      intro d hd q k
      have := n d hd q
      rw [k, i] at this
      exact Bool.noConfusion this
    dsimp only
    rw [h]
    simp [walkSlots_nil]
  · rfl

/-- The scans of a state with nothing to grant change neither it nor what is to be sent. -/
theorem scans_noGrant (k : Nat) (e : Ev) (n : NoGrant e.st) : (e.scans k).st = e.st ∧ (e.scans k).out = e.out := by
  induction k generalizing e with
  | zero => exact ⟨rfl, rfl⟩
  | succ k ih =>
    unfold Ev.scans
    split
    · rw [scanGallery_noGrant _ _ (by exact n)]
      exact ih _ n
    · split
      · rw [scanGallery_noGrant _ _ (by exact n)]
        exact ih _ n
      · exact ⟨rfl, rfl⟩

/-- The end of an event that leaves nothing to grant. -/
theorem close_noGrant (reply : Option OutMsg) (e : Ev) (n : NoGrant e.st) :
    e.close reply = e.st.enqueueAll (reply.toList ++ e.out) := by
  unfold Ev.close
  obtain ⟨h1, h2⟩ := scans_noGrant scanBound e n
  dsimp only
  rw [h1, h2]

/-- A taken request that leaves nothing to grant. -/
theorem Passes.noGrant {s : State} {h : Hdr} {code : Nat} (p : Passes s h code) (c : Instr) (f : Ev → Ev × Answer)
    (loud : silentKind code = false) (n : NoGrant (f (Ev.of (s.heard h c))).1.st) :
    Machine.request c h code f noFrame s =
      (f (Ev.of (s.heard h c))).1.st.enqueueAll
        ((s.heard h c).replies h code (f (Ev.of (s.heard h c))).2 ++ (f (Ev.of (s.heard h c))).1.out) := by
  rw [p.request c f loud]
  obtain ⟨h1, h2⟩ := scans_noGrant scanBound _ n
  rw [h1, h2]

/-- A taken request that starts no scan and sends nothing of its own. -/
theorem Passes.plain {s : State} {h : Hdr} {code : Nat} (p : Passes s h code) (c : Instr) (f : Ev → Ev × Answer)
    (loud : silentKind code = false) (a : (f (Ev.of (s.heard h c))).1.scan = PerGallery.fill false)
    (o : (f (Ev.of (s.heard h c))).1.out = []) :
    Machine.request c h code f noFrame s =
      (f (Ev.of (s.heard h c))).1.st.answered (s.heard h c) h code (f (Ev.of (s.heard h c))).2 := by
  rw [p.request c f loud, scans_none _ _ (by rw [a]; rfl) (by rw [a]; rfl), o, List.append_nil]
  rfl

/-! ### The state once a request has been received -/

/-- The state once a request's frame has left its receiver: the link unit's receivers and panel link alone differ. -/
theorem heard_st (s : State) (h : Hdr) (c : Instr) :
    s.heard h c =
      { s with
        lku.fifo := (s.heard h c).lku.fifo
        lku.good := (s.heard h c).lku.good
        lku.panelSilence := (s.heard h c).lku.panelSilence
        lku.panelLink := (s.heard h c).lku.panelLink } := receive_st s h c

section
variable (s : State) (h : Hdr) (c : Instr)

@[simp] theorem heard_msu : (s.heard h c).msu = s.msu := by rw [heard_st]
@[simp] theorem heard_tgu : (s.heard h c).tgu = s.tgu := by rw [heard_st]
@[simp] theorem heard_aac : (s.heard h c).aac = s.aac := by rw [heard_st]
@[simp] theorem heard_dqm : (s.heard h c).dqm = s.dqm := by rw [heard_st]
@[simp] theorem heard_glc : (s.heard h c).glc = s.glc := by rw [heard_st]
@[simp] theorem heard_hlc : (s.heard h c).hlc = s.hlc := by rw [heard_st]
@[simp] theorem heard_llu : (s.heard h c).llu = s.llu := by rw [heard_st]
@[simp] theorem heard_spu : (s.heard h c).spu = s.spu := by rw [heard_st]
@[simp] theorem heard_evu : (s.heard h c).evu = s.evu := by rw [heard_st]
@[simp] theorem heard_sts : (s.heard h c).sts = s.sts := by rw [heard_st]
@[simp] theorem heard_now : (s.heard h c).now = s.now := by rw [heard_st]
@[simp] theorem heard_freeCount : (s.heard h c).freeCount = s.freeCount := by rw [heard_st]
@[simp] theorem heard_pending : (s.heard h c).pending = s.pending := by rw [heard_st]
@[simp] theorem heard_ws : (s.heard h c).ws = s.ws := by rw [heard_st]; rfl
@[simp] theorem heard_speedState : (s.heard h c).speedState = s.speedState := by rw [heard_st]; rfl
@[simp] theorem heard_held : (s.heard h c).held = s.held := by rw [heard_st]; rfl
@[simp] theorem heard_faulted (n : Node) : (s.heard h c).faulted n = s.faulted n := by rw [heard_st]; rfl
@[simp] theorem heard_pressure (n : Node) : (s.heard h c).pressure n = s.pressure n := by rw [heard_st]; rfl
@[simp] theorem heard_height (sd : Side) : (s.heard h c).height sd = s.height sd := by rw [heard_st]; rfl
@[simp] theorem heard_descOf (m : Managed) : (s.heard h c).descOf m = s.descOf m := by rw [heard_st]; rfl
@[simp] theorem heard_descSharing (ms : List Managed) : (s.heard h c).descSharing ms = s.descSharing ms := by
  rw [heard_st]; rfl
@[simp] theorem heard_descOfClass (x : Cls) : (s.heard h c).descOfClass x = s.descOfClass x := by rw [heard_st]; rfl
@[simp] theorem heard_formTarget (t : Tyre) (o : Option Nat) : (s.heard h c).formTarget t o = s.formTarget t o := by
  rw [heard_st]; rfl
@[simp] theorem heard_offTolerance (t : Tyre) (g : Nat) : (s.heard h c).offTolerance t g = s.offTolerance t g := by
  rw [heard_st]; rfl
@[simp] theorem heard_nominal : (s.heard h c).nominal = s.nominal := by rw [heard_st]; rfl
@[simp] theorem heard_idle (g : Gallery) : (s.heard h c).idle g = s.idle g := by rw [heard_st]; rfl
@[simp] theorem heard_transfers : (s.heard h c).transfers = s.transfers := by rw [heard_st]; rfl
end

/-- What a request's receipt changes among the fixed fields. -/
theorem heard_fixed (s : State) (h : Hdr) (c : Instr) :
    (s.heard h c).fixed = { s.fixed with lku := (s.heard h c).lku } := receive_fixed s h c

/-! ### Requests whose handler changes the state alone -/

/-- A taken request whose handler does nothing. -/
theorem Passes.same {s : State} {h : Hdr} {code : Nat} (p : Passes s h code) (c : Instr) (f : Ev → Ev × Answer)
    (loud : silentKind code = false) {a : Answer} (hf : f (Ev.of (s.heard h c)) = (Ev.of (s.heard h c), a)) :
    Machine.request c h code f noFrame s = (s.heard h c).answered (s.heard h c) h code a := by
  rw [p.plain c f loud (by rw [hf]; rfl) (by rw [hf]; rfl), hf]
  rfl

/-- A taken request whose handler changes the state alone. -/
theorem Passes.onto {s : State} {h : Hdr} {code : Nat} (p : Passes s h code) (c : Instr) (f : Ev → Ev × Answer)
    (loud : silentKind code = false) {a : Answer} (g : State → State)
    (hf : f (Ev.of (s.heard h c)) = ((Ev.of (s.heard h c)).on g, a)) :
    Machine.request c h code f noFrame s = (g (s.heard h c)).answered (s.heard h c) h code a := by
  rw [p.plain c f loud (by rw [hf]; rfl) (by rw [hf]; rfl), hf]
  rfl

/-- An event that changes the state alone. -/
theorem event_on {s : State} (run : s.sts.phase ≠ .reset) (g : State → State) : event (fun e => e.on g) s = g s := by
  rw [event_run run, close_noScan _ _ rfl rfl]
  rfl

/-- The end of an event that starts no scan is queueing alone. -/
theorem close_queued (reply : Option OutMsg) (e : Ev) (n : e.scan = PerGallery.fill false) : Queued e.st (e.close reply) := by
  rw [close_noScan _ _ (by rw [n]; rfl) (by rw [n]; rfl)]
  exact queued_enqueueAll _ _

/-- The end of an event that leaves nothing to grant is queueing alone. -/
theorem close_queued_noGrant (reply : Option OutMsg) (e : Ev) (n : NoGrant e.st) : Queued e.st (e.close reply) := by
  rw [close_noGrant _ _ n]
  exact queued_enqueueAll _ _

/-- Latches stay to the end of an event. -/
theorem latched_close {e : Ev} {k : EventKind} {ns : List Node} (reply : Option OutMsg) (l : LatchedAll e.st k ns) :
    LatchedAll (e.close reply) k ns := by
  intro m
  obtain ⟨p, hp, hn⟩ := l m
  obtain ⟨q, hq, hpq⟩ := (grows_close false reply e).latches m k p hp
  exact ⟨q, hq, fun n h => hpq n (hn n h)⟩

/-- What has been latched stays through what only grows. -/
theorem LatchedAll.grows {s t : State} {k : EventKind} {ns : List Node} {cl : Bool} (l : LatchedAll s k ns) (g : Grows cl s t) :
    LatchedAll t k ns := by
  intro m
  obtain ⟨p, hp, hn⟩ := l m
  obtain ⟨q, hq, hpq⟩ := g.latches m k p hp
  exact ⟨q, hq, fun n h => hpq n (hn n h)⟩

/-- A latch is in every set. -/
theorem latched_latch (e : Ev) (k : EventKind) (ns : List Node) : LatchedAll (Ev.latch k ns e).st k ns :=
  fun m => latch_holds e k ns m

end Sys2Proof.Machine
end

