-- ==== Sys2Proof/Laws/Answers.lean ====
section
/-! SUPPORT. What a taken request is answered, what a latch sends, and how the tables of Sys2Proof.Frame agree with the operations that
follow them. -/

set_option Elab.async false

namespace Sys2Proof.Machine

/-! ### Answers -/

/-- A taken request whose handler leaves the link unit and the free value's counter alone is answered as its handler says. -/
theorem Passes.answers {s : State} {h : Hdr} {code : Nat} (p : Passes s h code) (c : Instr) (f : Ev → Ev × Answer)
    (loud : silentKind code = false) (link : (f (Ev.of (s.heard h c))).1.st.lku = (s.heard h c).lku)
    (count : (f (Ev.of (s.heard h c))).1.st.freeCount = (s.heard h c).freeCount) :
    Answers (s.heard h c) (Machine.request c h code f noFrame s) h code (f (Ev.of (s.heard h c))).2 := by
  refine ⟨_, _, ?_, ?_, p.request c f loud⟩
  · rw [← link]; exact congrArg Fixed.lku (Ev.scans_fixed _ _)
  · rw [← count]; exact congrArg Fixed.freeCount (Ev.scans_fixed _ _)

/-- One latch set after a latch holds the kind with the nodes, and of every other kind what it held. -/
theorem latchInto_other (x : LatchSet) (k j : EventKind) (ns : List Node) (n : j ≠ k) : (latchInto x k ns).1.get j = x.get j := by
  unfold latchInto
  split
  · cases j <;> cases k <;> first | rfl | exact absurd rfl n
  · dsimp only
    split
    · rfl
    · cases j <;> cases k <;> first | rfl | exact absurd rfl n

/-- A latch leaves the other kinds of every set as they were. -/
theorem latch_other (e : Ev) (k j : EventKind) (ns : List Node) (n : j ≠ k) (m : Master) :
    ((Ev.latch k ns e).st.evu.latches.get m).get j = (e.st.evu.latches.get m).get j := by
  unfold Ev.latch
  simp only [Ev.latchFor_st]
  cases m <;> exact latchInto_other _ k j ns n

/-- An EVENT report of a kind (R158). -/
def EventReport (k : EventKind) (o : OutMsg) : Prop :=
  o.code = codeEvent ∧ o.bytes.head? = (eventBytes k []).head? ∧ o.periodic = false

theorem latchFor_out (e : Ev) (m : Master) (k : EventKind) (ns : List Node) :
    ∃ l, (e.latchFor m k ns).out = e.out ++ l ∧ ∀ o ∈ l, EventReport k o := by
  unfold Ev.latchFor
  dsimp only
  split
  · next fresh _ =>
    split
    · exact ⟨_, rfl, fun o ho => by rw [List.mem_singleton] at ho; subst ho; exact ⟨rfl, rfl, rfl⟩⟩
    · exact ⟨[], (List.append_nil _).symm, fun _ h => nomatch h⟩
  · exact ⟨[], (List.append_nil _).symm, fun _ h => nomatch h⟩

/-- A latch sends EVENT reports of its kind alone. -/
theorem latch_out (e : Ev) (k : EventKind) (ns : List Node) :
    ∃ l, (Ev.latch k ns e).out = e.out ++ l ∧ ∀ o ∈ l, EventReport k o := by
  obtain ⟨a, ha, ka⟩ := latchFor_out e .cab k ns
  obtain ⟨b, hb, kb⟩ := latchFor_out (e.latchFor .cab k ns) .brake k ns
  obtain ⟨c, hc, kc⟩ := latchFor_out ((e.latchFor .cab k ns).latchFor .brake k ns) .panel k ns
  refine ⟨a ++ b ++ c, by unfold Ev.latch; rw [hc, hb, ha]; simp, fun o ho => ?_⟩
  simp only [List.mem_append] at ho
  rcases ho with (ho | ho) | ho
  · exact ka o ho
  · exact kb o ho
  · exact kc o ho

/-- A taken request whose handler does no more than latch STARVED on a state and put that state's other fields as they are to stay. -/
theorem Passes.starved {s : State} {h : Hdr} {code : Nat} (p : Passes s h code) (c : Instr) (f : Ev → Ev × Answer)
    (loud : silentKind code = false) {ns : List Node} {q : State} (e : Ev) (scan : e.scan = PerGallery.fill false) (out : e.out = [])
    (old : e.st.evu = q.evu) (same : q.sts = (s.heard h c).sts)
    (st : (f (Ev.of (s.heard h c))).1.st = { q with evu.latches := (Ev.latch .starved ns e).st.evu.latches })
    (sc : (f (Ev.of (s.heard h c))).1.scan = (Ev.latch .starved ns e).scan)
    (ot : (f (Ev.of (s.heard h c))).1.out = (Ev.latch .starved ns e).out)
    (ans : (f (Ev.of (s.heard h c))).2 = .refused .noDescriptor) :
    AnswersStarved q (Machine.request c h code f noFrame s) h code ns := by
  obtain ⟨l, hl, kl⟩ := latch_out e .starved ns
  have none : (f (Ev.of (s.heard h c))).1.scan = PerGallery.fill false := by rw [sc, Ev.latch_scan, scan]
  refine ⟨_, l, ?_, fun m => ⟨latch_holds e .starved ns m, fun k n => ?_⟩, fun o ho => ?_⟩
  · rw [p.request c f loud, scans_none _ _ (by rw [none]; rfl) (by rw [none]; rfl), st, ot, hl, out, ans, List.nil_append]
    congr 2
    unfold State.replies
    cases h.noReply
    · simp only [Bool.false_eq_true, if_false]
      unfold State.reply State.ws
      rw [same]
    · rfl
  · rw [latch_other e .starved k ns n m, old]
  · obtain ⟨h1, h2, h3⟩ := kl o ho
    exact ⟨h1, h2, h3⟩

/-! ### Tables -/

/-- The ask of the lift decision is that of R127's table for the aim that stands. -/
theorem liftWants_eq (s : State) : s.liftWants = s.liftTable s.llu.aim := by
  unfold State.liftWants State.liftTable
  dsimp only
  cases s.llu.lift <;> cases s.llu.aim <;> cases s.pressure .lft <;>
    simp only [holdsOf, Bool.and_eq_true, Bool.and_false, Bool.false_eq_true, if_false] <;>
    first | rfl | exact if_congr (and_congr Iff.rfl decide_eq_true_iff) rfl rfl

/-- A step's node list and start reading are those of R75 and R82. -/
theorem grantStart_eq (s : State) (d : Desc) (names : d.cls.names d.nodes) (takes : d.cls.takes d.kind) :
    s.grantStart d = (stepNodes d, s.startReading d) := by
  unfold State.grantStart stepNodes State.startReading
  obtain ⟨id, cls, nodes, goal, pending, origin, state, kind, stepGoal⟩ := d
  cases kind with
  | sideFill sd => cases sd <;> rfl
  | sideVent sd => cases sd <;> rfl
  | fill => rfl
  | vent => rfl
  | pairFill => cases cls <;> simp_all [Cls.names, Cls.takes]
  | pairVent => cases cls <;> simp_all [Cls.names, Cls.takes]
  | cross => cases cls <;> simp_all [Cls.names, Cls.takes]

/-- A point holds back a step kind where some point older than its record does. -/
theorem heldByPoint_eq (id : Nat) (k : StepKind) (l : List LiveRec) (first : ∀ p, LiveRec.point p ∈ l → p.id ≠ id) :
    heldByPoint id k l =
      (l.takeWhile fun r => r.id != id).any fun r =>
        match r with
        | .point p => if k.isFill then p.succ.fill else p.succ.vent
        | .transfer _ => false := by
  induction l with
  | nil => rfl
  | cons r l ih =>
    have ih := ih fun p hp => first p (List.mem_cons_of_mem _ hp)
    cases r with
    | point p =>
      have : p.id ≠ id := first p (List.mem_cons_self ..)
      simp [heldByPoint, LiveRec.id, this, ih]
    | transfer d =>
      by_cases hd : d.id = id
      · simp [heldByPoint, LiveRec.id, hd]
      · simp [heldByPoint, LiveRec.id, hd, ih]

/-- The first six conditions of R79 are those of the scan. -/
theorem firstWait_eq {s : State} {d : Desc} (w : PoolWhole s) (hd : d ∈ s.transfers) : s.firstWait d = s.barred d := by
  have first : ∀ p, LiveRec.point p ∈ s.dqm.live → p.id ≠ d.id := by
    intro p hp e
    exact LiveRec.noConfusion (w.unique_rec hp (State.mem_transfers.1 hd) e)
  unfold State.firstWait State.barred
  rw [heldByPoint_eq _ _ _ first]
  dsimp only
  congr 1
  congr 1
  · simp [StopSet.occupied]
  congr 1
  · cases d.cls <;> simp [Cls.movesDeck, State.held]
  congr 1
  · cases d.cls <;> cases s.tgu.mode <;> simp
  congr 1
  · simp

/-! ### The tests of a scan -/

/-- The step goal of a candidate is the one that the grant gives (R82). -/
theorem ventGoal_eq (s : State) (d : Desc) (k : d.kind.isFill = false) : ventGoal d = s.grantGoal d := by
  unfold ventGoal State.grantGoal
  cases hk : d.kind <;> first | rfl | (rw [hk] at k; cases k)

theorem fillGoal_eq {s : State} {d : Desc} {x c : Nat} (k : d.kind.isFill = true) (a : s.fillAnswer d = .step x c) :
    some x = s.grantGoal d := by
  unfold State.grantGoal
  rw [a]
  cases hk : d.kind <;> first | rfl | (rw [hk] at k; cases k)

/-- A live record with the wait reason of R79, where its transfer is QUEUED for the gallery and its id is among these. -/
def State.mark (s : State) (g : Gallery) (ids : List Nat) (l : LiveRec) : LiveRec :=
  match l with
  | .point p => .point p
  | .transfer d =>
    .transfer (if d.state = .queued ∧ d.kind.gallery = g ∧ d.id ∈ ids then { d with wait := (s.scanWait d).getD .clear } else d)

/-- The state once these transfers have been tested. -/
def State.marked (s : State) (g : Gallery) (ids : List Nat) : State := { s with dqm.live := s.dqm.live.map (s.mark g ids) }

/-- The candidate that an eligible transfer makes. -/
def State.candidate (s : State) (d : Desc) : Candidate := { desc := { d with wait := .clear }, goal := s.grantGoal d }

theorem heldByPoint_mark (s : State) (g : Gallery) (ids : List Nat) (id : Nat) (k : StepKind) (l : List LiveRec) :
    heldByPoint id k (l.map (s.mark g ids)) = heldByPoint id k l := by
  induction l with
  | nil => rfl
  | cons r l ih =>
    cases r with
    | point p => simp [heldByPoint, State.mark, ih]
    | transfer d =>
      simp only [List.map_cons, State.mark, heldByPoint, ih]
      split <;> rfl

theorem marked_firstWait (s : State) (g : Gallery) (ids : List Nat) (d : Desc) :
    (s.marked g ids).firstWait d = s.firstWait d := by
  unfold State.firstWait
  rw [show (s.marked g ids).dqm.live = s.dqm.live.map (s.mark g ids) from rfl, heldByPoint_mark]
  rfl

theorem marked_descAt {s : State} (w : PoolWhole s) (g : Gallery) {ids : List Nat} {d : Desc} (hd : d ∈ s.transfers)
    (n : d.id ∉ ids) : (s.marked g ids).descAt d.id = some d := by
  have e : (s.marked g ids).liveIds = s.liveIds := by
    unfold State.liveIds State.marked
    simp only [List.map_map]
    refine List.map_congr_left fun r _ => ?_
    cases r with
    | point p => rfl
    | transfer d => simp only [Function.comp, State.mark, LiveRec.id]; split <;> rfl
  have w' : PoolWhole (s.marked g ids) := by unfold PoolWhole; rw [e]; exact w
  refine w'.descAt ?_
  rw [State.mem_transfers] at hd ⊢
  refine List.mem_map.2 ⟨_, hd, ?_⟩
  simp [State.mark, n]

theorem marked_setWait {s : State} (w : PoolWhole s) {g : Gallery} {ids : List Nat} {d : Desc} (hd : d ∈ s.transfers)
    (q : d.state = .queued) (k : d.kind.gallery = g) :
    (s.marked g ids).setWait d.id ((s.scanWait d).getD .clear) = s.marked g (ids ++ [d.id]) := by
  unfold State.setWait State.modDesc State.marked
  simp only [List.map_map]
  congr 2
  refine List.map_congr_left fun r hr => ?_
  cases r with
  | point p => rfl
  | transfer x =>
    simp only [Function.comp, State.mark, List.mem_append, List.mem_singleton]
    by_cases hx : x.id = d.id
    · have : x = d := w.unique (State.mem_transfers.2 hr) hd hx
      subst this
      by_cases hi : x.id ∈ ids <;> simp [q, k, hi]
    · by_cases hi : x.id ∈ ids
      · by_cases c : x.state = .queued ∧ x.kind.gallery = g <;> simp [hi, hx, c]
      · simp [hi, hx]

theorem marked_skip {s : State} (w : PoolWhole s) {g : Gallery} {ids : List Nat} {d : Desc} (hd : d ∈ s.transfers)
    (n : ¬ (d.state = .queued ∧ d.kind.gallery = g)) : s.marked g ids = s.marked g (ids ++ [d.id]) := by
  suffices live : s.dqm.live.map (s.mark g ids) = s.dqm.live.map (s.mark g (ids ++ [d.id])) by
    unfold State.marked; rw [live]
  refine List.map_congr_left fun r hr => ?_
  cases r with
  | point p => rfl
  | transfer x =>
    simp only [State.mark, List.mem_append, List.mem_singleton]
    by_cases hx : x.id = d.id
    · have : x = d := w.unique (State.mem_transfers.2 hr) hd hx
      subst this
      rw [if_neg fun h => n ⟨h.1, h.2.1⟩, if_neg fun h => n ⟨h.1, h.2.1⟩]
    · simp [hx]

/-- The test of one transfer that has not been tested yet, with RSV valid for a fill and no NO_FILL answer. -/
theorem testOne_marked {e : Ev} (w : PoolWhole e.st) {g : Gallery} {ids : List Nat} {d : Desc} (hd : d ∈ e.st.transfers)
    (n : d.id ∉ ids) (rsv : g = .a → e.st.pressure .rsv ≠ none)
    (fill : d.state = .queued → d.kind.gallery = g → e.st.barred d = none → d.kind.isFill = true → e.st.fillAnswer d ≠ .noFill)
    (cs : List Candidate) :
    Ev.testOne g (e.on fun s => s.marked g ids, cs) d.id =
      (e.on fun s => s.marked g (ids ++ [d.id]),
        cs ++ if d.state = .queued ∧ d.kind.gallery = g ∧ e.st.scanWait d = none then [e.st.candidate d] else []) := by
  have fw : (e.st.marked g ids).firstWait d = e.st.barred d := by rw [marked_firstWait, firstWait_eq w hd]
  unfold Ev.testOne
  dsimp only [Ev.on]
  rw [marked_descAt w g hd n]
  dsimp only
  by_cases c : d.state = .queued ∧ d.kind.gallery = g
  · rw [if_pos c, fw]
    have set := marked_setWait (ids := ids) w hd c.1 c.2
    cases hb : e.st.barred d with
    | some x =>
      have hs : e.st.scanWait d = some x := by unfold State.scanWait; rw [hb]
      rw [hs] at set
      simp only [Option.getD_some] at set
      simp [hs, set]
    | none =>
      dsimp only
      by_cases hk : d.kind.isFill = true
      · rw [if_pos hk]
        have ga : g = .a := by rw [← c.2]; revert hk; cases d.kind <;> simp [StepKind.isFill, StepKind.gallery]
        obtain ⟨p, hp⟩ := Option.ne_none_iff_exists'.1 (rsv ga)
        have hp' : (e.st.marked g ids).pressure .rsv = some p := hp
        have fa : (e.st.marked g ids).fillAnswer d = e.st.fillAnswer d := rfl
        unfold Ev.fillQuery
        dsimp only
        rw [hp', fa]
        dsimp only
        cases ha : e.st.fillAnswer d with
        | noFill => exact absurd ha (fill c.1 c.2 hb hk)
        | air =>
          have hs : e.st.scanWait d = some .air := by unfold State.scanWait; rw [hb]; simp [hk, ha]
          rw [hs] at set
          simp only [Option.getD_some] at set
          simp [hs, set]
        | step x y =>
          have hs : e.st.scanWait d = none := by unfold State.scanWait; rw [hb]; simp [ha]
          rw [hs] at set
          simp only [Option.getD_none] at set
          simp [hs, set, c, State.candidate, ← fillGoal_eq hk ha]
      · have hk' : d.kind.isFill = false := by simpa using hk
        have hs : e.st.scanWait d = none := by unfold State.scanWait; rw [hb]; simp [hk']
        rw [hs] at set
        simp only [Option.getD_none] at set
        simp [hk', hs, set, c, State.candidate, ventGoal_eq e.st d hk']
  · rw [if_neg c, if_neg fun h => c ⟨h.1, h.2.1⟩, List.append_nil, marked_skip w hd c]

/-- The tests of a scan (R79), with RSV valid for gallery A and no NO_FILL answer: every transfer QUEUED for the gallery gets its wait
reason, CLEAR where it is eligible, and the eligible ones are the candidates, oldest first. -/
theorem testAll_marked {e : Ev} (w : PoolWhole e.st) {g : Gallery} (rsv : g = .a → e.st.pressure .rsv ≠ none)
    (fill : ∀ d ∈ e.st.scanned g, e.st.barred d = none → d.kind.isFill = true → e.st.fillAnswer d ≠ .noFill) :
    Ev.testAll g e.st.transferIds (e, []) =
      (e.on fun s => s.marked g s.transferIds, (e.st.eligible g).map e.st.candidate) := by
  have walk : ∀ (ds : List Desc) (ids : List Nat) (cs : List Candidate), (∀ d ∈ ds, d ∈ e.st.transfers) →
      (ids ++ ds.map Desc.id).Nodup →
      Ev.testAll g (ds.map Desc.id) (e.on fun s => s.marked g ids, cs) =
        (e.on fun s => s.marked g (ids ++ ds.map Desc.id),
          cs ++ ((ds.filter fun d => d.state == .queued && d.kind.gallery == g).filter fun d => (e.st.scanWait d).isNone).map
            e.st.candidate) := by
    intro ds
    induction ds with
    | nil => intro ids cs _ _; simp [Ev.testAll]
    | cons d ds ih =>
      intro ids cs sub nd
      have nd' : (ids ++ [d.id] ++ ds.map Desc.id).Nodup := by simpa using nd
      have hd := sub d (List.mem_cons_self ..)
      have n : d.id ∉ ids := fun h => by
        have := (List.nodup_append.1 nd).2.2 _ h _ (List.mem_cons_self ..)
        exact this rfl
      unfold Ev.testAll
      rw [List.map_cons]
      dsimp only
      rw [testOne_marked w hd n rsv (fun q k => fill d (by unfold State.scanned; simp [hd, q, k])) cs,
        ih _ _ (fun x hx => sub x (List.mem_cons_of_mem _ hx)) nd']
      refine Prod.ext ?_ ?_
      · simp
      · by_cases c : d.state = .queued ∧ d.kind.gallery = g
        · by_cases hs : e.st.scanWait d = none <;> simp [c, hs]
        · rw [if_neg fun h => c ⟨h.1, h.2.1⟩]
          have : (d.state == DescState.queued && d.kind.gallery == g) = false := by
            rw [Bool.and_eq_false_iff]
            by_cases q : d.state = .queued
            · exact .inr (by simpa using fun k => c ⟨q, k⟩)
            · exact .inl (by simpa using q)
          simp [this]
  have start : e.on (fun s => s.marked g []) = e := by
    have : e.st.dqm.live.map (e.st.mark g []) = e.st.dqm.live := by
      conv_rhs => rw [← List.map_id e.st.dqm.live]
      refine List.map_congr_left fun r _ => ?_
      cases r <;> simp [State.mark]
    show { e with st := { e.st with dqm.live := e.st.dqm.live.map (e.st.mark g []) } } = e
    rw [this]
  have nd : (e.st.transfers.map Desc.id).Nodup := by
    have : (e.st.transfers.map Desc.id).Sublist e.st.liveIds := by
      unfold State.transfers State.liveIds
      induction e.st.dqm.live with
      | nil => exact .slnil
      | cons r l ih =>
        cases r with
        | point p => exact .cons _ ih
        | transfer d => exact .cons_cons _ ih
    exact this.nodup w.nodup_live
  have := walk e.st.transfers [] [] (fun _ h => h) (by simpa using nd)
  rw [start] at this
  exact this

end Sys2Proof.Machine
end

