-- ==== Sys2Proof/Laws/Calm.lean ====
section
/-! SUPPORT. What each handler does to a safe state: every operation of a command keeps the records in order and the restrictions in
force (R50, R55, R59, R75, R93, R96). -/

set_option Elab.async false

namespace Sys2Proof.Machine

/-- The invariant of the records with the restrictions in force: what `Safe` says, in the form that the laws of the operations use. -/
def Good (s : State) : Prop := Whole none s ∧ Restrained s

/-- From s to t every record operation keeps the invariant of the records, no descriptor starts to move air, and the stop set, the
vehicle state record and brake priority stay: what a `Good` state needs to stay so. -/
def Calm (s t : State) : Prop :=
  Quiet none none s t ∧ t.glc.stop = s.glc.stop ∧ t.tgu.vehicle = s.tgu.vehicle ∧ t.aac.priority = s.aac.priority

/-- A calm operation keeps a good state good. -/
theorem Calm.good {s t : State} (c : Calm s t) (g : Good s) : Good t := by
  obtain ⟨w, a⟩ := c.1 g.1
  refine ⟨w, ?_⟩
  have r := g.2
  rw [restrained_iff] at r ⊢
  intro d hd ha
  obtain ⟨d0, h0, a0, -, c0, k0⟩ := a.air d hd ha
  have u := r d0 h0 a0
  refine ⟨by rw [c.2.1]; exact u.stop, ?_, ?_⟩
  · intro hm
    have := u.hold (by rw [c0]; exact hm)
    unfold State.held State.speedState at this ⊢
    rw [c.2.2.1]; exact this
  · intro hk
    rw [c.2.2.2]; exact u.brake (by rw [k0]; exact hk)

theorem Calm.of_fixed {s t : State} (q : Quiet none none s t) (f : t.fixed = s.fixed) : Calm s t :=
  ⟨q, congrArg Fixed.stop f, congrArg Fixed.vehicle f, congrArg Fixed.priority f⟩

theorem Calm.of_fixed' {s t : State} {f : Fixed} (q : Quiet none none s t) (h : t.fixed = f)
    (f1 : f.stop = s.glc.stop := by rfl) (f2 : f.vehicle = s.tgu.vehicle := by rfl)
    (f3 : f.priority = s.aac.priority := by rfl) : Calm s t :=
  ⟨q, (congrArg Fixed.stop h).trans f1, (congrArg Fixed.vehicle h).trans f2, (congrArg Fixed.priority h).trans f3⟩

theorem Calm.trans {s t u : State} (h : Calm s t) (k : Calm t u) : Calm s u :=
  ⟨h.1.trans k.1, k.2.1.trans h.2.1, k.2.2.1.trans h.2.2.1, k.2.2.2.trans h.2.2.2⟩

theorem Calm.aside {s t : State} (hd : t.dqm = s.dqm := by rfl) (hg : t.glc = s.glc := by rfl)
    (hv : t.tgu.vehicle = s.tgu.vehicle := by rfl) (hp : t.aac.priority = s.aac.priority := by rfl) : Calm s t :=
  ⟨quiet_aside none hd hg, by rw [hg], hv, hp⟩

theorem Calm.refl (s : State) : Calm s s := .of_fixed (.refl _ _) rfl

/-- The closing of an event (its scans, its reports, its answer) keeps a good state good. -/
theorem good_close {e : Ev} {r : Option OutMsg} (g : Good e.st) : Good (e.close r) := close_law r e g.1 g.2

/-- An event command keeps a good state good when its handler does. -/
theorem good_event {f : Ev → Ev} {s : State} (g : Good s) (h : Good (f (Ev.of s)).st) : Good (event f s) := by
  by_cases r : s.sts.phase = .reset
  · rw [event_reset r]; exact g
  · rw [event_run r]; exact good_close h

theorem good_ev {f : Ev → Ev} {s : State} (g : Good s) (h : ∀ e : Ev, Calm e.st (f e).st) : Good (event f s) :=
  good_event g ((h (Ev.of s)).good g)

theorem good_receive {s : State} {h : Hdr} {c : Instr} (g : Good s) : Good (s.receive h c).1 := by
  refine Calm.good ?_ g
  refine ⟨(same_receive s h c).quiet none, ?_, ?_, ?_⟩ <;> rw [receive_st]

/-- A request command keeps a good state good when its handler does. -/
theorem good_request {c : Instr} {h : Hdr} {code : Nat} {f : Ev → Ev × Answer} {ff : Answer → Bool} {s : State} (g : Good s)
    (hf : ∀ e : Ev, Good e.st → Good (f e).1.st) : Good (request c h code f ff s) := by
  by_cases r : s.sts.phase = .reset
  · rw [request_reset r]; exact g
  · cases hc : (s.receive h c).1.commonRefusal h code with
    | none => rw [request_taken r hc]; exact good_close (hf _ (good_receive g))
    | some x => rw [request_refused r hc]; exact good_close (good_receive g)

theorem good_req {c : Instr} {h : Hdr} {code : Nat} {f : Ev → Ev × Answer} {ff : Answer → Bool} {s : State} (g : Good s)
    (hf : ∀ e : Ev, Calm e.st (f e).1.st) : Good (request c h code f ff s) := good_request g fun e ge => (hf e).good ge

/-- A port event keeps a good state good when its effect is calm. -/
theorem good_port {f : State → State} {s : State} (g : Good s) (h : ∀ s, Calm s (f s)) : Good (portEvent f s) := by
  by_cases r : s.sts.phase = .reset
  · rw [portEvent_reset r]; exact g
  · rw [portEvent_run r]; exact (h s).good g

theorem good_startValues (p : Phase) (ws : Settings) (t : PerTyre Nat) (i : Option (List Half)) (n k : Nat) (q : List Instr) :
    Good (State.startValues p ws t i n k q) := by
  have ht : (State.startValues p ws t i n k q).transfers = [] := rfl
  refine ⟨⟨List.Perm.refl _, ?_, ?_, ?_, ?_, ?_, ?_⟩, ?_⟩
  · unfold NodesOnce; rw [ht]; exact List.Pairwise.nil
  · intro d hd; rw [ht] at hd; simp at hd
  · intro g f hf
    have : ((State.startValues p ws t i n k q).glc.galleries.get g).flight = none := by cases g <;> rfl
    rw [this] at hf; simp at hf
  · intro d hd; rw [ht] at hd; simp at hd
  · intro d hd; rw [ht] at hd; simp at hd
  · intro g hg
    have : (State.startValues p ws t i n k q).glc.valves.anyOpen g = false := by cases g <;> rfl
    rw [this] at hg; simp at hg
  · rw [restrained_iff]; intro d hd; rw [ht] at hd; simp at hd

/-- START leaves a good state. -/
theorem good_start (s : State) : Good s.start := by
  unfold State.start
  dsimp only
  refine good_close ?_
  split
  · exact (Calm.of_fixed (quiet_latch _ _ _ none) (Ev.latch_fixed _ _ _)).good (good_startValues _ _ _ _ _ _ _)
  · exact good_startValues _ _ _ _ _ _ _

theorem calm_endRound (s : State) : Calm s s.endRound := by
  unfold State.endRound
  split
  · split <;> exact .aside
  · exact .refl _

theorem quiet_pressureReceivers (n : Node) (e : Ev) : Quiet none none e.st (e.pressureReceivers n).st := by
  have pe : ∀ m e, Quiet none none e.st (Ev.pressureEnds m e).st := fun m e =>
    (quiet_pressureEnd .a m e none).trans (quiet_pressureEnd .b m _ none)
  have h : ∀ e1 : Ev, Quiet none none e.st e1.st → Quiet none none e.st ((e1.watch n).sensorFault n).st := fun e1 k => by
    refine Quiet.trans ?_ (quiet_sensorFault n _)
    unfold Ev.watch; split
    · exact k.trans ((same_monitorArrival _ _).quiet none)
    · exact k
  unfold Ev.pressureReceivers
  refine h _ ?_
  split
  · unfold Ev.rsvArrival; dsimp only
    have : Quiet none none e.st (e.on State.supplyArrival).floorTest.st := ((same_supplyArrival e.st).quiet none).trans (quiet_floorTest
        (e.on State.supplyArrival) none)
    split
    · rw [Ev.trigger_st]; exact this
    · exact this
  · exact (quiet_settledLoad .left e none).trans (pe _ _)
  · exact (quiet_settledLoad .right e none).trans (pe _ _)
  · exact (quiet_lftArrival e none).trans (pe _ _)
  · split
    · exact (quiet_tyreLoop _ e none).trans (pe _ _)
    · exact .refl _ _

/-- The receivers of a pressure arrival. -/
theorem calm_pressure (n x) (e : Ev) : Calm e.st (((e.on fun s => s.takePressure n x).pressureReceivers n).on State.endRound).st := by
  have h1 : Calm e.st (e.on fun s => s.takePressure n x).st := .aside
  refine (h1.trans ?_).trans (calm_endRound _)
  obtain ⟨_, _, _, _, _, _, h⟩ := pressureReceivers_fixed n (e.on fun s => s.takePressure n x)
  exact .of_fixed' (quiet_pressureReceivers n _) h

theorem quiet_heightReceivers (sd v r e) : Quiet none none e.st (Ev.heightReceivers sd v r e).st := by
  unfold Ev.heightReceivers
  dsimp only
  have h := quiet_heightSensor sd v r e
  generalize Ev.heightSensor sd v r e = e1 at *
  refine Quiet.trans (Quiet.trans ?_ (quiet_heightEnd .a sd _ none)) (quiet_heightEnd .b sd _ none)
  split
  · exact h.trans (quiet_heightHandOff _ none)
  · exact h

/-- The receivers of a height arrival. -/
theorem calm_height (sd x v r) (e : Ev) : Calm e.st (((e.on fun s => s.takeHeight sd x).heightReceivers sd v r).on State.endRound).st := by
  have h1 : Calm e.st (e.on fun s => s.takeHeight sd x).st := .aside
  refine (h1.trans ?_).trans (calm_endRound _)
  obtain ⟨_, h⟩ := heightReceivers_fixed sd v r (e.on fun s => s.takeHeight sd x)
  exact .of_fixed' (quiet_heightReceivers sd v r _) h

theorem calm_changeMode (m e) : Calm e.st (Ev.changeMode m e).st := .of_fixed' (quiet_changeMode m e none) (changeMode_fixed m e)

theorem calm_guardUpdate (e) : Calm e.st (Ev.guardUpdate e).st := by
  obtain ⟨g, h⟩ := guardUpdate_fixed e
  exact .of_fixed' (quiet_guardUpdate e none) h

theorem calm_forceMode (x e) : Calm e.st (Ev.forceMode x e).st := by
  obtain ⟨_, _, _, _, _, h⟩ := forceMode_fixed x e
  exact .of_fixed' (quiet_forceMode x e none) h

theorem calm_heightSpeed (x e) : Calm e.st (Ev.heightSpeed x e).st := by
  obtain ⟨_, _, _, h⟩ := heightSpeed_fixed x e
  exact .of_fixed' (quiet_heightSpeed x e none) h

/-- A new vehicle state record: the hold cuts the deck steps, brake priority the fills. -/
theorem good_vehicleUpdate (v e) (g : Good e.st) : Good (Ev.vehicleUpdate v e).st := by
  have hq := quiet_vehicleUpdate v e none g.1
  refine ⟨hq.1, ?_⟩
  revert hq
  unfold Ev.vehicleUpdate
  dsimp only
  have c0 : Calm { e.st with tgu.vehicle := v } (Ev.guardUpdate (e.on fun s => { s with tgu.vehicle := v })).st :=
    calm_guardUpdate (e.on fun s => { s with tgu.vehicle := v })
  generalize (Ev.guardUpdate (e.on fun s => { s with tgu.vehicle := v })) = e1 at *
  have c1 : Calm { e.st with tgu.vehicle := v } (if (v.speedState != e.st.tgu.vehicle.speedState) = true then e1.forceMode v.speedState
      else e1).st := by
    split
    · exact c0.trans (calm_forceMode _ _)
    · exact c0
  generalize (if (v.speedState != e.st.tgu.vehicle.speedState) = true then e1.forceMode v.speedState else e1) = e2 at *
  have w0 : Whole none { e.st with tgu.vehicle := v } := (quiet_aside (s := e.st) (t := { e.st with tgu.vehicle := v }) none rfl rfl g.1).1
  obtain ⟨w2, a2⟩ := c1.1 w0
  obtain ⟨w3, a3⟩ := quiet_brakeDecision e2 none w2
  obtain ⟨w4, a4⟩ := quiet_holdUpdate e.st.tgu.vehicle _ none w3
  obtain ⟨w5, a5⟩ := quiet_brakingUpdate e.st.tgu.vehicle _ none w4
  have fb := Ev.brakeDecision_fixed e2
  have fh' : ((e2.brakeDecision.holdUpdate e.st.tgu.vehicle).brakingUpdate e.st.tgu.vehicle).st.fixed = { e2.st.fixed with priority :=
      e2.st.nextPriority } := by
    rw [Ev.brakingUpdate_fixed, Ev.holdUpdate_fixed, fb]
  have A0 : AirFrom e.st { e.st with tgu.vehicle := v } := .of_eq rfl fun _ h => h
  have key : Restrained ((e2.brakeDecision.holdUpdate e.st.tgu.vehicle).brakingUpdate e.st.tgu.vehicle).st := by
    refine ⟨?_, ?_, ?_⟩
    · intro h
      have : ((e2.brakeDecision.holdUpdate e.st.tgu.vehicle).brakingUpdate e.st.tgu.vehicle).st.glc.stop = e.st.glc.stop :=
        (congrArg Fixed.stop fh').trans c1.2.1
      rw [this] at h
      exact (((((A0.trans a2).trans a3).trans a4).trans a5)).still steady_true (g.2.stopped h)
    · intro h
      have hv : ((e2.brakeDecision.holdUpdate e.st.tgu.vehicle).brakingUpdate e.st.tgu.vehicle).st.tgu.vehicle =
          e2.brakeDecision.st.tgu.vehicle :=
        (congrArg Fixed.vehicle fh').trans (congrArg Fixed.vehicle fb).symm
      by_cases ho : (e.st.tgu.vehicle.braking || e.st.tgu.vehicle.speedState == .unknown) = true
      · exact (((((A0.trans a2).trans a3).trans a4).trans a5)).still steady_movesDeck (g.2.held ho)
      · refine a5.still steady_movesDeck (holdUpdate_still _ _ w3 (by simpa using ho) ?_)
        unfold State.held State.speedState at h ⊢
        rw [hv] at h; exact h
    · intro h
      have hp : ((e2.brakeDecision.holdUpdate e.st.tgu.vehicle).brakingUpdate e.st.tgu.vehicle).st.aac.priority = e2.st.nextPriority :=
        congrArg Fixed.priority fh'
      rw [hp] at h
      by_cases ho : e2.st.aac.priority = true
      · have : e.st.aac.priority = true := by rw [← ho]; exact c1.2.2.2.symm
        exact (((((A0.trans a2).trans a3).trans a4).trans a5)).still steady_isFill (g.2.braked this)
      · exact (a4.trans a5).still steady_isFill (brakeDecision_still e2 w2 (by simpa using ho) h)
  intro hq
  split
  · have c2 : Calm (Ev.heightSpeed v.speedState ((e2.brakeDecision.holdUpdate e.st.tgu.vehicle).brakingUpdate e.st.tgu.vehicle)).st
      ((Ev.heightSpeed v.speedState ((e2.brakeDecision.holdUpdate e.st.tgu.vehicle).brakingUpdate e.st.tgu.vehicle)).on
          State.liftTimerTest).st := .aside
    exact (((calm_heightSpeed _ _).trans c2).good ⟨w5, key⟩).2
  · exact key

theorem good_brakeLinkLost (e) (g : Good e.st) : Good (Ev.brakeLinkLost e).st := by
  unfold Ev.brakeLinkLost
  refine good_vehicleUpdate _ _ ?_
  have h1 : Calm e.st (e.on State.brakeLow).st := .aside
  exact (h1.trans (.of_fixed (quiet_latch _ _ _ none) (by simp))).good g

/-- The decision of brake priority cuts the fills when it turns ON. -/
theorem good_brakeDecision (e) (g : Good e.st) : Good (Ev.brakeDecision e).st := by
  obtain ⟨w3, a3⟩ := quiet_brakeDecision e none g.1
  have fb := Ev.brakeDecision_fixed e
  refine ⟨w3, ?_, ?_, ?_⟩
  · intro h
    have : e.brakeDecision.st.glc.stop = e.st.glc.stop := congrArg Fixed.stop fb
    rw [this] at h
    exact a3.still steady_true (g.2.stopped h)
  · intro h
    have : e.brakeDecision.st.tgu.vehicle = e.st.tgu.vehicle := congrArg Fixed.vehicle fb
    unfold State.held State.speedState at h
    rw [this] at h
    exact a3.still steady_movesDeck (g.2.held h)
  · intro h
    have hp : e.brakeDecision.st.aac.priority = e.st.nextPriority := congrArg Fixed.priority fb
    rw [hp] at h
    by_cases ho : e.st.aac.priority = true
    · exact a3.still steady_isFill (g.2.braked ho)
    · exact brakeDecision_still e g.1 (by simpa using ho) h

/-- A stop set that shrinks keeps a good state good. -/
theorem good_setStop (x : StopSet) (e) (g : Good e.st) (h : x.occupied = true → e.st.glc.stop.occupied = true) : Good (Ev.setStop x e).st
    := by
  have : (Ev.setStop x e).st = { e.st with glc.stop := x } := by unfold Ev.setStop; dsimp only; split <;> simp
  rw [this]
  have hs : SameRecords e.st { e.st with glc.stop := x } := ⟨rfl, rfl, fun _ => rfl, rfl⟩
  obtain ⟨w, a⟩ := hs.quiet none g.1
  refine ⟨w, ?_, ?_, ?_⟩
  · intro hx; exact a.still steady_true (g.2.stopped (h hx))
  · intro hx; exact a.still steady_movesDeck (g.2.held hx)
  · intro hx; exact a.still steady_isFill (g.2.braked hx)

theorem put_false_occ (x : StopSet) (m : Master) : (x.put m false).occupied = true → x.occupied = true := by
  cases x with | mk c p => cases m <;> cases c <;> cases p <;> simp [StopSet.put, StopSet.occupied]

/-- STOP cuts every step. -/
theorem good_stopAll (m e) (g : Good e.st) : Good (Ev.stopAll m e).1.st := by
  have hs : SameRecords e.st { e.st with glc.stop := e.st.glc.stop.put m true } := ⟨rfl, rfl, fun _ => rfl, rfl⟩
  obtain ⟨w, a⟩ := hs.quiet none g.1
  have st := cutBoth_still { e.st with glc.stop := e.st.glc.stop.put m true } steady_true w
  obtain ⟨w2, -⟩ := quiet_cutBoth { e.st with glc.stop := e.st.glc.stop.put m true } (fun _ => true) none w
  refine ⟨w2, fun _ => st, fun _ d hd _ => st d hd rfl, fun _ d hd _ => st d hd rfl⟩

theorem calm_lapse (e) : Calm e.st (Ev.lapse e).st := by
  refine ⟨(same_lapse _).quiet none, ?_⟩
  have := Ev.lapse_fixed e
  split at this <;> exact ⟨congrArg Fixed.stop this, congrArg Fixed.vehicle this, congrArg Fixed.priority this⟩

/-- The loss of the panel link. -/
theorem good_panelLinkLost (e) (g : Good e.st) : Good (Ev.panelLinkLost e).st := by
  unfold Ev.panelLinkLost
  dsimp only
  have h1 : Calm e.st (e.on fun s => { s with lku.panelLink := false }).st := .aside
  refine (calm_lapse _).good (good_setStop _ _ (h1.good g) ?_)
  intro hx
  rw [Ev.on_st]
  revert hx
  show (StopSet.occupied { e.st.glc.stop with panel := false }) = true → e.st.glc.stop.occupied = true
  cases e.st.glc.stop with | mk c p => cases c <;> cases p <;> simp [StopSet.occupied]

theorem calm_requestTarget (m t c e) : Calm e.st (Ev.requestTarget m t c e).1.st := by
  unfold Ev.requestTarget
  split
  · exact .refl _
  · have h : Calm e.st (e.immediateAsk t (.master m) false).1.st := .of_fixed (quiet_immediateAsk _ _ _ _ none) (by simp)
    dsimp only
    split
    · exact h
    · exact h.trans .aside
    · exact h.trans .aside

/-- HEIGHT_SET. -/
theorem calm_heightSet (m a e) : Calm e.st (Ev.heightSet m a e).1.st := by
  unfold Ev.heightSet
  split
  · exact .refl _
  · split
    · exact .refl _
    · next v _ _ _ =>
      have h := calm_requestTarget m (clamp hMin hMax v).1 (clamp hMin hMax v).2 e
      dsimp only
      split
      · exact h
      · split
        · exact h.trans .aside
        · exact h

/-- RIDE_RETURN. -/
theorem calm_rideReturn (m e) : Calm e.st (Ev.rideReturn m e).1.st := by
  unfold Ev.rideReturn
  split
  · exact .refl _
  · split
    · exact .refl _
    · split
      · exact .refl _
      · exact calm_requestTarget _ _ _ _

/-- MODE_SET. -/
theorem calm_modeSet (b e) : Calm e.st (Ev.modeSet b e).1.st := by
  unfold Ev.modeSet
  repeat' (first | exact .refl _ | exact calm_changeMode _ _ | split)

theorem calm_applyTyre (t o c e) : Calm e.st (Ev.applyTyre t o c e).1.st := by
  unfold Ev.applyTyre
  dsimp only
  split
  · exact .aside
  · have h : Calm e.st (e.ask (e.st.tyreAsk t (e.st.formTarget t o) (.master .cab))).1.st := .of_fixed (quiet_ask _ _ none
      (tyreAsk_shaped _ _ _ _)) (by simp)
    split
    · exact h
    · exact h.trans .aside

/-- TYRE_SET with a value. -/
theorem calm_tyreSet (n f v e) : Calm e.st (Ev.tyreSet n f v e).1.st := by
  unfold Ev.tyreSet
  repeat' (first | exact .refl _ | exact calm_applyTyre _ _ _ _ | split)

/-- TYRE_SET with clear. -/
theorem calm_tyreSetClear (n v e) : Calm e.st (Ev.tyreSetClear n v e).1.st := by
  unfold Ev.tyreSetClear
  repeat' (first | exact .refl _ | exact calm_applyTyre _ _ _ _ | split)

/-- PROFILE_WRITE. -/
theorem calm_profileWrite (n p v e) : Calm e.st (Ev.profileWrite n p v e).1.st := by
  unfold Ev.profileWrite
  split
  · split
    · exact .refl _
    · next t p _ _ _ =>
      have h1 : ∀ x, Calm e.st (e.on fun s => s.setHolding t p x).st := fun x => by cases p <;> exact .aside
      dsimp only
      split
      · exact (h1 _).trans (.of_fixed (quiet_recompute _ _ _ none) (by simp))
      · exact h1 _
  · exact .refl _

theorem calm_setLiftSetting (y) (s : State) : Calm s (s.setLiftSetting y) := by
  unfold State.setLiftSetting; cases y
  · exact .aside
  · exact .aside
  · dsimp only; split <;> exact .aside

/-- LIFT_SET. -/
theorem calm_liftSet (x e) : Calm e.st (Ev.liftSet x e).1.st := by
  unfold Ev.liftSet
  split
  · exact .refl _
  · next y _ =>
    split
    · exact .refl _
    · have h2 : Calm e.st ((e.on fun s => s.setLiftSetting y).liftDecide (.master .cab)).1.st :=
        (calm_setLiftSetting y e.st).trans (.of_fixed (quiet_liftDecide (.master .cab) (e.on fun s => s.setLiftSetting y) none) (by simp))
      dsimp only
      split
      · exact h2
      · exact h2.trans .aside
      · exact h2

theorem calm_liftTimerTest (e : Ev) : Calm e.st (e.on State.liftTimerTest).st := .aside

theorem good_paramWritten (n e) (g : Good e.st) : Good (Ev.paramWritten n e).st := by
  unfold Ev.paramWritten
  split
  · exact (Calm.of_fixed (quiet_recomputeAll _ _ none) (by simp)).good g
  · exact good_brakeDecision _ g
  · exact (Calm.of_fixed (quiet_recomputeAll _ _ none) (by simp)).good g
  · exact (calm_liftTimerTest e).good g
  · exact (Calm.of_fixed (quiet_overloadTest _ none) (by simp)).good g
  · exact (Calm.of_fixed (quiet_recomputeAll _ _ none) (by simp)).good g
  · exact g

/-- CONFIG_WRITE, with the decision of brake priority behind BRAKE_MIN. -/
theorem good_configWrite (n v e) (g : Good e.st) : Good (Ev.configWrite n v e).1.st := by
  unfold Ev.configWrite
  split
  · exact g
  · refine good_paramWritten _ _ ?_
    have : Calm e.st (e.on fun s => s.writeParam n.toNat v.toNat).st := .aside
    exact this.good g

theorem calm_windowEnd (w e) : Calm e.st (Ev.windowEnd w e).st := .of_fixed ((same_windowEnd _ _).quiet none) (by simp)

theorem calm_rearm (s : State) (m) : Calm s (s.rearm m) := .aside

theorem good_queued {s t : State} (q : Queued s t) (g : Good s) : Good t := by
  have h := q.fixed
  exact Calm.good (.of_fixed' (q.same.quiet none) h) g

/-- STATUS_READ. -/
theorem good_readStatus (s : State) (h) (g : Good s) : Good (s.readStatus h) := by
  unfold State.readStatus
  split
  · exact (calm_rearm _ _).good g
  · dsimp only
    split
    · exact (calm_rearm _ _).good (good_queued (queued_enqueue _ _) g)
    · exact good_queued (queued_enqueue _ _) g

theorem calm_aimTo (b e) : Calm e.st (Ev.aimTo b e).st := .of_fixed (quiet_aimTo _ _ none) (by simp)

/-- A good state is a safe one. -/
theorem good_iff (s) : Good s ↔ Safe s := by
  constructor
  · intro g; exact ⟨g.1.pool, g.1.nodes, g.1.shaped, g.1.coupled, g.2, g.1.valves⟩
  · intro g; exact ⟨Whole.of_parts g.pool g.nodes g.shaped g.coupled g.valves, g.restrained⟩

end Sys2Proof.Machine
end

