-- ==== Sys2Proof/Laws/Handlers.lean ====
section
/-! SUPPORT. What the handler of each request, and of each event that is more than one shared operation, writes among the fixed
fields. -/

set_option Elab.async false

namespace Sys2Proof.Machine

/-! ### The target unit -/

/-- MODE_SET writes the mode, its basis and the height target at most. -/
theorem Ev.modeSet_fixed (b : Byte) (e : Ev) :
    ∃ m x t, (Ev.modeSet b e).1.st.fixed = { e.st.fixed with mode := m, basis := x, target := t } := by
  unfold Ev.modeSet
  split
  · exact ⟨_, _, _, rfl⟩
  · split
    · exact ⟨_, _, _, rfl⟩
    · split
      · exact ⟨_, _, _, rfl⟩
      · split
        · exact ⟨_, _, _, rfl⟩
        · rw [changeMode_fixed]; exact ⟨_, _, _, rfl⟩

theorem State.setTyre_fixed (s : State) (t : Tyre) (o : Option Nat) (g : Nat) :
    (s.setTyre t o g).fixed = { s.fixed with overrides := s.tgu.overrides.set t o } := by
  cases t <;> rfl

/-- The outcomes of R27: the override is written where the request is accepted. -/
theorem Ev.applyTyre_fixed (t : Tyre) (o : Option Nat) (c : Bool) (e : Ev) :
    (Ev.applyTyre t o c e).1.st.fixed = e.st.fixed ∨
      (Ev.applyTyre t o c e).1.st.fixed = { e.st.fixed with overrides := e.st.tgu.overrides.set t o } := by
  unfold Ev.applyTyre
  dsimp only
  split
  · exact .inr (State.setTyre_fixed _ _ _ _)
  · split
    · exact .inl (Ev.ask_fixed _ _)
    · refine .inr ?_
      rw [Ev.on_st, State.setTyre_fixed, State.tyreServed_fixed, Ev.ask_fixed]
      have h : (State.tyreServed (e.ask (e.st.tyreAsk t (e.st.formTarget t o) (.master .cab))).1.st t).tgu.overrides =
          e.st.tgu.overrides := by
        have := State.tyreServed_fixed (e.ask (e.st.tyreAsk t (e.st.formTarget t o) (.master .cab))).1.st t
        exact (congrArg Fixed.overrides this).trans (congrArg Fixed.overrides (Ev.ask_fixed _ _))
      rw [h]

theorem Ev.tyreSet_fixed (n f : Byte) (v : Half) (e : Ev) :
    ∃ o, (Ev.tyreSet n f v e).1.st.fixed = { e.st.fixed with overrides := o } := by
  unfold Ev.tyreSet
  split
  · exact ⟨_, rfl⟩
  · split
    · exact ⟨_, rfl⟩
    · split
      · exact ⟨_, rfl⟩
      · rcases Ev.applyTyre_fixed _ _ _ e with h | h <;> rw [h] <;> exact ⟨_, rfl⟩

theorem Ev.tyreSetClear_fixed (n : Byte) (v : Half) (e : Ev) :
    ∃ o, (Ev.tyreSetClear n v e).1.st.fixed = { e.st.fixed with overrides := o } := by
  unfold Ev.tyreSetClear
  split
  · exact ⟨_, rfl⟩
  · split
    · exact ⟨_, rfl⟩
    · split
      · exact ⟨_, rfl⟩
      · split
        · exact ⟨_, rfl⟩
        · rcases Ev.applyTyre_fixed _ _ _ e with h | h <;> rw [h] <;> exact ⟨_, rfl⟩

theorem State.setHolding_fixed (s : State) (t : Tyre) (p : Basis) (v : Nat) :
    (s.setHolding t p v).fixed = { s.fixed with sts := (s.setHolding t p v).sts } := by cases p <;> rfl

/-- PROFILE_WRITE writes the working set. -/
theorem Ev.profileWrite_fixed (n p : Byte) (v : Half) (e : Ev) :
    ∃ w, (Ev.profileWrite n p v e).1.st.fixed = { e.st.fixed with sts := { e.st.sts with ws := w } } := by
  have h : ∀ t q k, ∃ w, (e.on fun s => s.setHolding t q k).st.fixed = { e.st.fixed with sts := { e.st.sts with ws := w } } := by
    intro t q k
    cases q <;> exact ⟨_, rfl⟩
  unfold Ev.profileWrite
  split
  · split
    · exact ⟨_, rfl⟩
    · dsimp only
      split
      · rw [Ev.recompute_fixed]; exact h _ _ _
      · exact h _ _ _
  · exact ⟨_, rfl⟩

@[simp] theorem Ev.profileRead_st (n : Byte) (e : Ev) : (Ev.profileRead n e).1 = e := by
  unfold Ev.profileRead; split <;> rfl

/-- VEHICLE_DATA writes the record, brake priority, the guard, the mode, the height target and the authority, and the brake silence
timer. -/
theorem Ev.vehicleData_fixed (a b : Byte) (c : Half) (e : Ev) :
    ∃ k v g m x t h z p, (Ev.vehicleData a b c e).1.st.fixed =
      { e.st.fixed with
        lku := { e.st.lku with brakeSilence := k }
        vehicle := v, guard := g, mode := m, basis := x, target := t, holder := h, authT := z, priority := p } := by
  unfold Ev.vehicleData
  split
  · exact ⟨_, _, _, _, _, _, _, _, _, rfl⟩
  · next v _ =>
    dsimp only
    obtain ⟨g, m, x, t, h, z, hv⟩ := vehicleUpdate_fixed v (e.on fun s => { s with lku.brakeSilence := s.timer brakeSilenceTime })
    rw [hv]
    exact ⟨_, _, _, _, _, _, _, _, _, rfl⟩

/-! ### The load and lift unit and the height loop -/

theorem State.setLiftSetting_fixed (s : State) (x : LiftSetting) :
    (s.setLiftSetting x).fixed = { s.fixed with setting := x } := by
  unfold State.setLiftSetting
  cases x
  · rfl
  · rfl
  · dsimp only; split <;> rfl

/-- LIFT_SET writes the setting, or leaves it. -/
theorem Ev.liftSet_fixed (b : Byte) (e : Ev) : ∃ x, (Ev.liftSet b e).1.st.fixed = { e.st.fixed with setting := x } := by
  unfold Ev.liftSet
  split
  · exact ⟨_, rfl⟩
  · next y _ =>
    split
    · exact ⟨_, rfl⟩
    · have h : ((e.on fun s => s.setLiftSetting y).liftDecide (.master .cab)).1.st.fixed = { e.st.fixed with setting := y } := by
        rw [Ev.liftDecide_fixed, Ev.on_st, State.setLiftSetting_fixed]
      dsimp only
      split
      · exact ⟨_, h⟩
      · refine ⟨e.st.llu.setting, ?_⟩
        have h2 : ∀ t : State, t.fixed = { e.st.fixed with setting := y } →
            State.fixed { t with llu.setting := e.st.llu.setting, llu.aim := e.st.llu.aim, llu.liftT := e.st.llu.liftT } =
              { e.st.fixed with setting := e.st.llu.setting } := by
          intro t ht
          have : State.fixed { t with llu.setting := e.st.llu.setting, llu.aim := e.st.llu.aim, llu.liftT := e.st.llu.liftT } =
              { t.fixed with setting := e.st.llu.setting } := rfl
          rw [this, ht]
        exact h2 _ h
      · exact ⟨_, h⟩

theorem Ev.requestTarget_fixed (m : Master) (t : Nat) (c : Bool) (e : Ev) :
    ∃ x, (Ev.requestTarget m t c e).1.st.fixed = { e.st.fixed with target := x } := by
  have set : ∀ (e' : Ev), e'.st.fixed = e.st.fixed →
      (e'.on fun s => s.setHeightTarget t).st.fixed = { e.st.fixed with target := t } := by
    intro e' h
    have : (e'.on fun s => s.setHeightTarget t).st.fixed = { e'.st.fixed with target := t } := rfl
    rw [this, h]
  have h := Ev.immediateAsk_fixed t (.master m) false e
  unfold Ev.requestTarget
  split
  · exact ⟨_, rfl⟩
  · dsimp only
    split
    · exact ⟨_, h⟩
    · exact ⟨_, set _ h⟩
    · exact ⟨_, set _ h⟩

theorem Ev.heightSet_fixed (m : Master) (a : HeightArg) (e : Ev) :
    ∃ x h k, (Ev.heightSet m a e).1.st.fixed = { e.st.fixed with target := x, holder := h, authT := k } ∧
      (h = true → e.st.hlc.holder = true) := by
  unfold Ev.heightSet
  split
  · exact ⟨_, _, _, rfl, id⟩
  · split
    · exact ⟨_, _, _, rfl, id⟩
    · next v _ _ hr =>
      obtain ⟨x, hx⟩ := Ev.requestTarget_fixed m (clamp hMin hMax v).1 (clamp hMin hMax v).2 e
      dsimp only
      split
      · exact ⟨_, _, _, hx, id⟩
      · split
        · next hm =>
          refine ⟨x, true, e.st.timer authorityTime, ?_, ?_⟩
          · have : ∀ e' : Ev, e'.st.fixed = { e.st.fixed with target := x } →
                (e'.on State.takeAuthority).st.fixed =
                  { e.st.fixed with target := x, holder := true, authT := e.st.timer authorityTime } := by
              intro e' h'
              have h1 : (e'.on State.takeAuthority).st.fixed =
                  { e'.st.fixed with holder := true, authT := e'.st.timer authorityTime } := rfl
              have h2 : e'.st.now = e.st.now := congrArg Fixed.now h'
              rw [h1, h']
              unfold State.timer
              rw [h2]
            exact this _ hx
          · intro _
            unfold State.heightRefusal at hr
            split at hr
            · exact absurd hr (by simp)
            · next hn => subst hm; simpa using hn
        · exact ⟨_, _, _, hx, id⟩

theorem Ev.rideReturn_fixed (m : Master) (e : Ev) : ∃ x, (Ev.rideReturn m e).1.st.fixed = { e.st.fixed with target := x } := by
  unfold Ev.rideReturn
  split
  · exact ⟨_, rfl⟩
  · split
    · exact ⟨_, rfl⟩
    · split
      · exact ⟨_, rfl⟩
      · exact Ev.requestTarget_fixed _ _ _ _

theorem Ev.authorityTake_fixed (b : Byte) (e : Ev) :
    ∃ h k, (Ev.authorityTake b e).1.st.fixed = { e.st.fixed with holder := h, authT := k } := by
  unfold Ev.authorityTake
  split
  · exact ⟨_, _, rfl⟩
  · split <;> exact ⟨_, _, rfl⟩

theorem Ev.authorityRelease_fixed (e : Ev) :
    ∃ k, (Ev.authorityRelease e).1.st.fixed = { e.st.fixed with holder := false, authT := k } := by
  unfold Ev.authorityRelease
  dsimp only
  split
  · exact ⟨_, rfl⟩
  · next h =>
    refine ⟨e.st.hlc.authT, ?_⟩
    have : e.st.hlc.holder = false := by simpa using h
    rw [← this]
    rfl

/-! ### The gallery controller and the links -/

theorem Ev.setStop_st (x : StopSet) (e : Ev) : (Ev.setStop x e).st = { e.st with glc.stop := x } := by
  unfold Ev.setStop
  dsimp only
  split <;> simp

theorem Ev.stopAll_fixed (m : Master) (e : Ev) :
    (Ev.stopAll m e).1.st.fixed = { e.st.fixed with stop := e.st.glc.stop.put m true } := by
  unfold Ev.stopAll
  rw [Ev.on_st, State.cutBoth_fixed]
  rfl

theorem Ev.resume_fixed (m : Master) (e : Ev) :
    (Ev.resume m e).1.st.fixed = { e.st.fixed with stop := e.st.glc.stop.put m false } := by
  unfold Ev.resume
  rw [Ev.setStop_st]
  rfl

/-- The loss of the panel link writes its state, the stop set and the authority. -/
theorem Ev.panelLinkLost_fixed (e : Ev) :
    e.panelLinkLost.st.fixed =
      { e.st.fixed with
        lku := { e.st.lku with panelLink := false }
        stop := { e.st.glc.stop with panel := false }
        holder := false
        authT := if e.st.hlc.holder then none else e.st.hlc.authT } := by
  unfold Ev.panelLinkLost
  dsimp only
  rw [Ev.lapse_fixed]
  simp only [Ev.setStop_st, Ev.on_st]
  split
  · next h =>
    have h : e.st.hlc.holder = true := h
    simp [State.fixed, h]
  · next h =>
    have h : e.st.hlc.holder = false := by
      have : ¬ e.st.hlc.holder = true := h
      simpa using this
    simp [State.fixed, h]

/-! ### The settings store and the event unit -/

@[simp] theorem Ev.configRead_st (n : Byte) (e : Ev) : (Ev.configRead n e).1 = e := by
  unfold Ev.configRead; split <;> rfl

theorem Ev.paramWritten_fixed (n : Nat) (e : Ev) :
    (e.paramWritten n).st.fixed = { e.st.fixed with priority := if n = 15 then e.st.nextPriority else e.st.aac.priority } := by
  unfold Ev.paramWritten
  split
  · rw [Ev.recomputeAll_fixed]; rfl
  · rw [Ev.brakeDecision_fixed]; rfl
  · rw [Ev.recomputeAll_fixed]; rfl
  · rw [Ev.on_st, State.liftTimerTest_fixed]; rfl
  · rw [Ev.overloadTest_fixed]; rfl
  · rw [Ev.recomputeAll_fixed]; rfl
  · next h _ _ _ _ _ => rw [if_neg (by omega)]; rfl

/-- CONFIG_WRITE writes the working set and, for BRAKE_MIN, brake priority. -/
theorem Ev.configWrite_fixed (n : Byte) (v : Half) (e : Ev) :
    ∃ w p, (Ev.configWrite n v e).1.st.fixed = { e.st.fixed with sts := { e.st.sts with ws := w }, priority := p } := by
  unfold Ev.configWrite
  split
  · exact ⟨_, _, rfl⟩
  · dsimp only
    rw [Ev.paramWritten_fixed]
    exact ⟨_, _, rfl⟩

theorem Ev.storeSettings_fixed (e : Ev) :
    ∃ i w, e.storeSettings.1.st.fixed = { e.st.fixed with sts := { e.st.sts with image := i, writing := w } } := by
  unfold Ev.storeSettings
  split <;> exact ⟨_, _, rfl⟩

theorem Ev.sequence_fixed (p q : Byte) (e : Ev) : (Ev.sequence p q e).1.st.fixed = e.st.fixed := by
  unfold Ev.sequence
  split
  · dsimp only
    split <;> simp
  · rfl

theorem Ev.faultClear_fixed (n : Byte) (e : Ev) : (Ev.faultClear n e).1.st.fixed = e.st.fixed := by
  unfold Ev.faultClear
  split
  · rfl
  · split
    · simp
    · rfl

theorem Ev.maskSet_fixed (m : Master) (x : Half) (e : Ev) :
    ∃ k, (Ev.maskSet m x e).1.st.fixed = { e.st.fixed with masks := e.st.evu.masks.set m k } ∨
      (Ev.maskSet m x e).1.st.fixed = e.st.fixed := by
  unfold Ev.maskSet
  split
  · exact ⟨PerKind.fill false, .inr rfl⟩
  · exact ⟨_, .inl rfl⟩

theorem Ev.latchTest_fixed (m : Master) (e : Ev) : (e.latchTest m).st.fixed = e.st.fixed := rfl

end Sys2Proof.Machine
end

