-- ==== Sys2Proof/Laws/Reports.lean ====
section
/-! SUPPORT. What the fields of a report carry: the bytes of a number give the number back, and the LOAD report gives the total load. -/

set_option Elab.async false

namespace Sys2Proof.Machine

/-- A number that fits so many bytes is what they hold. -/
theorem bytesOf_inj {k a b : Nat} (ha : a < 256 ^ k) (hb : b < 256 ^ k) (h : bytesOf k a = bytesOf k b) : a = b := by
  induction k generalizing a b with
  | zero => omega
  | succ k ih =>
    simp only [bytesOf, List.cons.injEq] at h
    have h1 : a % 256 = b % 256 := by simpa [byteOf] using congrArg BitVec.toNat h.1
    have h2 := ih (by rw [Nat.pow_succ] at ha; omega) (by rw [Nat.pow_succ] at hb; omega) h.2
    omega

theorem bytesOf_length (k n : Nat) : (bytesOf k n).length = k := by
  induction k generalizing n with
  | zero => rfl
  | succ k ih => simp [bytesOf, ih]

/-- A 24-bit field holds its value, or that there is none (R174). -/
theorem field24_inj {v w : Option Nat} (hv : ∀ x ∈ v, x < 16777215) (hw : ∀ x ∈ w, x < 16777215)
    (h : field24 v = field24 w) : v = w := by
  have b {u : Option Nat} (hu : ∀ x ∈ u, x < 16777215) : u.getD 16777215 < 256 ^ 3 := by
    cases u with
    | none => decide
    | some x => have := hu x rfl; simp only [Option.getD_some]; omega
  have e := bytesOf_inj (b hv) (b hw) h
  cases v <;> cases w <;> simp_all

/-- The LOAD report carries the total load (R121): two states with the same report have the same side loads, and so the same total. -/
theorem loadBytes_carries_total {s t : State} (hs : ∀ sd, ∀ x ∈ s.llu.load.get sd, x < 16777215)
    (ht : ∀ sd, ∀ x ∈ t.llu.load.get sd, x < 16777215) (h : loadBytes s = loadBytes t) :
    s.llu.load = t.llu.load ∧ s.llu.total = t.llu.total := by
  unfold loadBytes at h
  have l (v w : Option Nat) : (field24 v).length = (field24 w).length := by simp [field24, bytesOf_length]
  obtain ⟨h, -⟩ := List.append_inj h (by simp [field24, bytesOf_length])
  obtain ⟨hl, hr⟩ := List.append_inj h (l _ _)
  have el : s.llu.load.left = t.llu.load.left := field24_inj (hs .left) (ht .left) hl
  have er : s.llu.load.right = t.llu.load.right := field24_inj (hs .right) (ht .right) hr
  exact ⟨by cases hx : s.llu.load; cases hy : t.llu.load; simp_all, by unfold Llu.total; rw [el, er]⟩

end Sys2Proof.Machine
end

