-- ==== Sys2Proof/Laws/State.lean ====
section
/-! SUPPORT. The plain updates of the state, block by block: for each update and each block of `State`, what the block is
after it. Each is true by `rfl`, so that no later proof unfolds a record update. -/

set_option Elab.async false

namespace Sys2Proof.Machine

/-! ### Targets -/

@[simp] theorem State.setTarget_msu (s : State) (t : Tyre) (g : Nat) : (s.setTarget t g).msu = s.msu := rfl
@[simp] theorem State.setTarget_tgu (s : State) (t : Tyre) (g : Nat) :
    (s.setTarget t g).tgu =
      { s.tgu with tyres := s.tgu.tyres.modify t fun r => { r with target := g } } := rfl
@[simp] theorem State.setTarget_aac (s : State) (t : Tyre) (g : Nat) : (s.setTarget t g).aac = s.aac := rfl
@[simp] theorem State.setTarget_dqm (s : State) (t : Tyre) (g : Nat) : (s.setTarget t g).dqm = s.dqm := rfl
@[simp] theorem State.setTarget_glc (s : State) (t : Tyre) (g : Nat) : (s.setTarget t g).glc = s.glc := rfl
@[simp] theorem State.setTarget_hlc (s : State) (t : Tyre) (g : Nat) : (s.setTarget t g).hlc = s.hlc := rfl
@[simp] theorem State.setTarget_llu (s : State) (t : Tyre) (g : Nat) : (s.setTarget t g).llu = s.llu := rfl
@[simp] theorem State.setTarget_spu (s : State) (t : Tyre) (g : Nat) : (s.setTarget t g).spu = s.spu := rfl
@[simp] theorem State.setTarget_lku (s : State) (t : Tyre) (g : Nat) : (s.setTarget t g).lku = s.lku := rfl
@[simp] theorem State.setTarget_evu (s : State) (t : Tyre) (g : Nat) : (s.setTarget t g).evu = s.evu := rfl
@[simp] theorem State.setTarget_sts (s : State) (t : Tyre) (g : Nat) : (s.setTarget t g).sts = s.sts := rfl
@[simp] theorem State.setTarget_now (s : State) (t : Tyre) (g : Nat) : (s.setTarget t g).now = s.now := rfl
@[simp] theorem State.setTarget_freeCount (s : State) (t : Tyre) (g : Nat) :
    (s.setTarget t g).freeCount =
      s.freeCount := rfl
@[simp] theorem State.setTarget_pending (s : State) (t : Tyre) (g : Nat) : (s.setTarget t g).pending = s.pending := rfl

@[simp] theorem State.setOverride_msu (s : State) (t : Tyre) (o : Option Nat) : (s.setOverride t o).msu = s.msu := rfl
@[simp] theorem State.setOverride_tgu (s : State) (t : Tyre) (o : Option Nat) :
    (s.setOverride t o).tgu =
      { s.tgu with tyres := s.tgu.tyres.modify t fun r => { r with override := o } } := rfl
@[simp] theorem State.setOverride_aac (s : State) (t : Tyre) (o : Option Nat) : (s.setOverride t o).aac = s.aac := rfl
@[simp] theorem State.setOverride_dqm (s : State) (t : Tyre) (o : Option Nat) : (s.setOverride t o).dqm = s.dqm := rfl
@[simp] theorem State.setOverride_glc (s : State) (t : Tyre) (o : Option Nat) : (s.setOverride t o).glc = s.glc := rfl
@[simp] theorem State.setOverride_hlc (s : State) (t : Tyre) (o : Option Nat) : (s.setOverride t o).hlc = s.hlc := rfl
@[simp] theorem State.setOverride_llu (s : State) (t : Tyre) (o : Option Nat) : (s.setOverride t o).llu = s.llu := rfl
@[simp] theorem State.setOverride_spu (s : State) (t : Tyre) (o : Option Nat) : (s.setOverride t o).spu = s.spu := rfl
@[simp] theorem State.setOverride_lku (s : State) (t : Tyre) (o : Option Nat) : (s.setOverride t o).lku = s.lku := rfl
@[simp] theorem State.setOverride_evu (s : State) (t : Tyre) (o : Option Nat) : (s.setOverride t o).evu = s.evu := rfl
@[simp] theorem State.setOverride_sts (s : State) (t : Tyre) (o : Option Nat) : (s.setOverride t o).sts = s.sts := rfl
@[simp] theorem State.setOverride_now (s : State) (t : Tyre) (o : Option Nat) : (s.setOverride t o).now = s.now := rfl
@[simp] theorem State.setOverride_freeCount (s : State) (t : Tyre) (o : Option Nat) :
    (s.setOverride t o).freeCount =
      s.freeCount := rfl
@[simp] theorem State.setOverride_pending (s : State) (t : Tyre) (o : Option Nat) :
    (s.setOverride t o).pending =
      s.pending := rfl

@[simp] theorem State.setTyreTimer_msu (s : State) (t : Tyre) (x : Timer) : (s.setTyreTimer t x).msu = s.msu := rfl
@[simp] theorem State.setTyreTimer_tgu (s : State) (t : Tyre) (x : Timer) :
    (s.setTyreTimer t x).tgu =
      { s.tgu with tyres := s.tgu.tyres.modify t fun r => { r with timer := x } } := rfl
@[simp] theorem State.setTyreTimer_aac (s : State) (t : Tyre) (x : Timer) : (s.setTyreTimer t x).aac = s.aac := rfl
@[simp] theorem State.setTyreTimer_dqm (s : State) (t : Tyre) (x : Timer) : (s.setTyreTimer t x).dqm = s.dqm := rfl
@[simp] theorem State.setTyreTimer_glc (s : State) (t : Tyre) (x : Timer) : (s.setTyreTimer t x).glc = s.glc := rfl
@[simp] theorem State.setTyreTimer_hlc (s : State) (t : Tyre) (x : Timer) : (s.setTyreTimer t x).hlc = s.hlc := rfl
@[simp] theorem State.setTyreTimer_llu (s : State) (t : Tyre) (x : Timer) : (s.setTyreTimer t x).llu = s.llu := rfl
@[simp] theorem State.setTyreTimer_spu (s : State) (t : Tyre) (x : Timer) : (s.setTyreTimer t x).spu = s.spu := rfl
@[simp] theorem State.setTyreTimer_lku (s : State) (t : Tyre) (x : Timer) : (s.setTyreTimer t x).lku = s.lku := rfl
@[simp] theorem State.setTyreTimer_evu (s : State) (t : Tyre) (x : Timer) : (s.setTyreTimer t x).evu = s.evu := rfl
@[simp] theorem State.setTyreTimer_sts (s : State) (t : Tyre) (x : Timer) : (s.setTyreTimer t x).sts = s.sts := rfl
@[simp] theorem State.setTyreTimer_now (s : State) (t : Tyre) (x : Timer) : (s.setTyreTimer t x).now = s.now := rfl
@[simp] theorem State.setTyreTimer_freeCount (s : State) (t : Tyre) (x : Timer) :
    (s.setTyreTimer t x).freeCount =
      s.freeCount := rfl
@[simp] theorem State.setTyreTimer_pending (s : State) (t : Tyre) (x : Timer) :
    (s.setTyreTimer t x).pending =
      s.pending := rfl

@[simp] theorem State.setTyrePending_msu (s : State) (t : Tyre) (b : Bool) : (s.setTyrePending t b).msu = s.msu := rfl
@[simp] theorem State.setTyrePending_tgu (s : State) (t : Tyre) (b : Bool) :
    (s.setTyrePending t b).tgu =
      { s.tgu with tyres := s.tgu.tyres.modify t fun r => { r with pending := b } } := rfl
@[simp] theorem State.setTyrePending_aac (s : State) (t : Tyre) (b : Bool) : (s.setTyrePending t b).aac = s.aac := rfl
@[simp] theorem State.setTyrePending_dqm (s : State) (t : Tyre) (b : Bool) : (s.setTyrePending t b).dqm = s.dqm := rfl
@[simp] theorem State.setTyrePending_glc (s : State) (t : Tyre) (b : Bool) : (s.setTyrePending t b).glc = s.glc := rfl
@[simp] theorem State.setTyrePending_hlc (s : State) (t : Tyre) (b : Bool) : (s.setTyrePending t b).hlc = s.hlc := rfl
@[simp] theorem State.setTyrePending_llu (s : State) (t : Tyre) (b : Bool) : (s.setTyrePending t b).llu = s.llu := rfl
@[simp] theorem State.setTyrePending_spu (s : State) (t : Tyre) (b : Bool) : (s.setTyrePending t b).spu = s.spu := rfl
@[simp] theorem State.setTyrePending_lku (s : State) (t : Tyre) (b : Bool) : (s.setTyrePending t b).lku = s.lku := rfl
@[simp] theorem State.setTyrePending_evu (s : State) (t : Tyre) (b : Bool) : (s.setTyrePending t b).evu = s.evu := rfl
@[simp] theorem State.setTyrePending_sts (s : State) (t : Tyre) (b : Bool) : (s.setTyrePending t b).sts = s.sts := rfl
@[simp] theorem State.setTyrePending_now (s : State) (t : Tyre) (b : Bool) : (s.setTyrePending t b).now = s.now := rfl
@[simp] theorem State.setTyrePending_freeCount (s : State) (t : Tyre) (b : Bool) :
    (s.setTyrePending t b).freeCount =
      s.freeCount := rfl
@[simp] theorem State.setTyrePending_pending (s : State) (t : Tyre) (b : Bool) :
    (s.setTyrePending t b).pending =
      s.pending := rfl

@[simp] theorem State.tyreServed_msu (s : State) (t : Tyre) : (s.tyreServed t).msu = s.msu := rfl
@[simp] theorem State.tyreServed_tgu (s : State) (t : Tyre) :
    (s.tyreServed t).tgu =
      { s.tgu with tyres := s.tgu.tyres.modify t fun r => { r with timer := none, pending := false } } := rfl
@[simp] theorem State.tyreServed_aac (s : State) (t : Tyre) : (s.tyreServed t).aac = s.aac := rfl
@[simp] theorem State.tyreServed_dqm (s : State) (t : Tyre) : (s.tyreServed t).dqm = s.dqm := rfl
@[simp] theorem State.tyreServed_glc (s : State) (t : Tyre) : (s.tyreServed t).glc = s.glc := rfl
@[simp] theorem State.tyreServed_hlc (s : State) (t : Tyre) : (s.tyreServed t).hlc = s.hlc := rfl
@[simp] theorem State.tyreServed_llu (s : State) (t : Tyre) : (s.tyreServed t).llu = s.llu := rfl
@[simp] theorem State.tyreServed_spu (s : State) (t : Tyre) : (s.tyreServed t).spu = s.spu := rfl
@[simp] theorem State.tyreServed_lku (s : State) (t : Tyre) : (s.tyreServed t).lku = s.lku := rfl
@[simp] theorem State.tyreServed_evu (s : State) (t : Tyre) : (s.tyreServed t).evu = s.evu := rfl
@[simp] theorem State.tyreServed_sts (s : State) (t : Tyre) : (s.tyreServed t).sts = s.sts := rfl
@[simp] theorem State.tyreServed_now (s : State) (t : Tyre) : (s.tyreServed t).now = s.now := rfl
@[simp] theorem State.tyreServed_freeCount (s : State) (t : Tyre) : (s.tyreServed t).freeCount = s.freeCount := rfl
@[simp] theorem State.tyreServed_pending (s : State) (t : Tyre) : (s.tyreServed t).pending = s.pending := rfl

@[simp] theorem State.setMode_msu (s : State) (m : Mode) : (s.setMode m).msu = s.msu := rfl
@[simp] theorem State.setMode_tgu (s : State) (m : Mode) :
    (s.setMode m).tgu =
      { s.tgu with mode := m, basis := m.basis s.tgu.basis } := rfl
@[simp] theorem State.setMode_aac (s : State) (m : Mode) : (s.setMode m).aac = s.aac := rfl
@[simp] theorem State.setMode_dqm (s : State) (m : Mode) : (s.setMode m).dqm = s.dqm := rfl
@[simp] theorem State.setMode_glc (s : State) (m : Mode) : (s.setMode m).glc = s.glc := rfl
@[simp] theorem State.setMode_hlc (s : State) (m : Mode) : (s.setMode m).hlc = s.hlc := rfl
@[simp] theorem State.setMode_llu (s : State) (m : Mode) : (s.setMode m).llu = s.llu := rfl
@[simp] theorem State.setMode_spu (s : State) (m : Mode) : (s.setMode m).spu = s.spu := rfl
@[simp] theorem State.setMode_lku (s : State) (m : Mode) : (s.setMode m).lku = s.lku := rfl
@[simp] theorem State.setMode_evu (s : State) (m : Mode) : (s.setMode m).evu = s.evu := rfl
@[simp] theorem State.setMode_sts (s : State) (m : Mode) : (s.setMode m).sts = s.sts := rfl
@[simp] theorem State.setMode_now (s : State) (m : Mode) : (s.setMode m).now = s.now := rfl
@[simp] theorem State.setMode_freeCount (s : State) (m : Mode) : (s.setMode m).freeCount = s.freeCount := rfl
@[simp] theorem State.setMode_pending (s : State) (m : Mode) : (s.setMode m).pending = s.pending := rfl

@[simp] theorem State.setTyre_msu (s : State) (t : Tyre) (o : Option Nat) (g : Nat) :
    (s.setTyre t o g).msu =
      s.msu := rfl
@[simp] theorem State.setTyre_tgu (s : State) (t : Tyre) (o : Option Nat) (g : Nat) :
    (s.setTyre t o g).tgu =
      ((s.setOverride t o).setTarget t g).tgu := rfl
@[simp] theorem State.setTyre_aac (s : State) (t : Tyre) (o : Option Nat) (g : Nat) :
    (s.setTyre t o g).aac =
      s.aac := rfl
@[simp] theorem State.setTyre_dqm (s : State) (t : Tyre) (o : Option Nat) (g : Nat) :
    (s.setTyre t o g).dqm =
      s.dqm := rfl
@[simp] theorem State.setTyre_glc (s : State) (t : Tyre) (o : Option Nat) (g : Nat) :
    (s.setTyre t o g).glc =
      s.glc := rfl
@[simp] theorem State.setTyre_hlc (s : State) (t : Tyre) (o : Option Nat) (g : Nat) :
    (s.setTyre t o g).hlc =
      s.hlc := rfl
@[simp] theorem State.setTyre_llu (s : State) (t : Tyre) (o : Option Nat) (g : Nat) :
    (s.setTyre t o g).llu =
      s.llu := rfl
@[simp] theorem State.setTyre_spu (s : State) (t : Tyre) (o : Option Nat) (g : Nat) :
    (s.setTyre t o g).spu =
      s.spu := rfl
@[simp] theorem State.setTyre_lku (s : State) (t : Tyre) (o : Option Nat) (g : Nat) :
    (s.setTyre t o g).lku =
      s.lku := rfl
@[simp] theorem State.setTyre_evu (s : State) (t : Tyre) (o : Option Nat) (g : Nat) :
    (s.setTyre t o g).evu =
      s.evu := rfl
@[simp] theorem State.setTyre_sts (s : State) (t : Tyre) (o : Option Nat) (g : Nat) :
    (s.setTyre t o g).sts =
      s.sts := rfl
@[simp] theorem State.setTyre_now (s : State) (t : Tyre) (o : Option Nat) (g : Nat) :
    (s.setTyre t o g).now =
      s.now := rfl
@[simp] theorem State.setTyre_freeCount (s : State) (t : Tyre) (o : Option Nat) (g : Nat) :
    (s.setTyre t o g).freeCount =
      s.freeCount := rfl
@[simp] theorem State.setTyre_pending (s : State) (t : Tyre) (o : Option Nat) (g : Nat) :
    (s.setTyre t o g).pending =
      s.pending := rfl

/-! ### Air account -/

@[simp] theorem State.reportHeadroom_msu (s : State) : s.reportHeadroom.msu = s.msu := rfl
@[simp] theorem State.reportHeadroom_tgu (s : State) : s.reportHeadroom.tgu = s.tgu := rfl
@[simp] theorem State.reportHeadroom_aac (s : State) :
    s.reportHeadroom.aac =
      { s.aac with reported := s.headroom } := rfl
@[simp] theorem State.reportHeadroom_dqm (s : State) : s.reportHeadroom.dqm = s.dqm := rfl
@[simp] theorem State.reportHeadroom_glc (s : State) : s.reportHeadroom.glc = s.glc := rfl
@[simp] theorem State.reportHeadroom_hlc (s : State) : s.reportHeadroom.hlc = s.hlc := rfl
@[simp] theorem State.reportHeadroom_llu (s : State) : s.reportHeadroom.llu = s.llu := rfl
@[simp] theorem State.reportHeadroom_spu (s : State) : s.reportHeadroom.spu = s.spu := rfl
@[simp] theorem State.reportHeadroom_lku (s : State) : s.reportHeadroom.lku = s.lku := rfl
@[simp] theorem State.reportHeadroom_evu (s : State) : s.reportHeadroom.evu = s.evu := rfl
@[simp] theorem State.reportHeadroom_sts (s : State) : s.reportHeadroom.sts = s.sts := rfl
@[simp] theorem State.reportHeadroom_now (s : State) : s.reportHeadroom.now = s.now := rfl
@[simp] theorem State.reportHeadroom_freeCount (s : State) : s.reportHeadroom.freeCount = s.freeCount := rfl
@[simp] theorem State.reportHeadroom_pending (s : State) : s.reportHeadroom.pending = s.pending := rfl

@[simp] theorem State.stopWindow_msu (s : State) : s.stopWindow.msu = s.msu := rfl
@[simp] theorem State.stopWindow_tgu (s : State) : s.stopWindow.tgu = s.tgu := rfl
@[simp] theorem State.stopWindow_aac (s : State) : s.stopWindow.aac = { s.aac with window := none } := rfl
@[simp] theorem State.stopWindow_dqm (s : State) : s.stopWindow.dqm = s.dqm := rfl
@[simp] theorem State.stopWindow_glc (s : State) : s.stopWindow.glc = s.glc := rfl
@[simp] theorem State.stopWindow_hlc (s : State) : s.stopWindow.hlc = s.hlc := rfl
@[simp] theorem State.stopWindow_llu (s : State) : s.stopWindow.llu = s.llu := rfl
@[simp] theorem State.stopWindow_spu (s : State) : s.stopWindow.spu = s.spu := rfl
@[simp] theorem State.stopWindow_lku (s : State) : s.stopWindow.lku = s.lku := rfl
@[simp] theorem State.stopWindow_evu (s : State) : s.stopWindow.evu = s.evu := rfl
@[simp] theorem State.stopWindow_sts (s : State) : s.stopWindow.sts = s.sts := rfl
@[simp] theorem State.stopWindow_now (s : State) : s.stopWindow.now = s.now := rfl
@[simp] theorem State.stopWindow_freeCount (s : State) : s.stopWindow.freeCount = s.freeCount := rfl
@[simp] theorem State.stopWindow_pending (s : State) : s.stopWindow.pending = s.pending := rfl

/-! ### Descriptors -/

@[simp] theorem State.modDesc_msu (s : State) (i : Nat) (f : Desc → Desc) : (s.modDesc i f).msu = s.msu := rfl
@[simp] theorem State.modDesc_tgu (s : State) (i : Nat) (f : Desc → Desc) : (s.modDesc i f).tgu = s.tgu := rfl
@[simp] theorem State.modDesc_aac (s : State) (i : Nat) (f : Desc → Desc) : (s.modDesc i f).aac = s.aac := rfl
@[simp] theorem State.modDesc_dqm (s : State) (i : Nat) (f : Desc → Desc) :
    (s.modDesc i f).dqm =
      { s.dqm with live := s.dqm.live.map fun r => match r with | .transfer d => .transfer (if d.id = i then f d else d) | .point p => .point p } := rfl
@[simp] theorem State.modDesc_glc (s : State) (i : Nat) (f : Desc → Desc) : (s.modDesc i f).glc = s.glc := rfl
@[simp] theorem State.modDesc_hlc (s : State) (i : Nat) (f : Desc → Desc) : (s.modDesc i f).hlc = s.hlc := rfl
@[simp] theorem State.modDesc_llu (s : State) (i : Nat) (f : Desc → Desc) : (s.modDesc i f).llu = s.llu := rfl
@[simp] theorem State.modDesc_spu (s : State) (i : Nat) (f : Desc → Desc) : (s.modDesc i f).spu = s.spu := rfl
@[simp] theorem State.modDesc_lku (s : State) (i : Nat) (f : Desc → Desc) : (s.modDesc i f).lku = s.lku := rfl
@[simp] theorem State.modDesc_evu (s : State) (i : Nat) (f : Desc → Desc) : (s.modDesc i f).evu = s.evu := rfl
@[simp] theorem State.modDesc_sts (s : State) (i : Nat) (f : Desc → Desc) : (s.modDesc i f).sts = s.sts := rfl
@[simp] theorem State.modDesc_now (s : State) (i : Nat) (f : Desc → Desc) : (s.modDesc i f).now = s.now := rfl
@[simp] theorem State.modDesc_freeCount (s : State) (i : Nat) (f : Desc → Desc) :
    (s.modDesc i f).freeCount =
      s.freeCount := rfl
@[simp] theorem State.modDesc_pending (s : State) (i : Nat) (f : Desc → Desc) :
    (s.modDesc i f).pending =
      s.pending := rfl

@[simp] theorem State.putDesc_msu (s : State) (d : Desc) : (s.putDesc d).msu = s.msu := rfl
@[simp] theorem State.putDesc_tgu (s : State) (d : Desc) : (s.putDesc d).tgu = s.tgu := rfl
@[simp] theorem State.putDesc_aac (s : State) (d : Desc) : (s.putDesc d).aac = s.aac := rfl
@[simp] theorem State.putDesc_dqm (s : State) (d : Desc) : (s.putDesc d).dqm = (s.modDesc d.id fun _ => d).dqm := rfl
@[simp] theorem State.putDesc_glc (s : State) (d : Desc) : (s.putDesc d).glc = s.glc := rfl
@[simp] theorem State.putDesc_hlc (s : State) (d : Desc) : (s.putDesc d).hlc = s.hlc := rfl
@[simp] theorem State.putDesc_llu (s : State) (d : Desc) : (s.putDesc d).llu = s.llu := rfl
@[simp] theorem State.putDesc_spu (s : State) (d : Desc) : (s.putDesc d).spu = s.spu := rfl
@[simp] theorem State.putDesc_lku (s : State) (d : Desc) : (s.putDesc d).lku = s.lku := rfl
@[simp] theorem State.putDesc_evu (s : State) (d : Desc) : (s.putDesc d).evu = s.evu := rfl
@[simp] theorem State.putDesc_sts (s : State) (d : Desc) : (s.putDesc d).sts = s.sts := rfl
@[simp] theorem State.putDesc_now (s : State) (d : Desc) : (s.putDesc d).now = s.now := rfl
@[simp] theorem State.putDesc_freeCount (s : State) (d : Desc) : (s.putDesc d).freeCount = s.freeCount := rfl
@[simp] theorem State.putDesc_pending (s : State) (d : Desc) : (s.putDesc d).pending = s.pending := rfl

@[simp] theorem State.setWait_msu (s : State) (i : Nat) (w : Wait) : (s.setWait i w).msu = s.msu := rfl
@[simp] theorem State.setWait_tgu (s : State) (i : Nat) (w : Wait) : (s.setWait i w).tgu = s.tgu := rfl
@[simp] theorem State.setWait_aac (s : State) (i : Nat) (w : Wait) : (s.setWait i w).aac = s.aac := rfl
@[simp] theorem State.setWait_dqm (s : State) (i : Nat) (w : Wait) :
    (s.setWait i w).dqm =
      (s.modDesc i fun d => { d with wait := w }).dqm := rfl
@[simp] theorem State.setWait_glc (s : State) (i : Nat) (w : Wait) : (s.setWait i w).glc = s.glc := rfl
@[simp] theorem State.setWait_hlc (s : State) (i : Nat) (w : Wait) : (s.setWait i w).hlc = s.hlc := rfl
@[simp] theorem State.setWait_llu (s : State) (i : Nat) (w : Wait) : (s.setWait i w).llu = s.llu := rfl
@[simp] theorem State.setWait_spu (s : State) (i : Nat) (w : Wait) : (s.setWait i w).spu = s.spu := rfl
@[simp] theorem State.setWait_lku (s : State) (i : Nat) (w : Wait) : (s.setWait i w).lku = s.lku := rfl
@[simp] theorem State.setWait_evu (s : State) (i : Nat) (w : Wait) : (s.setWait i w).evu = s.evu := rfl
@[simp] theorem State.setWait_sts (s : State) (i : Nat) (w : Wait) : (s.setWait i w).sts = s.sts := rfl
@[simp] theorem State.setWait_now (s : State) (i : Nat) (w : Wait) : (s.setWait i w).now = s.now := rfl
@[simp] theorem State.setWait_freeCount (s : State) (i : Nat) (w : Wait) :
    (s.setWait i w).freeCount =
      s.freeCount := rfl
@[simp] theorem State.setWait_pending (s : State) (i : Nat) (w : Wait) : (s.setWait i w).pending = s.pending := rfl

@[simp] theorem State.unlink_msu (s : State) (i : Nat) : (s.unlink i).msu = s.msu := rfl
@[simp] theorem State.unlink_tgu (s : State) (i : Nat) : (s.unlink i).tgu = s.tgu := rfl
@[simp] theorem State.unlink_aac (s : State) (i : Nat) : (s.unlink i).aac = s.aac := rfl
@[simp] theorem State.unlink_dqm (s : State) (i : Nat) :
    (s.unlink i).dqm =
      { s.dqm with live := s.dqm.live.filter (fun r => r.id != i), free := s.dqm.free ++ [i] } := rfl
@[simp] theorem State.unlink_glc (s : State) (i : Nat) : (s.unlink i).glc = s.glc := rfl
@[simp] theorem State.unlink_hlc (s : State) (i : Nat) : (s.unlink i).hlc = s.hlc := rfl
@[simp] theorem State.unlink_llu (s : State) (i : Nat) : (s.unlink i).llu = s.llu := rfl
@[simp] theorem State.unlink_spu (s : State) (i : Nat) : (s.unlink i).spu = s.spu := rfl
@[simp] theorem State.unlink_lku (s : State) (i : Nat) : (s.unlink i).lku = s.lku := rfl
@[simp] theorem State.unlink_evu (s : State) (i : Nat) : (s.unlink i).evu = s.evu := rfl
@[simp] theorem State.unlink_sts (s : State) (i : Nat) : (s.unlink i).sts = s.sts := rfl
@[simp] theorem State.unlink_now (s : State) (i : Nat) : (s.unlink i).now = s.now := rfl
@[simp] theorem State.unlink_freeCount (s : State) (i : Nat) : (s.unlink i).freeCount = s.freeCount := rfl
@[simp] theorem State.unlink_pending (s : State) (i : Nat) : (s.unlink i).pending = s.pending := rfl

/-! ### Galleries -/

@[simp] theorem State.modGallery_msu (s : State) (g : Gallery) (f : GalleryRec → GalleryRec) :
    (s.modGallery g f).msu =
      s.msu := rfl
@[simp] theorem State.modGallery_tgu (s : State) (g : Gallery) (f : GalleryRec → GalleryRec) :
    (s.modGallery g f).tgu =
      s.tgu := rfl
@[simp] theorem State.modGallery_aac (s : State) (g : Gallery) (f : GalleryRec → GalleryRec) :
    (s.modGallery g f).aac =
      s.aac := rfl
@[simp] theorem State.modGallery_dqm (s : State) (g : Gallery) (f : GalleryRec → GalleryRec) :
    (s.modGallery g f).dqm =
      s.dqm := rfl
@[simp] theorem State.modGallery_glc (s : State) (g : Gallery) (f : GalleryRec → GalleryRec) :
    (s.modGallery g f).glc =
      { s.glc with galleries := s.glc.galleries.modify g f } := rfl
@[simp] theorem State.modGallery_hlc (s : State) (g : Gallery) (f : GalleryRec → GalleryRec) :
    (s.modGallery g f).hlc =
      s.hlc := rfl
@[simp] theorem State.modGallery_llu (s : State) (g : Gallery) (f : GalleryRec → GalleryRec) :
    (s.modGallery g f).llu =
      s.llu := rfl
@[simp] theorem State.modGallery_spu (s : State) (g : Gallery) (f : GalleryRec → GalleryRec) :
    (s.modGallery g f).spu =
      s.spu := rfl
@[simp] theorem State.modGallery_lku (s : State) (g : Gallery) (f : GalleryRec → GalleryRec) :
    (s.modGallery g f).lku =
      s.lku := rfl
@[simp] theorem State.modGallery_evu (s : State) (g : Gallery) (f : GalleryRec → GalleryRec) :
    (s.modGallery g f).evu =
      s.evu := rfl
@[simp] theorem State.modGallery_sts (s : State) (g : Gallery) (f : GalleryRec → GalleryRec) :
    (s.modGallery g f).sts =
      s.sts := rfl
@[simp] theorem State.modGallery_now (s : State) (g : Gallery) (f : GalleryRec → GalleryRec) :
    (s.modGallery g f).now =
      s.now := rfl
@[simp] theorem State.modGallery_freeCount (s : State) (g : Gallery) (f : GalleryRec → GalleryRec) :
    (s.modGallery g f).freeCount =
      s.freeCount := rfl
@[simp] theorem State.modGallery_pending (s : State) (g : Gallery) (f : GalleryRec → GalleryRec) :
    (s.modGallery g f).pending =
      s.pending := rfl

/-! ### Height -/

@[simp] theorem State.stopPersist_msu (s : State) : s.stopPersist.msu = s.msu := rfl
@[simp] theorem State.stopPersist_tgu (s : State) : s.stopPersist.tgu = s.tgu := rfl
@[simp] theorem State.stopPersist_aac (s : State) : s.stopPersist.aac = s.aac := rfl
@[simp] theorem State.stopPersist_dqm (s : State) : s.stopPersist.dqm = s.dqm := rfl
@[simp] theorem State.stopPersist_glc (s : State) : s.stopPersist.glc = s.glc := rfl
@[simp] theorem State.stopPersist_hlc (s : State) : s.stopPersist.hlc = { s.hlc with persist := none } := rfl
@[simp] theorem State.stopPersist_llu (s : State) : s.stopPersist.llu = s.llu := rfl
@[simp] theorem State.stopPersist_spu (s : State) : s.stopPersist.spu = s.spu := rfl
@[simp] theorem State.stopPersist_lku (s : State) : s.stopPersist.lku = s.lku := rfl
@[simp] theorem State.stopPersist_evu (s : State) : s.stopPersist.evu = s.evu := rfl
@[simp] theorem State.stopPersist_sts (s : State) : s.stopPersist.sts = s.sts := rfl
@[simp] theorem State.stopPersist_now (s : State) : s.stopPersist.now = s.now := rfl
@[simp] theorem State.stopPersist_freeCount (s : State) : s.stopPersist.freeCount = s.freeCount := rfl
@[simp] theorem State.stopPersist_pending (s : State) : s.stopPersist.pending = s.pending := rfl

@[simp] theorem State.setHeightTarget_msu (s : State) (h : Nat) : (s.setHeightTarget h).msu = s.msu := rfl
@[simp] theorem State.setHeightTarget_tgu (s : State) (h : Nat) : (s.setHeightTarget h).tgu = s.tgu := rfl
@[simp] theorem State.setHeightTarget_aac (s : State) (h : Nat) : (s.setHeightTarget h).aac = s.aac := rfl
@[simp] theorem State.setHeightTarget_dqm (s : State) (h : Nat) : (s.setHeightTarget h).dqm = s.dqm := rfl
@[simp] theorem State.setHeightTarget_glc (s : State) (h : Nat) : (s.setHeightTarget h).glc = s.glc := rfl
@[simp] theorem State.setHeightTarget_hlc (s : State) (h : Nat) :
    (s.setHeightTarget h).hlc =
      { s.hlc with target := h } := rfl
@[simp] theorem State.setHeightTarget_llu (s : State) (h : Nat) : (s.setHeightTarget h).llu = s.llu := rfl
@[simp] theorem State.setHeightTarget_spu (s : State) (h : Nat) : (s.setHeightTarget h).spu = s.spu := rfl
@[simp] theorem State.setHeightTarget_lku (s : State) (h : Nat) : (s.setHeightTarget h).lku = s.lku := rfl
@[simp] theorem State.setHeightTarget_evu (s : State) (h : Nat) : (s.setHeightTarget h).evu = s.evu := rfl
@[simp] theorem State.setHeightTarget_sts (s : State) (h : Nat) : (s.setHeightTarget h).sts = s.sts := rfl
@[simp] theorem State.setHeightTarget_now (s : State) (h : Nat) : (s.setHeightTarget h).now = s.now := rfl
@[simp] theorem State.setHeightTarget_freeCount (s : State) (h : Nat) :
    (s.setHeightTarget h).freeCount =
      s.freeCount := rfl
@[simp] theorem State.setHeightTarget_pending (s : State) (h : Nat) : (s.setHeightTarget h).pending = s.pending := rfl

@[simp] theorem State.setHeightPending_msu (s : State) (b : Bool) : (s.setHeightPending b).msu = s.msu := rfl
@[simp] theorem State.setHeightPending_tgu (s : State) (b : Bool) : (s.setHeightPending b).tgu = s.tgu := rfl
@[simp] theorem State.setHeightPending_aac (s : State) (b : Bool) : (s.setHeightPending b).aac = s.aac := rfl
@[simp] theorem State.setHeightPending_dqm (s : State) (b : Bool) : (s.setHeightPending b).dqm = s.dqm := rfl
@[simp] theorem State.setHeightPending_glc (s : State) (b : Bool) : (s.setHeightPending b).glc = s.glc := rfl
@[simp] theorem State.setHeightPending_hlc (s : State) (b : Bool) :
    (s.setHeightPending b).hlc =
      { s.hlc with pending := b } := rfl
@[simp] theorem State.setHeightPending_llu (s : State) (b : Bool) : (s.setHeightPending b).llu = s.llu := rfl
@[simp] theorem State.setHeightPending_spu (s : State) (b : Bool) : (s.setHeightPending b).spu = s.spu := rfl
@[simp] theorem State.setHeightPending_lku (s : State) (b : Bool) : (s.setHeightPending b).lku = s.lku := rfl
@[simp] theorem State.setHeightPending_evu (s : State) (b : Bool) : (s.setHeightPending b).evu = s.evu := rfl
@[simp] theorem State.setHeightPending_sts (s : State) (b : Bool) : (s.setHeightPending b).sts = s.sts := rfl
@[simp] theorem State.setHeightPending_now (s : State) (b : Bool) : (s.setHeightPending b).now = s.now := rfl
@[simp] theorem State.setHeightPending_freeCount (s : State) (b : Bool) :
    (s.setHeightPending b).freeCount =
      s.freeCount := rfl
@[simp] theorem State.setHeightPending_pending (s : State) (b : Bool) :
    (s.setHeightPending b).pending =
      s.pending := rfl

@[simp] theorem State.takeAuthority_msu (s : State) : s.takeAuthority.msu = s.msu := rfl
@[simp] theorem State.takeAuthority_tgu (s : State) : s.takeAuthority.tgu = s.tgu := rfl
@[simp] theorem State.takeAuthority_aac (s : State) : s.takeAuthority.aac = s.aac := rfl
@[simp] theorem State.takeAuthority_dqm (s : State) : s.takeAuthority.dqm = s.dqm := rfl
@[simp] theorem State.takeAuthority_glc (s : State) : s.takeAuthority.glc = s.glc := rfl
@[simp] theorem State.takeAuthority_hlc (s : State) :
    s.takeAuthority.hlc =
      { s.hlc with holder := true, authT := s.timer authorityTime } := rfl
@[simp] theorem State.takeAuthority_llu (s : State) : s.takeAuthority.llu = s.llu := rfl
@[simp] theorem State.takeAuthority_spu (s : State) : s.takeAuthority.spu = s.spu := rfl
@[simp] theorem State.takeAuthority_lku (s : State) : s.takeAuthority.lku = s.lku := rfl
@[simp] theorem State.takeAuthority_evu (s : State) : s.takeAuthority.evu = s.evu := rfl
@[simp] theorem State.takeAuthority_sts (s : State) : s.takeAuthority.sts = s.sts := rfl
@[simp] theorem State.takeAuthority_now (s : State) : s.takeAuthority.now = s.now := rfl
@[simp] theorem State.takeAuthority_freeCount (s : State) : s.takeAuthority.freeCount = s.freeCount := rfl
@[simp] theorem State.takeAuthority_pending (s : State) : s.takeAuthority.pending = s.pending := rfl

@[simp] theorem State.dropAuthority_msu (s : State) : s.dropAuthority.msu = s.msu := rfl
@[simp] theorem State.dropAuthority_tgu (s : State) : s.dropAuthority.tgu = s.tgu := rfl
@[simp] theorem State.dropAuthority_aac (s : State) : s.dropAuthority.aac = s.aac := rfl
@[simp] theorem State.dropAuthority_dqm (s : State) : s.dropAuthority.dqm = s.dqm := rfl
@[simp] theorem State.dropAuthority_glc (s : State) : s.dropAuthority.glc = s.glc := rfl
@[simp] theorem State.dropAuthority_hlc (s : State) :
    s.dropAuthority.hlc =
      { s.hlc with holder := false, authT := none } := rfl
@[simp] theorem State.dropAuthority_llu (s : State) : s.dropAuthority.llu = s.llu := rfl
@[simp] theorem State.dropAuthority_spu (s : State) : s.dropAuthority.spu = s.spu := rfl
@[simp] theorem State.dropAuthority_lku (s : State) : s.dropAuthority.lku = s.lku := rfl
@[simp] theorem State.dropAuthority_evu (s : State) : s.dropAuthority.evu = s.evu := rfl
@[simp] theorem State.dropAuthority_sts (s : State) : s.dropAuthority.sts = s.sts := rfl
@[simp] theorem State.dropAuthority_now (s : State) : s.dropAuthority.now = s.now := rfl
@[simp] theorem State.dropAuthority_freeCount (s : State) : s.dropAuthority.freeCount = s.freeCount := rfl
@[simp] theorem State.dropAuthority_pending (s : State) : s.dropAuthority.pending = s.pending := rfl

/-! ### Lift -/

@[simp] theorem State.liftTimerTest_msu (s : State) : s.liftTimerTest.msu = s.msu := rfl
@[simp] theorem State.liftTimerTest_tgu (s : State) : s.liftTimerTest.tgu = s.tgu := rfl
@[simp] theorem State.liftTimerTest_aac (s : State) : s.liftTimerTest.aac = s.aac := rfl
@[simp] theorem State.liftTimerTest_dqm (s : State) : s.liftTimerTest.dqm = s.dqm := rfl
@[simp] theorem State.liftTimerTest_glc (s : State) : s.liftTimerTest.glc = s.glc := rfl
@[simp] theorem State.liftTimerTest_hlc (s : State) : s.liftTimerTest.hlc = s.hlc := rfl
@[simp] theorem State.liftTimerTest_llu (s : State) :
    s.liftTimerTest.llu =
      { s.llu with liftT := if s.autoLift then s.timerKeep s.llu.liftT liftTime else none } := rfl
@[simp] theorem State.liftTimerTest_spu (s : State) : s.liftTimerTest.spu = s.spu := rfl
@[simp] theorem State.liftTimerTest_lku (s : State) : s.liftTimerTest.lku = s.lku := rfl
@[simp] theorem State.liftTimerTest_evu (s : State) : s.liftTimerTest.evu = s.evu := rfl
@[simp] theorem State.liftTimerTest_sts (s : State) : s.liftTimerTest.sts = s.sts := rfl
@[simp] theorem State.liftTimerTest_now (s : State) : s.liftTimerTest.now = s.now := rfl
@[simp] theorem State.liftTimerTest_freeCount (s : State) : s.liftTimerTest.freeCount = s.freeCount := rfl
@[simp] theorem State.liftTimerTest_pending (s : State) : s.liftTimerTest.pending = s.pending := rfl

@[simp] theorem State.setAim_msu (s : State) (a : Bool) : (s.setAim a).msu = s.msu := rfl
@[simp] theorem State.setAim_tgu (s : State) (a : Bool) : (s.setAim a).tgu = s.tgu := rfl
@[simp] theorem State.setAim_aac (s : State) (a : Bool) : (s.setAim a).aac = s.aac := rfl
@[simp] theorem State.setAim_dqm (s : State) (a : Bool) : (s.setAim a).dqm = s.dqm := rfl
@[simp] theorem State.setAim_glc (s : State) (a : Bool) : (s.setAim a).glc = s.glc := rfl
@[simp] theorem State.setAim_hlc (s : State) (a : Bool) : (s.setAim a).hlc = s.hlc := rfl
@[simp] theorem State.setAim_llu (s : State) (a : Bool) :
    (s.setAim a).llu =
      ({ s with llu.aim := a } : State).liftTimerTest.llu := rfl
@[simp] theorem State.setAim_spu (s : State) (a : Bool) : (s.setAim a).spu = s.spu := rfl
@[simp] theorem State.setAim_lku (s : State) (a : Bool) : (s.setAim a).lku = s.lku := rfl
@[simp] theorem State.setAim_evu (s : State) (a : Bool) : (s.setAim a).evu = s.evu := rfl
@[simp] theorem State.setAim_sts (s : State) (a : Bool) : (s.setAim a).sts = s.sts := rfl
@[simp] theorem State.setAim_now (s : State) (a : Bool) : (s.setAim a).now = s.now := rfl
@[simp] theorem State.setAim_freeCount (s : State) (a : Bool) : (s.setAim a).freeCount = s.freeCount := rfl
@[simp] theorem State.setAim_pending (s : State) (a : Bool) : (s.setAim a).pending = s.pending := rfl

/-! ### Supervision -/

@[simp] theorem State.resetMonitor_msu (s : State) (w : Watched) : (s.resetMonitor w).msu = s.msu := rfl
@[simp] theorem State.resetMonitor_tgu (s : State) (w : Watched) : (s.resetMonitor w).tgu = s.tgu := rfl
@[simp] theorem State.resetMonitor_aac (s : State) (w : Watched) : (s.resetMonitor w).aac = s.aac := rfl
@[simp] theorem State.resetMonitor_dqm (s : State) (w : Watched) : (s.resetMonitor w).dqm = s.dqm := rfl
@[simp] theorem State.resetMonitor_glc (s : State) (w : Watched) : (s.resetMonitor w).glc = s.glc := rfl
@[simp] theorem State.resetMonitor_hlc (s : State) (w : Watched) : (s.resetMonitor w).hlc = s.hlc := rfl
@[simp] theorem State.resetMonitor_llu (s : State) (w : Watched) : (s.resetMonitor w).llu = s.llu := rfl
@[simp] theorem State.resetMonitor_spu (s : State) (w : Watched) :
    (s.resetMonitor w).spu =
      { s.spu with monitors := s.spu.monitors.set w Monitor.start } := rfl
@[simp] theorem State.resetMonitor_lku (s : State) (w : Watched) : (s.resetMonitor w).lku = s.lku := rfl
@[simp] theorem State.resetMonitor_evu (s : State) (w : Watched) : (s.resetMonitor w).evu = s.evu := rfl
@[simp] theorem State.resetMonitor_sts (s : State) (w : Watched) : (s.resetMonitor w).sts = s.sts := rfl
@[simp] theorem State.resetMonitor_now (s : State) (w : Watched) : (s.resetMonitor w).now = s.now := rfl
@[simp] theorem State.resetMonitor_freeCount (s : State) (w : Watched) :
    (s.resetMonitor w).freeCount =
      s.freeCount := rfl
@[simp] theorem State.resetMonitor_pending (s : State) (w : Watched) : (s.resetMonitor w).pending = s.pending := rfl

/-! ### Measurement -/

@[simp] theorem State.takePressure_msu (s : State) (n : Node) (x : Sample) :
    (s.takePressure n x).msu =
      { s.msu with nodes := s.msu.nodes.modify n fun r => r.after x, nodeSeen := s.msu.nodeSeen.set n true } := rfl
@[simp] theorem State.takePressure_tgu (s : State) (n : Node) (x : Sample) : (s.takePressure n x).tgu = s.tgu := rfl
@[simp] theorem State.takePressure_aac (s : State) (n : Node) (x : Sample) : (s.takePressure n x).aac = s.aac := rfl
@[simp] theorem State.takePressure_dqm (s : State) (n : Node) (x : Sample) : (s.takePressure n x).dqm = s.dqm := rfl
@[simp] theorem State.takePressure_glc (s : State) (n : Node) (x : Sample) : (s.takePressure n x).glc = s.glc := rfl
@[simp] theorem State.takePressure_hlc (s : State) (n : Node) (x : Sample) : (s.takePressure n x).hlc = s.hlc := rfl
@[simp] theorem State.takePressure_llu (s : State) (n : Node) (x : Sample) : (s.takePressure n x).llu = s.llu := rfl
@[simp] theorem State.takePressure_spu (s : State) (n : Node) (x : Sample) : (s.takePressure n x).spu = s.spu := rfl
@[simp] theorem State.takePressure_lku (s : State) (n : Node) (x : Sample) : (s.takePressure n x).lku = s.lku := rfl
@[simp] theorem State.takePressure_evu (s : State) (n : Node) (x : Sample) : (s.takePressure n x).evu = s.evu := rfl
@[simp] theorem State.takePressure_sts (s : State) (n : Node) (x : Sample) : (s.takePressure n x).sts = s.sts := rfl
@[simp] theorem State.takePressure_now (s : State) (n : Node) (x : Sample) : (s.takePressure n x).now = s.now := rfl
@[simp] theorem State.takePressure_freeCount (s : State) (n : Node) (x : Sample) :
    (s.takePressure n x).freeCount =
      s.freeCount := rfl
@[simp] theorem State.takePressure_pending (s : State) (n : Node) (x : Sample) :
    (s.takePressure n x).pending =
      s.pending := rfl

@[simp] theorem State.takeHeight_msu (s : State) (d : Side) (x : Sample) :
    (s.takeHeight d x).msu =
      { s.msu with heights := s.msu.heights.modify d fun h => h.after x, sideSeen := s.msu.sideSeen.set d true } := rfl
@[simp] theorem State.takeHeight_tgu (s : State) (d : Side) (x : Sample) : (s.takeHeight d x).tgu = s.tgu := rfl
@[simp] theorem State.takeHeight_aac (s : State) (d : Side) (x : Sample) : (s.takeHeight d x).aac = s.aac := rfl
@[simp] theorem State.takeHeight_dqm (s : State) (d : Side) (x : Sample) : (s.takeHeight d x).dqm = s.dqm := rfl
@[simp] theorem State.takeHeight_glc (s : State) (d : Side) (x : Sample) : (s.takeHeight d x).glc = s.glc := rfl
@[simp] theorem State.takeHeight_hlc (s : State) (d : Side) (x : Sample) : (s.takeHeight d x).hlc = s.hlc := rfl
@[simp] theorem State.takeHeight_llu (s : State) (d : Side) (x : Sample) : (s.takeHeight d x).llu = s.llu := rfl
@[simp] theorem State.takeHeight_spu (s : State) (d : Side) (x : Sample) : (s.takeHeight d x).spu = s.spu := rfl
@[simp] theorem State.takeHeight_lku (s : State) (d : Side) (x : Sample) : (s.takeHeight d x).lku = s.lku := rfl
@[simp] theorem State.takeHeight_evu (s : State) (d : Side) (x : Sample) : (s.takeHeight d x).evu = s.evu := rfl
@[simp] theorem State.takeHeight_sts (s : State) (d : Side) (x : Sample) : (s.takeHeight d x).sts = s.sts := rfl
@[simp] theorem State.takeHeight_now (s : State) (d : Side) (x : Sample) : (s.takeHeight d x).now = s.now := rfl
@[simp] theorem State.takeHeight_freeCount (s : State) (d : Side) (x : Sample) :
    (s.takeHeight d x).freeCount =
      s.freeCount := rfl
@[simp] theorem State.takeHeight_pending (s : State) (d : Side) (x : Sample) :
    (s.takeHeight d x).pending =
      s.pending := rfl

/-! ### Links -/

@[simp] theorem State.panelGap_msu (s : State) : s.panelGap.msu = s.msu := rfl
@[simp] theorem State.panelGap_tgu (s : State) : s.panelGap.tgu = s.tgu := rfl
@[simp] theorem State.panelGap_aac (s : State) : s.panelGap.aac = s.aac := rfl
@[simp] theorem State.panelGap_dqm (s : State) : s.panelGap.dqm = s.dqm := rfl
@[simp] theorem State.panelGap_glc (s : State) : s.panelGap.glc = s.glc := rfl
@[simp] theorem State.panelGap_hlc (s : State) : s.panelGap.hlc = s.hlc := rfl
@[simp] theorem State.panelGap_llu (s : State) : s.panelGap.llu = s.llu := rfl
@[simp] theorem State.panelGap_spu (s : State) : s.panelGap.spu = s.spu := rfl
@[simp] theorem State.panelGap_lku (s : State) : s.panelGap.lku = { s.lku with rx := .hunt } := rfl
@[simp] theorem State.panelGap_evu (s : State) : s.panelGap.evu = s.evu := rfl
@[simp] theorem State.panelGap_sts (s : State) : s.panelGap.sts = s.sts := rfl
@[simp] theorem State.panelGap_now (s : State) : s.panelGap.now = s.now := rfl
@[simp] theorem State.panelGap_freeCount (s : State) : s.panelGap.freeCount = s.freeCount := rfl
@[simp] theorem State.panelGap_pending (s : State) : s.panelGap.pending = s.pending := rfl

@[simp] theorem State.panelHeard_msu (s : State) : s.panelHeard.msu = s.msu := rfl
@[simp] theorem State.panelHeard_tgu (s : State) : s.panelHeard.tgu = s.tgu := rfl
@[simp] theorem State.panelHeard_aac (s : State) : s.panelHeard.aac = s.aac := rfl
@[simp] theorem State.panelHeard_dqm (s : State) : s.panelHeard.dqm = s.dqm := rfl
@[simp] theorem State.panelHeard_glc (s : State) : s.panelHeard.glc = s.glc := rfl
@[simp] theorem State.panelHeard_hlc (s : State) : s.panelHeard.hlc = s.hlc := rfl
@[simp] theorem State.panelHeard_llu (s : State) : s.panelHeard.llu = s.llu := rfl
@[simp] theorem State.panelHeard_spu (s : State) : s.panelHeard.spu = s.spu := rfl
@[simp] theorem State.panelHeard_lku (s : State) :
    s.panelHeard.lku =
      { s.lku with panelSilence := s.timer panelSilenceTime, panelLink := true } := rfl
@[simp] theorem State.panelHeard_evu (s : State) : s.panelHeard.evu = s.evu := rfl
@[simp] theorem State.panelHeard_sts (s : State) : s.panelHeard.sts = s.sts := rfl
@[simp] theorem State.panelHeard_now (s : State) : s.panelHeard.now = s.now := rfl
@[simp] theorem State.panelHeard_freeCount (s : State) : s.panelHeard.freeCount = s.freeCount := rfl
@[simp] theorem State.panelHeard_pending (s : State) : s.panelHeard.pending = s.pending := rfl

/-! ### Events -/

@[simp] theorem State.rearm_msu (s : State) (m : Master) : (s.rearm m).msu = s.msu := rfl
@[simp] theorem State.rearm_tgu (s : State) (m : Master) : (s.rearm m).tgu = s.tgu := rfl
@[simp] theorem State.rearm_aac (s : State) (m : Master) : (s.rearm m).aac = s.aac := rfl
@[simp] theorem State.rearm_dqm (s : State) (m : Master) : (s.rearm m).dqm = s.dqm := rfl
@[simp] theorem State.rearm_glc (s : State) (m : Master) : (s.rearm m).glc = s.glc := rfl
@[simp] theorem State.rearm_hlc (s : State) (m : Master) : (s.rearm m).hlc = s.hlc := rfl
@[simp] theorem State.rearm_llu (s : State) (m : Master) : (s.rearm m).llu = s.llu := rfl
@[simp] theorem State.rearm_spu (s : State) (m : Master) : (s.rearm m).spu = s.spu := rfl
@[simp] theorem State.rearm_lku (s : State) (m : Master) : (s.rearm m).lku = s.lku := rfl
@[simp] theorem State.rearm_sts (s : State) (m : Master) : (s.rearm m).sts = s.sts := rfl
@[simp] theorem State.rearm_now (s : State) (m : Master) : (s.rearm m).now = s.now := rfl
@[simp] theorem State.rearm_freeCount (s : State) (m : Master) : (s.rearm m).freeCount = s.freeCount := rfl
@[simp] theorem State.rearm_pending (s : State) (m : Master) : (s.rearm m).pending = s.pending := rfl

@[simp] theorem State.supplyLow_msu (s : State) : s.supplyLow.msu = s.msu := rfl
@[simp] theorem State.supplyLow_tgu (s : State) : s.supplyLow.tgu = s.tgu := rfl
@[simp] theorem State.supplyLow_aac (s : State) : s.supplyLow.aac = s.aac := rfl
@[simp] theorem State.supplyLow_dqm (s : State) : s.supplyLow.dqm = s.dqm := rfl
@[simp] theorem State.supplyLow_glc (s : State) : s.supplyLow.glc = s.glc := rfl
@[simp] theorem State.supplyLow_hlc (s : State) : s.supplyLow.hlc = s.hlc := rfl
@[simp] theorem State.supplyLow_llu (s : State) : s.supplyLow.llu = s.llu := rfl
@[simp] theorem State.supplyLow_spu (s : State) : s.supplyLow.spu = s.spu := rfl
@[simp] theorem State.supplyLow_lku (s : State) : s.supplyLow.lku = s.lku := rfl
@[simp] theorem State.supplyLow_evu (s : State) :
    s.supplyLow.evu =
      { s.evu with supplyOk := PerMaster.fill false } := rfl
@[simp] theorem State.supplyLow_sts (s : State) : s.supplyLow.sts = s.sts := rfl
@[simp] theorem State.supplyLow_now (s : State) : s.supplyLow.now = s.now := rfl
@[simp] theorem State.supplyLow_freeCount (s : State) : s.supplyLow.freeCount = s.freeCount := rfl
@[simp] theorem State.supplyLow_pending (s : State) : s.supplyLow.pending = s.pending := rfl

@[simp] theorem State.brakeLow_msu (s : State) : s.brakeLow.msu = s.msu := rfl
@[simp] theorem State.brakeLow_tgu (s : State) : s.brakeLow.tgu = s.tgu := rfl
@[simp] theorem State.brakeLow_aac (s : State) : s.brakeLow.aac = s.aac := rfl
@[simp] theorem State.brakeLow_dqm (s : State) : s.brakeLow.dqm = s.dqm := rfl
@[simp] theorem State.brakeLow_glc (s : State) : s.brakeLow.glc = s.glc := rfl
@[simp] theorem State.brakeLow_hlc (s : State) : s.brakeLow.hlc = s.hlc := rfl
@[simp] theorem State.brakeLow_llu (s : State) : s.brakeLow.llu = s.llu := rfl
@[simp] theorem State.brakeLow_spu (s : State) : s.brakeLow.spu = s.spu := rfl
@[simp] theorem State.brakeLow_lku (s : State) : s.brakeLow.lku = s.lku := rfl
@[simp] theorem State.brakeLow_evu (s : State) : s.brakeLow.evu = { s.evu with brakeOk := PerMaster.fill false } := rfl
@[simp] theorem State.brakeLow_sts (s : State) : s.brakeLow.sts = s.sts := rfl
@[simp] theorem State.brakeLow_now (s : State) : s.brakeLow.now = s.now := rfl
@[simp] theorem State.brakeLow_freeCount (s : State) : s.brakeLow.freeCount = s.freeCount := rfl
@[simp] theorem State.brakeLow_pending (s : State) : s.brakeLow.pending = s.pending := rfl

/-! ### Settings -/

@[simp] theorem State.writeParam_msu (s : State) (n v : Nat) : (s.writeParam n v).msu = s.msu := rfl
@[simp] theorem State.writeParam_tgu (s : State) (n v : Nat) : (s.writeParam n v).tgu = s.tgu := rfl
@[simp] theorem State.writeParam_aac (s : State) (n v : Nat) : (s.writeParam n v).aac = s.aac := rfl
@[simp] theorem State.writeParam_dqm (s : State) (n v : Nat) : (s.writeParam n v).dqm = s.dqm := rfl
@[simp] theorem State.writeParam_glc (s : State) (n v : Nat) : (s.writeParam n v).glc = s.glc := rfl
@[simp] theorem State.writeParam_hlc (s : State) (n v : Nat) : (s.writeParam n v).hlc = s.hlc := rfl
@[simp] theorem State.writeParam_llu (s : State) (n v : Nat) : (s.writeParam n v).llu = s.llu := rfl
@[simp] theorem State.writeParam_spu (s : State) (n v : Nat) : (s.writeParam n v).spu = s.spu := rfl
@[simp] theorem State.writeParam_lku (s : State) (n v : Nat) : (s.writeParam n v).lku = s.lku := rfl
@[simp] theorem State.writeParam_evu (s : State) (n v : Nat) : (s.writeParam n v).evu = s.evu := rfl
@[simp] theorem State.writeParam_sts (s : State) (n v : Nat) :
    (s.writeParam n v).sts =
      { s.sts with ws := s.sts.ws.setParam n v } := rfl
@[simp] theorem State.writeParam_now (s : State) (n v : Nat) : (s.writeParam n v).now = s.now := rfl
@[simp] theorem State.writeParam_freeCount (s : State) (n v : Nat) : (s.writeParam n v).freeCount = s.freeCount := rfl
@[simp] theorem State.writeParam_pending (s : State) (n v : Nat) : (s.writeParam n v).pending = s.pending := rfl

@[simp] theorem State.beginWrite_msu (s : State) : s.beginWrite.msu = s.msu := rfl
@[simp] theorem State.beginWrite_tgu (s : State) : s.beginWrite.tgu = s.tgu := rfl
@[simp] theorem State.beginWrite_aac (s : State) : s.beginWrite.aac = s.aac := rfl
@[simp] theorem State.beginWrite_dqm (s : State) : s.beginWrite.dqm = s.dqm := rfl
@[simp] theorem State.beginWrite_glc (s : State) : s.beginWrite.glc = s.glc := rfl
@[simp] theorem State.beginWrite_hlc (s : State) : s.beginWrite.hlc = s.hlc := rfl
@[simp] theorem State.beginWrite_llu (s : State) : s.beginWrite.llu = s.llu := rfl
@[simp] theorem State.beginWrite_spu (s : State) : s.beginWrite.spu = s.spu := rfl
@[simp] theorem State.beginWrite_lku (s : State) : s.beginWrite.lku = s.lku := rfl
@[simp] theorem State.beginWrite_evu (s : State) : s.beginWrite.evu = s.evu := rfl
@[simp] theorem State.beginWrite_sts (s : State) :
    s.beginWrite.sts =
      { s.sts with image := none, writing := some { image := s.sts.ws.image, timer := ⟨s.now, storeTime⟩ } } := rfl
@[simp] theorem State.beginWrite_now (s : State) : s.beginWrite.now = s.now := rfl
@[simp] theorem State.beginWrite_freeCount (s : State) : s.beginWrite.freeCount = s.freeCount := rfl
@[simp] theorem State.beginWrite_pending (s : State) : s.beginWrite.pending = s.pending := rfl

/-! ### Time -/

@[simp] theorem State.tick_msu (s : State) : s.tick.msu = s.msu := rfl
@[simp] theorem State.tick_tgu (s : State) : s.tick.tgu = s.tgu := rfl
@[simp] theorem State.tick_aac (s : State) : s.tick.aac = s.aac := rfl
@[simp] theorem State.tick_dqm (s : State) : s.tick.dqm = s.dqm := rfl
@[simp] theorem State.tick_glc (s : State) : s.tick.glc = s.glc := rfl
@[simp] theorem State.tick_hlc (s : State) : s.tick.hlc = s.hlc := rfl
@[simp] theorem State.tick_llu (s : State) : s.tick.llu = s.llu := rfl
@[simp] theorem State.tick_spu (s : State) : s.tick.spu = s.spu := rfl
@[simp] theorem State.tick_lku (s : State) : s.tick.lku = s.lku := rfl
@[simp] theorem State.tick_evu (s : State) : s.tick.evu = s.evu := rfl
@[simp] theorem State.tick_sts (s : State) : s.tick.sts = s.sts := rfl
@[simp] theorem State.tick_now (s : State) : s.tick.now = s.now + 1 := rfl
@[simp] theorem State.tick_freeCount (s : State) : s.tick.freeCount = s.freeCount := rfl
@[simp] theorem State.tick_pending (s : State) : s.tick.pending = s.pending := rfl

end Sys2Proof.Machine
end

