-- ==== Sys2Proof/WellFormed.lean ====
section
/-! DEFINITION. Which commands are well formed: the ones that a frame or an event of the part can give. Field values that their
encoding does not define are well formed, for the part answers them itself (R153). -/

namespace Sys2Proof

/-- A frame that can complete on the CAN bus: at most 8 data bytes, none in a remote frame, and an identifier of 11 bits unless it
is extended. -/
def CanFrame.ok (f : CanFrame) : Bool :=
  decide (f.data.length ≤ 8) && (!f.remote || f.data.isEmpty) && (f.extended || decide (f.ident.toNat < 2 ^ 11))

/-- A kind byte of no request kind, which a frame of the sender's port can carry: on CAN a kind has 5 bits (R172). -/
def unknownKindOk (m : Master) (kind : Byte) : Bool :=
  (kind.toNat == 0 || decide (21 < kind.toNat)) && (m == .panel || decide (kind.toNat < 32))

/-- The commands that can occur. TYRE_SET with form 1 is the row TYRE_SET_CLEAR, and HEIGHT_AUTHORITY with value 2 the row
HEIGHT_AUTHORITY_RELEASE. -/
def Instr.wellFormed : Instr → Bool
  | .canFrameReceived f => f.ok
  | .unknownRequest h kind => unknownKindOk h.sender kind
  | .tyreSet _ _ form _ => form != 1
  | .heightAuthorityTake _ value => value != 2
  | .resetAssert => true | .start => true | .pressureArrival .. => true | .heightArrival .. => true
  | .openTimerExpiry .. => true | .stepTimeout .. => true | .closeTimerExpiry .. => true | .settleExpiry .. => true
  | .tyrePersistenceExpiry .. => true | .heightPersistenceExpiry => true | .overSpeedExpiry => true
  | .underSpeedExpiry => true | .brakeSilenceExpiry => true | .panelSilenceExpiry => true
  | .panelAuthorityExpiry => true | .stretchExpiry => true | .freshnessExpiry .. => true | .liftTimerExpiry => true
  | .snapshotExpiry .. => true | .windowExpiry .. => true | .supplyWindowExpiry => true | .storeWriteEnd => true
  | .statePeriod => true | .nodesPeriod => true | .loadPeriod => true | .busIdle => true | .busOff => true
  | .canFrameSent => true | .canTransmitRetry => true | .panelByteReceived .. => true | .panelGapTimeout => true
  | .panelSendStart => true | .panelFrameSent => true | .modeSet .. => true | .tyreSetClear .. => true
  | .profileWrite .. => true | .profileRead .. => true | .liftSet .. => true | .sequence .. => true
  | .faultClear .. => true | .configRead .. => true | .configWrite .. => true | .store .. => true
  | .heightSet .. => true | .heightAuthorityRelease .. => true | .rideReturn .. => true | .vehicleData .. => true
  | .panelAlive .. => true | .cancel .. => true | .stop .. => true | .resume .. => true | .statusRead .. => true
  | .maskSet .. => true | .testEvent .. => true

end Sys2Proof
end

