-- ==== Sys2Proof/Tests/Slice0.lean ====
section
/-! SUPPORT. Tests of the model, and for each statement with hypotheses a state and operands that meet them together. -/

set_option Elab.async false

namespace Sys2Proof.Tests

open Sys2Proof Sys2Proof.Machine

/-! ## States -/

/-- In RUN with everything else at its start value: the speed is UNKNOWN and brake priority is on. -/
def run : State := { State.reset with sts.phase := .run }

/-- In RUN at STANDSTILL with the brake link present, the brakes off and brake priority off. -/
def still : State :=
  { run with
    tgu.vehicle := { speed := some 0, braking := false, gB := 700, gBValid := true, link := true }
    aac.priority := false }

/-- A tyre descriptor with a step in a state. -/
def tyreDesc (id : Nat) (m : Managed) (k : StepKind) (x : DescState) : Desc where
  id := id
  cls := .tyre
  nodes := [m]
  goal := 600
  pending := none
  origin := .master .cab
  state := x
  kind := k
  stepGoal := some 600
  start := some (.pressure (some 700))
  stepsLeft := 5
  noProgress := 0
  wait := .clear
  torn := none

/-- A gallery with a step of a descriptor in flight and the four timers given. -/
def flight (id : Nat) (m : Managed) (ending : Option EndReason) (o s c t : Timer) : GalleryRec where
  flight := some { id := id, nodes := [m], ending := ending }
  pointer := 3
  openT := o
  stepT := s
  closeT := c
  settleT := t

/-- At STANDSTILL with a tyre fill in one state on gallery A and a tyre vent in another on gallery B. -/
def both (x y : DescState) (ga gb : GalleryRec) (v : Valves) : State :=
  { still with
    dqm.free := [2, 3, 4, 5, 6, 7]
    dqm.live := [.transfer (tyreDesc 0 .t2l .fill x), .transfer (tyreDesc 1 .t3l .vent y)]
    glc.galleries := ⟨ga, gb⟩
    glc.valves := v }

/-- The valves of the two steps of `both` while air moves. -/
def flowValves : Valves :=
  { Valves.off with rsv := true, exhaust := true, a := (PerManaged.fill false).set .t2l true,
                    b := (PerManaged.fill false).set .t3l true }

/-- Air moves on both galleries: OPENING on A, FLOWING on B. -/
def flow : State :=
  both .opening .flowing (flight 0 .t2l none (some ⟨0, 40⟩) (some ⟨0, 20000⟩) none none)
    (flight 1 .t3l none none (some ⟨0, 20000⟩) none none) flowValves

/-- Both steps have ended: CLOSING on A, SETTLING on B. -/
def ebb : State :=
  both .closing .settling (flight 0 .t2l (some .goal) none none (some ⟨0, 40⟩) none)
    (flight 1 .t3l (some .goal) none none none (some ⟨0, 1000⟩)) Valves.off

def cab : Hdr := { sender := .cab, tag := 7 }
def brake : Hdr := { sender := .brake, tag := 8 }
def panel : Hdr := { sender := .panel, tag := 9 }
/-- The cab with NO_REPLY set. -/
def quiet : Hdr := { sender := .cab, tag := 7, flags := 1 }

/-- The state after a command, on a command that has a next state. -/
def after (c : Instr) (s : State) : State :=
  match exec c s with
  | .next t => t
  | .fault _ => s
  | .refused _ => s

/-- The clauses of safety as one check. -/
def safeOk (s : State) : Bool :=
  decide ((s.dqm.free ++ s.liveIds).Perm [0, 1, 2, 3, 4, 5, 6, 7]) &&
  decide (s.transfers.Pairwise fun d e => ∀ m ∈ d.nodes, m ∉ e.nodes) &&
  (s.transfers.all fun d =>
    match d.cls with
    | .height => d.nodes == [.bll, .blr] && d.kind != .fill && d.kind != .vent
    | .lift => d.nodes == [.lft] && (d.kind == .fill || d.kind == .vent)
    | .tyre => (Tyre.list.any fun t => d.nodes == [t.managed]) && (d.kind == .fill || d.kind == .vent)) &&
  ([Gallery.a, .b].all fun g =>
    (match (s.glc.galleries.get g).flight with
      | none => true
      | some f => s.transfers.any fun d => d.id == f.id && d.kind.gallery == g && d.state != .queued) &&
    (!s.glc.valves.anyOpen g || s.transfers.any fun d => d.kind.gallery == g && d.state.airMoves)) &&
  (s.transfers.all fun d =>
    (d.state == .queued || (s.glc.galleries.get d.kind.gallery).flight.any fun f => f.id == d.id) &&
    (!d.state.airMoves ||
      !(s.glc.stop.occupied || (s.held && d.cls.movesDeck) || (s.aac.priority && d.kind.isFill))))

theorem safe_of_safeOk {s : State} (h : safeOk s = true) : Safe s := by
  simp only [safeOk, Bool.and_eq_true, decide_eq_true_eq, List.all_eq_true] at h
  obtain ⟨⟨⟨⟨hp, hn⟩, hs⟩, hg⟩, hd⟩ := h
  refine ⟨hp, hn, fun d m => ?_, ⟨fun g f e => ?_, fun d m q => ?_⟩, ⟨fun x d m _ => ?_, fun x d m y => ?_, fun x d m y => ?_⟩,
    fun g v => ?_⟩
  · have := hs d m
    obtain ⟨id, cls⟩ := d
    cases cls <;> simp at this
    · exact ⟨this.1.1, this.1.2, this.2⟩
    · exact ⟨this.1, this.2⟩
    · obtain ⟨⟨t, -, e⟩, k⟩ := this
      exact ⟨⟨t, e⟩, k⟩
  · have := (hg g (by cases g <;> simp)).1
    rw [e] at this
    simpa [and_assoc] using this
  · have := (hd d m).1
    simpa [q, Option.any_eq_true] using this
  · have := (hd d m).2; simp [x] at this; exact this
  · have := (hd d m).2; simp [x, y] at this; exact this
  · have := (hd d m).2; simp [x, y] at this; exact this
  · have := (hg g (by cases g <;> simp)).2
    simpa [v] using this

theorem flow_safe : Safe flow := safe_of_safeOk (by decide)
theorem ebb_safe : Safe ebb := safe_of_safeOk (by decide)

/-- A change that no clause of safety reads keeps a state safe. -/
theorem Safe.same {s t : State} (h : Safe s) (hd : t.dqm = s.dqm) (hg : t.glc = s.glc)
    (hv : t.tgu.vehicle = s.tgu.vehicle) (hp : t.aac.priority = s.aac.priority) : Safe t := by
  obtain ⟨h1, h2, h3, h4, h5, h6⟩ := h
  have e1 : t.transfers = s.transfers := by unfold State.transfers; rw [hd]
  refine ⟨?_, ?_, ?_, ⟨?_, ?_⟩, ⟨?_, ?_, ?_⟩, ?_⟩
  · unfold PoolWhole State.liveIds at *; rw [hd]; exact h1
  · unfold NodesOnce at *; rw [e1]; exact h2
  · unfold AllShaped at *; rw [e1]; exact h3
  · intro g f hf; rw [hg] at hf; rw [e1]; exact h4.served g f hf
  · intro d hm hs; rw [e1] at hm; rw [hg]; exact h4.carried d hm hs
  · intro hs; rw [hg] at hs; unfold AirStill; rw [e1]; exact h5.stopped hs
  · intro hs
    have : s.held = true := by
      unfold State.held State.speedState at *; rw [hv] at hs; exact hs
    unfold AirStill; rw [e1]; exact h5.held this
  · intro hs; rw [hp] at hs; unfold AirStill; rw [e1]; exact h5.braked hs
  · intro g hs; rw [hg] at hs; rw [e1]; exact h6 g hs

/-! ## Well-formed commands -/

theorem test_wellFormed_refuses_long_frame :
    (Instr.canFrameReceived { ident := 0, data := List.replicate 9 0 }).wellFormed = false := by decide
theorem test_wellFormed_refuses_remote_with_data :
    (Instr.canFrameReceived { remote := true, ident := 0, data := [1] }).wellFormed = false := by decide
theorem test_wellFormed_refuses_wide_identifier :
    (Instr.canFrameReceived { extended := false, ident := 2048, data := [] }).wellFormed = false := by decide
theorem test_wellFormed_refuses_known_kind : (Instr.unknownRequest cab 1).wellFormed = false := by decide
theorem test_wellFormed_refuses_wide_kind : (Instr.unknownRequest cab 32).wellFormed = false := by decide
theorem test_wellFormed_refuses_clear_form : (Instr.tyreSet cab 5 1 0).wellFormed = false := by decide
theorem test_wellFormed_refuses_release_value : (Instr.heightAuthorityTake panel 2).wellFormed = false := by decide
theorem test_wellFormed_takes_frame :
    (Instr.canFrameReceived { ident := 0, data := List.replicate 8 0 }).wellFormed = true := by decide
/-- The table gives no row any bits, so no word spells a command. -/
theorem test_decode_none : decodeTableWord 8 1 = none := rfl

/-! ## Witnesses: the machine -/

theorem witness_StepRunsFront : ({ still with pending := [.stop cab, .busIdle] } : State).pending = .stop cab :: [.busIdle] ∧
    still.pending = [] := ⟨rfl, rfl⟩

theorem witness_EveryCommandCompletes_reset :
    State.reset.sts.phase = .reset ∧ Instr.busIdle ≠ .start ∧ Instr.busIdle ≠ .resetAssert := by decide

theorem witness_ResetAndStart_good :
    ∃ w, State.reset.sts.image = some w ∧ imageGood w = true := ⟨_, rfl, by decide +kernel⟩
theorem witness_ResetAndStart_bad :
    ∀ w, ({ still with sts.image := some [1, 2] } : State).sts.image = some w → imageGood w = false := by
  intro w h; cases h; decide
theorem witness_ResetAndStart_absent :
    ∀ w, ({ still with sts.image := none } : State).sts.image = some w → imageGood w = false := by
  intro w h; cases h

theorem witness_SafeKept : Safe { flow with pending := [.stop cab] } ∧
    ∃ t, step { flow with pending := [.stop cab] } = .next t :=
  ⟨Safe.same flow_safe rfl rfl rfl rfl, _, rfl⟩

/-- Readings, targets and queues at the ends of their ranges, with a command waiting. -/
def edge : State :=
  { still with
    msu.nodes := ((PerNode.fill ⟨1200, true, 0⟩).set .t1l ⟨0, false, 10⟩)
    msu.heights := ⟨⟨true, 0, List.replicate 8 400⟩, ⟨false, 10, []⟩⟩
    tgu.tyres := (still.tgu.tyres.modify .t1l fun r => { r with override := some 300, target := 300 }).modify .t3r
      fun r => { r with override := some 820, target := 820 }
    hlc.target := 360
    lku.fifo := List.replicate 8 ⟨.cab, 16, 1, 0, 0, []⟩
    lku.canTx := List.replicate 24 ⟨[⟨0, []⟩], true, false⟩
    lku.panelTx := List.replicate 8 ⟨[[]], true, true⟩
    pending := [.statePeriod] }

theorem witness_SettingsLegalKept : SettingsLegal edge ∧ ∃ t, step edge = .next t := ⟨by unfold SettingsLegal; decide, _, rfl⟩
theorem witness_ReadingsInRangeKept : ReadingsInRange edge ∧ ∃ t, step edge = .next t := by
  refine ⟨⟨fun n => ?_, fun sd => ?_⟩, _, rfl⟩
  · cases n <;> unfold Reading.inRange <;> decide
  · cases sd <;> unfold HeightEntry.inRange <;> decide
theorem witness_QueuesBoundedKept : QueuesBounded edge ∧ ∃ t, step edge = .next t := by
  exact ⟨⟨by decide, by decide, by decide⟩, _, rfl⟩
theorem witness_TargetsInRangeKept : SettingsLegal edge ∧ TargetsInRange edge ∧ ∃ t, step edge = .next t := by
  refine ⟨by unfold SettingsLegal; decide, ⟨fun t v h => ?_, fun t => ?_, by decide⟩, _, rfl⟩
  · cases t <;> first | (cases h; decide) | cases h
  · cases t <;> decide

/-! Each field that `WhoChangesWhat` watches does change, by a command that it names. -/

/-- In LOADING at STANDSTILL. -/
def loading : State := { still with tgu.mode := .loading }

theorem witness_WhoChangesWhat_mode : (after (.modeSet cab 1) still).tgu.mode = .field := by decide +kernel
theorem witness_WhoChangesWhat_settings : (after (.configWrite cab 16 50) still).sts.ws ≠ still.sts.ws := by decide +kernel
theorem witness_WhoChangesWhat_image : (after (.store cab) still).sts.image ≠ still.sts.image := by decide +kernel
theorem witness_WhoChangesWhat_overrides :
    (after (.tyreSet cab 5 0 500) still).tgu.overrides ≠ still.tgu.overrides := by decide +kernel
theorem witness_WhoChangesWhat_stop : (after (.stop panel) still).glc.stop ≠ still.glc.stop := by decide +kernel
theorem witness_WhoChangesWhat_masks : (after (.maskSet brake 0) still).evu.masks ≠ still.evu.masks := by decide +kernel
theorem witness_WhoChangesWhat_setting : (after (.liftSet cab 2) still).llu.setting = .down := by decide +kernel
theorem witness_WhoChangesWhat_holder :
    (after (.heightAuthorityTake panel 1) loading).hlc.holder = true ∧ loading.hlc.holder = false := by decide +kernel
theorem witness_WhoChangesWhat_holder_lost :
    (after (.heightAuthorityRelease panel) { loading with hlc.holder := true }).hlc.holder = false := by decide +kernel
theorem witness_WhoChangesWhat_readings :
    (after (.pressureArrival .t1l { value := 500 }) still).msu ≠ still.msu := by decide +kernel

/-- With T1L faulted and a latch in CAB's set. -/
def faulted : State :=
  { still with
    spu.faults := still.spu.faults.set .t1l true
    evu.latches := still.evu.latches.set .cab ((PerKind.fill none).set .nodeFault (some ((PerNode.fill false).set .t1l true))) }

theorem witness_LatchesAndFaultsStay :
    (∃ t, exec (.statusRead brake) faulted = .next t) ∧ Instr.statusRead brake ≠ .resetAssert ∧
    Instr.statusRead brake ≠ .start ∧ (∀ h, Instr.statusRead brake = .statusRead h → h.sender ≠ .cab) ∧
    (∀ h n, Instr.statusRead brake ≠ .faultClear h n) ∧ faulted.faulted .t1l = true := by
  refine ⟨⟨_, rfl⟩, by decide, by decide, fun h e => ?_, fun h n => ?_, rfl⟩
  · cases e; decide
  · intro e; cases e

theorem witness_ImageRoundTrip : Settings.default.legal = true := by decide
theorem witness_FramesRoundTrip_panel : (List.replicate 40 (255 : Byte)).length ≤ 40 := by decide
theorem witness_FramesRoundTrip_can : 3 < 4 ∧ 31 < 32 ∧ 7 < 8 ∧ 1 ≤ 8 ∧ 8 ≤ 8 ∧ 255 < 256 := by decide

/-! ## Witnesses: readings and the air account -/

/-- The band of a sample at its ends, and just off them. -/
theorem witness_PressureArrival :
    still.sts.phase ≠ .reset ∧
    (({ value := 0 } : Sample).inBand = true ∧ (0 : Int) ≤ 0 ∧ (0 : Int) ≤ 1200) ∧ ((1200 : Int) ≤ 1200) ∧
    ¬ (({ value := 1201 } : Sample).inBand = true ∧ (0 : Int) ≤ 1201 ∧ (1201 : Int) ≤ 1200) ∧
    ¬ (({ inBand := false, value := 700 } : Sample).inBand = true) := by decide

theorem witness_HeightArrival :
    edge.sts.phase ≠ .reset ∧ (edge.msu.heights.get .left).ring.length ≤ 8 ∧
    ((after (.heightArrival .left { value := 400 }) edge).msu.heights.get .left).ring =
      [400, 400, 400, 400, 400, 400, 400, 400] ∧
    ((after (.heightArrival .left { value := 400 }) edge).msu.heights.get .left).run < 10 ∧
    ((after (.heightArrival .right { value := 401 }) edge).msu.heights.get .right).ring.length ≠ 8 ∧
    10 ≤ ((after (.heightArrival .right { value := 401 }) edge).msu.heights.get .right).run := by decide +kernel

/-- One arrival short of the end of a sample round, in STARTING. -/
def lastArrival : State :=
  { still with
    sts.phase := .starting
    msu.nodeSeen := (PerNode.fill true).set .t3r false
    msu.sideSeen := PerSide.fill true }

theorem witness_RoundEntersRun_last :
    lastArrival.sts.phase ≠ .reset ∧ (∀ n, n ≠ .t3r → lastArrival.msu.nodeSeen.get n = true) ∧
    lastArrival.msu.sideSeen.left = true ∧ lastArrival.msu.sideSeen.right = true ∧ lastArrival.sts.phase = .starting := by
  refine ⟨by decide, fun n h => ?_, rfl, rfl, rfl⟩
  cases n <;> first | rfl | exact absurd rfl h
theorem witness_RoundEntersRun_run :
    ({ lastArrival with sts.phase := .run } : State).sts.phase = .run ∧
    (∀ n, n ≠ .t3r → ({ lastArrival with sts.phase := .run } : State).msu.nodeSeen.get n = true) := by
  refine ⟨rfl, fun n h => ?_⟩
  cases n <;> first | rfl | exact absurd rfl h
/-- One height arrival short of the end of a sample round, in STARTING. -/
def lastSide : State :=
  { still with
    sts.phase := .starting
    msu.nodeSeen := PerNode.fill true
    msu.sideSeen := ⟨true, false⟩ }
theorem witness_RoundEntersRun_height :
    lastSide.sts.phase = .starting ∧ (∀ n, lastSide.msu.nodeSeen.get n = true) ∧
    (∀ sd, sd ≠ .right → lastSide.msu.sideSeen.get sd = true) ∧ ({ lastSide with sts.phase := .run } : State).sts.phase = .run ∧
    lastSide.msu.sideSeen.get .right ≠ true := by
  refine ⟨rfl, fun n => ?_, fun sd h => ?_, rfl, by decide⟩
  · cases n <;> rfl
  · cases sd <;> first | rfl | exact absurd rfl h
theorem test_height_arrival_enters_run : (after (.heightArrival .right { value := 200 }) lastSide).sts.phase = .run ∧
    (after (.heightArrival .left { value := 200 }) lastSide).sts.phase = .starting := by decide +kernel
theorem witness_RoundEntersRun_other : still.sts.phase ≠ .reset ∧ ¬ still.msu.sideSeen.left = true := by decide

/-- T1L with nine invalid samples in a row. -/
def nine : State := { still with msu.nodes := still.msu.nodes.set .t1l ⟨600, false, 9⟩ }

theorem witness_SensorFault :
    nine.sts.phase ≠ .reset ∧ nine.faulted .t1l = false ∧ (1200 : Int) < ({ value := 1201 } : Sample).value ∧
    9 ≤ (nine.msu.nodes.get .t1l).run := by decide
theorem test_sensor_fault_at_ten : (after (.pressureArrival .t1l { value := 1201 }) nine).faulted .t1l = true := by
  decide +kernel

/-- The supply condition LOST with a recovery reference of 600 kPa. -/
def lost : State := { still with aac.supply := false, aac.recovery := some 600 }

theorem witness_RsvArrival :
    lost.sts.phase ≠ .reset ∧ lost.aac.supply = false ∧ lost.aac.recovery = some 600 ∧ still.aac.supply = true ∧
    (599 : Int).toNat < 600 ∧ (600 ≤ (609 : Int).toNat ∧ (609 : Int).toNat < 600 + 10) ∧ 600 + 10 ≤ (610 : Int).toNat := by
  decide
theorem test_supply_returns_at_ten : (after (.pressureArrival .rsv { value := 610 }) lost).aac.supply = true ∧
    (after (.pressureArrival .rsv { value := 609 }) lost).aac.supply = false := by decide +kernel

theorem witness_FillGoals_pressure : 0 < 120 ∧ 30 ≤ 900 ∧ ∃ g c, pressureFill 2000 800 120 900 600 760 = .step g c := by
  exact ⟨by decide, by decide, _, _, rfl⟩
theorem witness_FillGoals_height : 0 < 8 ∧ 0 < 2 ∧ ∃ g c, heightFill 2000 8 2 190 210 true = .step g c := by
  exact ⟨by decide, by decide, _, _, rfl⟩

/-- A supply window under way. -/
def window : State := { still with aac.window := some ⟨600, ⟨0, 60000⟩⟩ }

theorem witness_SupplyWindow :
    window.sts.phase ≠ .reset ∧ still.aac.window = none ∧ window.aac.window = some ⟨600, ⟨0, 60000⟩⟩ ∧
    ({ window with msu.nodes := window.msu.nodes.set .rsv ⟨605, true, 0⟩ } : State).pressure .rsv = some 605 ∧
    window.pressure .rsv = none := by decide

/-! ## Witnesses: tyre targets and settings -/

/-- LOAD_FOLLOW on with a side load set and P at GUARD_FLOOR or above. -/
def loaded : State := { still with llu.load := ⟨some 12000, some 8000⟩ }

theorem witness_ActiveTarget :
    still.tgu.basis = .road ∧ still.ws.loadFollow = true ∧ still.llu.load.get Tyre.t1l.side = none ∧
    loaded.llu.load.get Tyre.t1l.side = some 12000 ∧ loaded.ws.guardFloor ≤ loaded.ws.road.get .t1l ∧ 0 < loaded.ws.rated ∧
    loaded.tgu.guard.on = true ∧
    ({ still with tgu.basis := .field } : State).tgu.basis = .field ∧
    ({ still with llu.lift := .lifted } : State).llu.lift = .lifted ∧
    ({ still with sts.ws.loadFollow := false } : State).ws.loadFollow = false ∧
    ({ still with sts.ws.road := still.ws.road.set .t1l 300 } : State).ws.road.get .t1l < still.ws.guardFloor := by
  decide
/-- floor(12000 / 3) = 4000 kg and ceil(760 × 4000 / 4500) = 676, above the default GUARD_FLOOR 600 (R30). -/
theorem test_load_follow_ceil : loaded.formTarget .t1l none = 676 := by decide

theorem witness_TyreSetWrites :
    Passes flow cab codeTyreSet ∧ Tyre.ofNumber (5 : Byte).toNat = some .t1l ∧ flow.tgu.mode ≠ .loading ∧
    flow.faulted Tyre.t1l.node = false ∧ flow.glc.stop.occupied = false ∧
    (∀ d, flow.descOf Tyre.t1l.managed = some d → d.torn = none) ∧ 2 ≤ flow.dqm.free.length ∧ Busy flow ∧
    flow.descOf Tyre.t1l.managed = none ∧ flow.offTolerance .t1l (flow.formTarget .t1l (some 300)) = true ∧
    flow.dqm.free = 2 :: [3, 4, 5, 6, 7] :=
  ⟨⟨rfl, rfl, rfl⟩, rfl, by decide, rfl, rfl, (fun d h => nomatch h), by decide, ⟨rfl, rfl⟩, rfl, by decide, rfl⟩
theorem witness_TyreSetWrites_clear :
    (({ flow with tgu.tyres := flow.tgu.tyres.modify .t1l fun r => { r with override := some 820 } } : State).tgu.tyres.get
      .t1l).override ≠ none ∧ (flow.tgu.tyres.get .t1l).override = none := by decide
theorem witness_TyreSetWrites_within :
    ({ flow with msu.nodes := flow.msu.nodes.set .t1l ⟨510, true, 0⟩ } : State).descOf Tyre.t1l.managed = none ∧
    ({ flow with msu.nodes := flow.msu.nodes.set .t1l ⟨510, true, 0⟩ } : State).offTolerance .t1l 500 = false := by decide
theorem witness_TyreSetWrites_pending :
    flow.descOf Tyre.t2l.managed = some (tyreDesc 0 .t2l .fill .opening) ∧ (tyreDesc 0 .t2l .fill .opening).state ≠ .queued ∧
    (∀ d, flow.descOf Tyre.t2l.managed = some d → d.torn = none) := by
  refine ⟨rfl, by decide, fun d h => ?_⟩
  cases h; rfl
/-- With a third tyre queued behind the two in flight. -/
def queued : State :=
  { flow with
    dqm.free := [3, 4, 5, 6, 7]
    dqm.live := flow.dqm.live ++ [.transfer { tyreDesc 2 .t1l .fill .queued with stepGoal := none, start := none }] }
theorem witness_TyreSetWrites_merge : ∃ d, queued.descOf Tyre.t1l.managed = some d ∧ d.state = .queued ∧ d.torn = none :=
  ⟨_, rfl, rfl, rfl⟩

/-- One free record left. -/
def short : State := { flow with dqm.free := [7] }
/-- The descriptor of T2L torn, in CLOSING. -/
def tornTyre : State :=
  { ebb with dqm.live := [.transfer { tyreDesc 0 .t2l .fill .closing with torn := some .cancel },
                          .transfer (tyreDesc 1 .t3l .vent .settling)] }

theorem witness_TyreSetRefused :
    Passes flow cab codeTyreSet ∧ Tyre.ofNumber (4 : Byte).toNat = none ∧ Tyre.ofNumber (11 : Byte).toNat = none ∧
    (2 : Byte) ≠ 0 ∧ (2 : Byte) ≠ 1 ∧ Tyre.ofNumber (10 : Byte).toNat = some .t3r ∧ loading.tgu.mode = .loading ∧
    faulted.faulted Tyre.t1l.node = true ∧ ({ flow with glc.stop.cab := true } : State).glc.stop.occupied = true :=
  ⟨⟨rfl, rfl, rfl⟩, rfl, rfl, by decide, by decide, rfl, rfl, rfl, rfl⟩
theorem witness_TyreSetRefused_pool :
    short.descOf Tyre.t1l.managed = none ∧ short.offTolerance .t1l (short.formTarget .t1l (some 300)) = true ∧
    short.dqm.free.length ≤ 1 ∧ short.tgu.mode ≠ .loading := by decide
theorem witness_TyreSetRefused_torn : ∃ d, tornTyre.descOf Tyre.t2l.managed = some d ∧ d.torn ≠ none :=
  ⟨_, rfl, by decide⟩
/-- The same for a clear: an override is set, and the ask that takes it away meets the torn descriptor, or no record (R28). -/
theorem witness_TyreSetRefused_clear :
    ((0 : Half) ≠ 1) ∧ (({ tornTyre with tgu.tyres := tornTyre.tgu.tyres.modify .t2l fun r => { r with override := some 700 } } :
      State).tgu.tyres.get .t2l).override ≠ none ∧ short.offTolerance .t1l (short.formTarget .t1l none) = true := by decide
theorem test_clear_refused :
    ((after (.tyreSetClear cab 5 0)
      { short with tgu.tyres := short.tgu.tyres.modify .t1l fun r => { r with override := some 700 } }).tgu.tyres.get .t1l).override =
      some 700 := by decide +kernel

/-- A store write under way. -/
def storing : State :=
  { still with sts.image := none, sts.writing := some { image := still.ws.image, timer := ⟨0, 60⟩ } }

theorem witness_ProfileWrite :
    Passes still cab codeProfileWrite ∧ Tyre.ofNumber (11 : Byte).toNat = none ∧ 2 ≤ (2 : Byte).toNat ∧
    Tyre.ofNumber (5 : Byte).toNat = some .t1l ∧ (1 : Byte).toNat < 2 ∧ storing.sts.writing ≠ none ∧ still.sts.writing = none ∧
    ¬ ((1 : Byte).toNat = 0 ↔ still.tgu.basis = .field) = false :=
  ⟨⟨rfl, rfl, rfl⟩, rfl, by decide, rfl, by decide, by decide, rfl, by decide⟩
theorem test_profile_write_clamps : (after (.profileWrite cab 10 1 299) still).ws.field.t3r = 300 ∧
    (after (.profileWrite cab 5 0 821) still).ws.road.t1l = 820 := by decide +kernel

theorem witness_Reads :
    Passes still cab codeProfileRead ∧ Passes still cab codeConfigRead ∧ (4 : Byte).toNat < 5 ∧ 10 < (11 : Byte).toNat ∧
    Tyre.t1l.node.number = (5 : Byte).toNat ∧ Tyre.t3r.node.number = (10 : Byte).toNat ∧
    still.ws.param (255 : Byte).toNat = none ∧ ∃ v, still.ws.param (1 : Byte).toNat = some v :=
  ⟨⟨rfl, rfl, rfl⟩, ⟨rfl, rfl, rfl⟩, by decide, by decide, rfl, rfl, by decide, _, rfl⟩

theorem witness_ConfigWrite :
    Passes still cab codeConfigWrite ∧ paramEncodes (0 : Byte).toNat 1 = false ∧
    paramEncodes (36 : Byte).toNat 1 = false ∧ paramEncodes (22 : Byte).toNat 2 = false ∧
    paramEncodes (79 : Byte).toNat 3 = true ∧ paramEncodes (16 : Byte).toNat 80 = true ∧ still.sts.writing = none ∧
    storing.sts.writing ≠ none ∧ run.speedState ≠ .standstill ∧ still.speedState = .standstill ∧
    still.ws.accepts (16 : Byte).toNat 81 = false ∧ still.ws.accepts (16 : Byte).toNat 80 = true ∧
    still.ws.accepts (79 : Byte).toNat 3 = true ∧ still.ws.slots.length = 16 :=
  ⟨⟨rfl, rfl, rfl⟩, by decide +kernel⟩
theorem test_brake_min_moves_priority : (after (.configWrite cab 15 720) still).aac.priority = true := by decide +kernel

theorem witness_StoreAndReload :
    Passes still cab codeStore ∧ storing.sts.writing ≠ none ∧ still.sts.writing = none ∧ still.ws.legal = true :=
  ⟨⟨rfl, rfl, rfl⟩, by decide, rfl, by decide⟩

/-! ## Witnesses: travel mode and vehicle state -/

theorem witness_ModeSet :
    Passes still cab codeModeSet ∧ 3 ≤ (3 : Byte).toNat ∧ (2 : Byte).toNat < 3 ∧
    ({ loading with hlc.holder := true } : State).hlc.holder = true ∧ still.hlc.holder = false ∧
    run.tgu.mode ≠ .loading ∧ run.speedState ≠ .standstill ∧ (0 : Byte).toNat = still.tgu.mode.code ∧
    Mode.loading.code = (2 : Byte).toNat ∧ Mode.loading ≠ still.tgu.mode ∧ still.speedState = .standstill ∧
    Mode.field.code = (1 : Byte).toNat ∧ Mode.road ≠ loading.tgu.mode ∧ Busy flow ∧ Mode.loading ≠ flow.tgu.mode :=
  ⟨⟨rfl, rfl, rfl⟩, by decide, by decide, rfl, rfl, by decide, by decide, rfl, rfl, by decide, rfl, rfl, by decide,
    ⟨rfl, rfl⟩, by decide⟩

theorem witness_VehicleData :
    Passes still brake codeVehicleData ∧ (250 < (251 : Byte).toNat ∧ (254 : Byte).toNat < 255) ∧
    (1 < (2 : Byte).toNat ∧ (254 : Byte).toNat < 255) ∧ (250 : Byte).toNat ≤ 250 ∧ (1 : Byte).toNat ≤ 1 ∧
    ({ speed := some 11, braking := false, gB := 0, gBValid := false, link := true } : Vehicle).speedState = .moving ∧
    ({ speed := some 10, braking := false, gB := 0, gBValid := false, link := true } : Vehicle).speedState = .creep ∧
    still.speedState ≠ .moving ∧ still.speedState ≠ .creep ∧ loading.tgu.mode = .loading :=
  ⟨⟨rfl, rfl, rfl⟩, by decide⟩
/-- Moving off in LOADING forces ROAD, and the panel's authority lapses (R21, R109). -/
theorem test_moving_forces_road :
    (after (.vehicleData brake 1 0 700) { loading with hlc.holder := true }).tgu.mode = .road ∧
    (after (.vehicleData brake 1 0 700) { loading with hlc.holder := true }).hlc.holder = false := by decide +kernel
theorem test_brake_priority_releases_at_thirty :
    (after (.vehicleData brake 0 0 679) run).aac.priority = true ∧
    (after (.vehicleData brake 0 0 680) run).aac.priority = false := by decide +kernel

/-- The guard OFF with its over-speed timer running. -/
def fast : State := { still with tgu.guard := ⟨false, some ⟨0, 10000⟩, none⟩ }
/-- The guard ON with its under-speed timer running. -/
def slow : State := { still with tgu.guard := ⟨true, none, some ⟨0, 60000⟩⟩ }

theorem witness_SpeedGuard :
    still.sts.phase ≠ .reset ∧ still.tgu.guard.overT = none ∧ still.tgu.guard.underT = none ∧
    fast.tgu.guard.overT ≠ none ∧ fast.tgu.guard.on = false ∧ slow.tgu.guard.underT ≠ none ∧ slow.tgu.guard.on = true := by
  decide

theorem witness_BrakeSilence :
    still.sts.phase ≠ .reset ∧ still.lku.brakeSilence = none ∧
    ({ run with lku.brakeSilence := some ⟨0, 500⟩ } : State).lku.brakeSilence ≠ none ∧ run.tgu.vehicle.link = false ∧
    ({ still with lku.brakeSilence := some ⟨0, 500⟩ } : State).lku.brakeSilence ≠ none ∧ still.tgu.vehicle.link = true := by
  decide

/-! ## Witnesses: persistence and the pool -/

/-- T1L 21 kPa below its target with its persistence timer running, both galleries busy. -/
def leaning : State :=
  { flow with
    msu.nodes := flow.msu.nodes.set .t1l ⟨739, true, 0⟩
    tgu.tyres := flow.tgu.tyres.modify .t1l fun r => { r with timer := some ⟨0, 5000⟩ } }

theorem witness_TyrePersistence :
    leaning.sts.phase ≠ .reset ∧ (still.tgu.tyres.get .t1l).timer = none ∧ (leaning.tgu.tyres.get .t1l).timer ≠ none ∧
    leaning.pressure Tyre.t1l.node = some 739 ∧ 739 + 20 < (leaning.tgu.tyres.get .t1l).target ∧
    leaning.descOf Tyre.t1l.managed = none ∧ leaning.faulted Tyre.t1l.node = false ∧ leaning.tgu.mode ≠ .loading ∧
    Busy leaning ∧ leaning.dqm.free = 2 :: 3 :: [4, 5, 6, 7] ∧ ({ leaning with dqm.free := [7] } : State).dqm.free.length ≤ 1 ∧
    ({ leaning with spu.faults := leaning.spu.faults.set .t1l true } : State).faulted Tyre.t1l.node = true :=
  ⟨by decide, rfl, by decide, rfl, by decide, rfl, rfl, by decide, ⟨rfl, rfl⟩, rfl, by decide, rfl⟩

/-- The deck 21 mm low on both sides with the height persistence timer running, both galleries busy. -/
def sagging : State :=
  { flow with
    msu.heights := PerSide.fill ⟨true, 0, List.replicate 8 179⟩
    hlc.persist := some ⟨0, 5000⟩ }

theorem witness_HeightPersistence :
    sagging.sts.phase ≠ .reset ∧ still.hlc.persist = none ∧ sagging.hlc.persist ≠ none ∧ sagging.loopState = .pending ∧
    sagging.sideOut .left = true ∧ sagging.height .left = some 179 ∧ sagging.height .right = some 179 ∧
    chooseKind sagging.hlc.target 179 179 (sagging.pressure .bll) (sagging.pressure .blr) = some .pairFill ∧
    sagging.descSharing [.bll, .blr] = none ∧ sagging.dqm.free = 2 :: [3, 4, 5, 6, 7] ∧ Busy sagging ∧
    ({ sagging with tgu.vehicle.braking := true } : State).loopState ≠ .pending :=
  ⟨by decide, rfl, by decide, by decide, by decide, by decide, by decide, by decide, rfl, rfl, ⟨rfl, rfl⟩, by decide⟩

/-- An AUTO ask for one tyre, and one for the deck. -/
def tyreAsk : Ask := still.tyreAsk .t1l 600 .auto
def deckAsk : Ask :=
  { cls := .height, nodes := [.bll, .blr], goal := 200, kind := .pairFill, origin := .auto }

theorem witness_Allocation :
    flow.descSharing tyreAsk.nodes = none ∧ flow.dqm.free = 2 :: [3, 4, 5, 6, 7] ∧ [3, 4, 5, 6, 7] ≠ ([] : List Nat) ∧
    short.dqm.free = 7 :: [] ∧ deckAsk.cls = .height ∧ short.descSharing deckAsk.nodes = none ∧
    short.dqm.free.length = 1 ∧ tyreAsk.cls ≠ .height ∧ ({ short with dqm.free := [] } : State).dqm.free = [] :=
  ⟨rfl, rfl, by decide, rfl, rfl, rfl, rfl, by decide, rfl⟩

/-- A point that vents wait for, behind a tyre fill. -/
def held : List LiveRec := [.transfer (tyreDesc 0 .t2l .fill .queued)]
theorem witness_PointsRetire :
    (∃ d, LiveRec.transfer d ∈ held ∧ d.kind.isFill = true) ∧ ¬ ∃ d, LiveRec.transfer d ∈ held ∧ d.kind.isFill = false := by
  refine ⟨⟨_, .head _, rfl⟩, fun h => ?_⟩
  obtain ⟨d, hd, hk⟩ := h
  simp [held] at hd
  subst hd
  cases hk

theorem witness_Sequence :
    Passes flow cab codeSequence ∧ ¬ (1 ≤ (0 : Byte).toNat) ∧ ¬ (4 : Byte).toNat ≤ 3 ∧
    (1 ≤ (3 : Byte).toNat ∧ (3 : Byte).toNat ≤ 3) ∧ flow.dqm.free = 2 :: 3 :: [4, 5, 6, 7] ∧ NoGrant flow ∧
    short.dqm.free.length ≤ 1 := by
  refine ⟨⟨rfl, rfl, rfl⟩, by decide, by decide, by decide, rfl, fun d h hq => ?_, by decide⟩
  have : d = tyreDesc 0 .t2l .fill .opening ∨ d = tyreDesc 1 .t3l .vent .flowing := by
    simpa [State.transfers, flow, both, LiveRec.desc] using h
  rcases this with rfl | rfl <;> cases hq
/-- The point of FILL before VENT stays behind a fill; the one of VENT before FILL retires at once where no vent lives (R68). -/
theorem test_sequence_retires :
    (after (.sequence cab 1 2) flow).dqm.free = [3, 4, 5, 6, 7] ∧
    (after (.sequence cab 2 1) { flow with dqm.live := held }).dqm.free = [3, 4, 5, 6, 7, 2] := by decide +kernel

theorem witness_Cancel_refused :
    Passes flow cab codeCancel ∧ CancelScope.ofBytes 0 0 = none ∧ CancelScope.ofBytes 4 0 = none ∧
    cancelNode 1 = none ∧ cancelNode 11 = none ∧
    CancelScope.ofBytes 2 1 = some (.ofClass (.transfer .height)) ∧ CancelScope.ofBytes 3 0 = some .all ∧
    CancelScope.ofBytes 1 0 = some .own ∧ cancelNode 0 = some none ∧
    (brake.sender = .brake ∧ CancelScope.all ≠ .own ∧ CancelScope.all ≠ .ofClass (.transfer .height)) ∧
    (panel.sender = .panel ∧ CancelScope.all ≠ .own) :=
  ⟨⟨rfl, rfl, rfl⟩, by decide⟩
theorem witness_Cancel_flowing :
    cab.sender = .cab ∧
    flow.dqm.live.filter (CancelScope.own.selects .cab (some .t2l)) = [.transfer (tyreDesc 0 .t2l .fill .opening)] ∧
    (tyreDesc 0 .t2l .fill .opening).cls ≠ .lift ∧ Safe flow ∧ (tyreDesc 0 .t2l .fill .opening).state.airMoves = true ∧
    NoGrant flow :=
  ⟨rfl, by decide, by decide, flow_safe, rfl, witness_Sequence.2.2.2.2.2.1⟩
theorem witness_Cancel_queued :
    ∃ d, queued.dqm.live.filter (CancelScope.own.selects .cab (some .t1l)) = [.transfer d] ∧ d.state = .queued ∧
      d.cls ≠ .lift ∧ NoGrant queued := by
  refine ⟨_, rfl, rfl, by decide, fun d h hq => ?_⟩
  have : d = tyreDesc 0 .t2l .fill .opening ∨ d = tyreDesc 1 .t3l .vent .flowing ∨
      d = { tyreDesc 2 .t1l .fill .queued with stepGoal := none, start := none } := by
    simpa [State.transfers, queued, flow, both, LiveRec.desc] using h
  rcases this with rfl | rfl | rfl
  · cases hq
  · cases hq
  · rfl
/-- Beside the steps in flight: T1L queued, and a point. -/
def crowd : State :=
  { queued with
    dqm.free := [4, 5, 6, 7]
    dqm.live := queued.dqm.live ++ [.point { id := 3, pred := ⟨true, false⟩, succ := ⟨false, true⟩, origin := .master .cab }] }
theorem witness_Cancel_several :
    (cab.sender = .cab ∧ Safe crowd ∧ Safe ebb) ∧
    (crowd.dqm.live.filter (CancelScope.all.selects .cab none)).length = 4 ∧
    (∀ d ∈ crowd.transfers, d.state = .queued → CancelScope.all.selects .cab none (.transfer d) = true) ∧
    (∀ d ∈ crowd.transfers, d.cls ≠ .lift) ∧
    (∃ d ∈ crowd.transfers, CancelScope.all.selects .cab none (.transfer d) = true ∧ d.state.airMoves = true) ∧
    (∀ d ∈ ebb.transfers, d.state ≠ .queued ∧ d.cls ≠ .lift) ∧
    (∃ d ∈ ebb.transfers, CancelScope.all.selects .cab none (.transfer d) = true ∧ d.state = .settling) :=
  ⟨⟨rfl, safe_of_safeOk (by decide), ebb_safe⟩, by decide⟩
theorem test_cancel_several : (after (.cancel cab 3 0 0) crowd).dqm.free = [4, 5, 6, 7, 2, 3] ∧
    (after (.cancel cab 3 0 0) ebb).dqm.free = [2, 3, 4, 5, 6, 7, 1] := by decide +kernel
/-- A lift descriptor queued behind the two steps, with the LFT pressure given. -/
def lifted (g : Nat) (aim : Bool) (x : LiftState) : State :=
  { flow with
    msu.nodes := flow.msu.nodes.set .lft ⟨g, true, 0⟩
    llu := { flow.llu with aim := aim, lift := x, lftSeen := true }
    dqm.free := [3, 4, 5, 6, 7]
    dqm.live := flow.dqm.live ++ [.transfer { tyreDesc 2 .lft .fill .queued with cls := .lift, goal := 450 }] }
theorem witness_Cancel_lift :
    Safe (lifted 430 true .lowered) ∧ Safe (lifted 20 true .lifting) ∧
    (∃ d, (lifted 430 true .lowered).dqm.live.filter ((CancelScope.ofClass (.transfer .lift)).selects .cab none) = [.transfer d] ∧
      d.cls = .lift ∧ d.state = .queued) ∧
    (lifted 430 true .lowered).pressure .lft = some 430 ∧ (lifted 20 true .lifting).pressure .lft = some 20 ∧
    (∀ d ∈ (lifted 430 true .lowered).transfers, d.state = .queued →
      (CancelScope.ofClass (.transfer .lift)).selects .cab none (.transfer d) = true) :=
  ⟨safe_of_safeOk (by decide), safe_of_safeOk (by decide), ⟨_, rfl, rfl, rfl⟩, by decide⟩
theorem test_cancel_lift :
    (after (.cancel cab 2 2 0) (lifted 430 true .lowered)).llu.lift = .lifted ∧
    (after (.cancel cab 2 2 0) (lifted 20 true .lifting)).llu.aim = false := by decide +kernel

theorem witness_Cancel_nothing : ∀ l ∈ still.dqm.live, CancelScope.all.selects .cab none l = false := by
  intro l h; cases h

/-! ## Witnesses: steps -/

/-- Both galleries IDLE: a tyre to vent, and a tyre to fill from a supply at 900 kPa. -/
def ready : State :=
  { still with
    msu.nodes := (still.msu.nodes.set .rsv ⟨900, true, 0⟩).set .t2l ⟨500, true, 0⟩
    dqm.free := [2, 3, 4, 5, 6, 7]
    dqm.live := [.transfer (tyreDesc 0 .t2l .fill .queued), .transfer (tyreDesc 1 .t3l .vent .queued)] }
/-- The same with a stop in force: both wait with STOP. -/
def waiting : State := { ready with glc.stop.cab := true }

theorem witness_Scan :
    Safe ready ∧ Safe waiting ∧ (Ev.of ready).st.idle .a = true ∧ ready.idle .b = true ∧ ready.pressure .rsv = some 900 ∧
    (∀ d ∈ ready.scanned .a, ready.fillAnswer d ≠ .noFill) ∧ waiting.eligible .a = [] ∧ waiting.eligible .b = [] ∧
    (ready.glc.galleries.get .b).pointer = 15 ∧ ready.ws.slot 0 ≠ .tyre ∧
    (ready.eligible .a).find? (fun d => d.cls == .tyre) = some (tyreDesc 0 .t2l .fill .queued) ∧
    (ready.eligible .b).find? (fun d => d.cls == .tyre) = some (tyreDesc 1 .t3l .vent .queued) :=
  ⟨safe_of_safeOk (by decide), safe_of_safeOk (by decide), by decide⟩
/-- The first slot of class TYRE after the pointer takes the grant; its outputs are energised and a tyre step leaves the beacon's count. -/
theorem test_scan_grants :
    ((Ev.of ready).scanGallery .a).st.glc.valves.rsv = true ∧ ((Ev.of ready).scanGallery .a).st.glc.valves.a.t2l = true ∧
    ((Ev.of ready).scanGallery .b).st.glc.valves.exhaust = true ∧ ((Ev.of ready).scanGallery .b).st.evu.activeSteps = 0 ∧
    ((Ev.of waiting).scanGallery .b).st.transfers.map (fun d => d.wait) = [.clear, .stop] := by decide +kernel

theorem witness_StepTimers :
    flow.sts.phase ≠ .reset ∧ flow.served .a = some (tyreDesc 0 .t2l .fill .opening) ∧
    (flow.glc.galleries.get .a).openT ≠ none ∧ flow.served .b = some (tyreDesc 1 .t3l .vent .flowing) ∧
    (flow.glc.galleries.get .b).stepT ≠ none ∧ (still.glc.galleries.get .a).openT = none ∧
    (flow.glc.galleries.get .b).openT = none ∧ flow.galleryState .a ≠ some .flowing ∧
    flow.galleryState .b ≠ some .opening := by decide

theorem witness_CloseTimer :
    ebb.sts.phase ≠ .reset ∧ ebb.served .a = some (tyreDesc 0 .t2l .fill .closing) ∧
    (ebb.glc.galleries.get .a).closeT ≠ none ∧ (tyreDesc 0 .t2l .fill .closing).torn = none ∧
    (∃ d, tornTyre.served .a = some d ∧ d.torn ≠ none ∧ d.cls ≠ .lift ∧ d.state = .closing) ∧
    (∀ d ∈ tornTyre.transfers, d.state ≠ .queued) ∧ (flow.glc.galleries.get .a).closeT = none ∧
    ebb.galleryState .b ≠ some .closing := by
  refine ⟨by decide, rfl, by decide, rfl, ⟨_, rfl, by decide, by decide, rfl⟩, ?_, rfl, by decide⟩
  decide

/-- The vented tyre at the edge of its goal. -/
def met : State := { ebb with msu.nodes := ebb.msu.nodes.set .t3l ⟨610, true, 0⟩ }

theorem witness_SettleExpiry :
    met.sts.phase ≠ .reset ∧ met.served .b = some (tyreDesc 1 .t3l .vent .settling) ∧
    (met.glc.galleries.get .b).settleT ≠ none ∧ (tyreDesc 1 .t3l .vent .settling).pending = none ∧
    (∀ d ∈ met.transfers, d.state ≠ .queued) ∧
    ((met.glc.galleries.get .b).flight.bind Flight.ending) ≠ some .sensor ∧
    met.pressure Managed.t3l.node = some 610 ∧ 610 ≤ 600 + 10 ∧ (met.glc.galleries.get .a).settleT = none ∧
    met.galleryState .a ≠ some .settling := by
  refine ⟨by decide, rfl, by decide, rfl, ?_, by decide, rfl, by decide, rfl, by decide⟩
  decide
theorem test_settle_frees : (after (.settleExpiry .b) met).dqm.free = [2, 3, 4, 5, 6, 7, 1] := by decide +kernel
/-- The descriptor of gallery B with a goal of 700 kPa pending, given while the class maximum was 5, and the panel's stop set. -/
def asked : State :=
  { met with
    dqm.live := [.transfer (tyreDesc 0 .t2l .fill .closing),
      .transfer { tyreDesc 1 .t3l .vent .settling with pending := some ⟨700, .auto, 5⟩ }]
    glc.stop := ⟨false, true⟩ }
theorem witness_SettleExpiry_pending :
    asked.sts.phase ≠ .reset ∧ asked.served .b = some { tyreDesc 1 .t3l .vent .settling with pending := some ⟨700, .auto, 5⟩ } ∧
    (asked.glc.galleries.get .b).settleT ≠ none ∧ (5 : Nat) ≠ 0 ∧
    ((asked.glc.galleries.get .b).flight.bind Flight.ending) ≠ some .sensor ∧ asked.glc.stop.occupied = true ∧ Safe asked :=
  ⟨by decide, rfl, by decide, by decide, by decide, rfl, safe_of_safeOk (by decide)⟩
/-- The applied goal brings the maximum it was given with, not the 12 of the working set (R74). -/
theorem test_pending_steps :
    asked.ws.maxSteps.tyre = 12 ∧ (after (.settleExpiry .b) asked).transfers.map Desc.stepsLeft = [5, 5] ∧
    (after (.settleExpiry .b) asked).transfers.map Desc.goal = [600, 700] ∧
    (after (.tyreSet cab 7 0 700) flow).transfers.head?.bind Desc.pending = some ⟨700, .master .cab, 12⟩ := by decide +kernel

theorem witness_Stop : Passes flow panel codeStop ∧ Safe flow := ⟨⟨rfl, rfl, rfl⟩, flow_safe⟩
theorem test_stop_shuts_valves : (after (.stop panel) flow).glc.valves = Valves.off := by decide +kernel

theorem witness_Resume :
    Passes flow panel codeResume ∧ NoGrant flow ∧ flow.glc.stop.occupied = false ∧
    (⟨true && panel.sender != .cab, true && panel.sender != .panel⟩ : StopSet).occupied = true :=
  ⟨⟨rfl, rfl, rfl⟩, witness_Sequence.2.2.2.2.2.1, rfl, rfl⟩

theorem witness_FaultClear :
    Passes flow cab codeFaultClear ∧ (10 < (11 : Byte).toNat ∧ (254 : Byte).toNat < 255) ∧
    (1 ≤ (1 : Byte).toNat ∧ (10 : Byte).toNat ≤ 10) ∧ run.speedState ≠ .standstill ∧ flow.speedState = .standstill ∧ Busy flow :=
  ⟨⟨rfl, rfl, rfl⟩, by decide, by decide, by decide, rfl, ⟨rfl, rfl⟩⟩

/-! ## Witnesses: deck height, loads and the lift axle -/

/-- A CROSS step in FLOWING with BLR unordered. -/
def crossing : State :=
  { flow with
    dqm.live := [.transfer { tyreDesc 0 .bll .cross .flowing with cls := .height, nodes := [.bll, .blr], goal := 200 }]
    glc.galleries := ⟨flow.glc.galleries.a, { flow.glc.galleries.b with flight := some ⟨0, [.bll, .blr], none⟩ }⟩
    msu.nodes := flow.msu.nodes.set .blr ⟨400, false, 1⟩ }
/-- The step runs on, and SENSOR_INVALID names BLR (R15, R86); with BLR valid and less than 5 kPa off, it ends. -/
theorem test_cross_other_unordered :
    let t := after (.pressureArrival .bll { value := 403 }) crossing
    let u := after (.pressureArrival .bll { value := 403 }) { crossing with msu.nodes := flow.msu.nodes.set .blr ⟨400, true, 0⟩ }
    (t.evu.latches.cab.get .sensorInvalid).map (fun p => (p.get .blr, p.get .bll)) = some (true, false) ∧
    t.transfers.map Desc.state = [.flowing] ∧
    u.evu.latches.cab.get .sensorInvalid = none ∧ u.transfers.map Desc.state = [.closing] := by decide +kernel

/-- The lines of the table of R101, each at the edge of its condition, for a goal of 200 mm. -/
theorem test_height_choice :
    chooseKind 200 207 194 (some 400) (some 380) = some .cross ∧ chooseKind 200 207 194 (some 399) (some 380) = some (.sideVent .left) ∧
    chooseKind 200 196 196 none none = some .pairFill ∧ chooseKind 200 204 204 none none = some .pairVent ∧
    chooseKind 200 206 194 none none = some (.sideVent .left) ∧ chooseKind 200 203 196 none none = some (.sideFill .right) ∧
    chooseKind 200 203 197 none none = none := by decide
theorem witness_HeightChoice : still.height .left = none ∧ sagging.height .left = some 179 ∧ sagging.height .right = some 179 := by
  decide

theorem witness_HeightSet :
    Passes flow cab codeHeightSet ∧ (-1 : Int) < 80 ∧ (360 : Int) < 361 ∧ (panel.sender = .panel ∧ flow.hlc.holder = false) ∧
    (cab.sender = .cab ∧ flow.tgu.mode ≠ .loading) ∧ run.speedState = .unknown ∧
    ({ loading with hlc.holder := true } : State).hlc.holder = true ∧ flow.speedState = .standstill ∧
    flow.glc.stop.occupied = false ∧ flow.faulted .bll = false ∧ flow.faulted .blr = false ∧ flow.hlc.target = 200 ∧
    ({ flow with spu.faults := flow.spu.faults.set .bll true } : State).faulted .bll = true ∧ Safe flow ∧
    (∀ d ∈ flow.transfers, d.cls = .height → d.torn = none) ∧ flow.dqm.free ≠ [] :=
  ⟨⟨rfl, rfl, rfl⟩, by decide, by decide, ⟨rfl, rfl⟩, ⟨rfl, by decide⟩, rfl, rfl, rfl, rfl, rfl, rfl, rfl, rfl, flow_safe,
    by decide, by decide⟩
/-- The left height sensor nine invalid samples in, and one short of recovery. -/
def blind : State := { still with msu.heights := still.msu.heights.set .left ⟨false, 9, List.replicate 8 200⟩ }
def healing : State :=
  { still with hlc := { still.hlc with lockout := ⟨true, false, false, false⟩, recovery := ⟨7, 0⟩ } }

/-- The deck filling on gallery A, its descriptor as given. -/
def lifting (torn : Option TornBy) (x : DescState) : State :=
  { still with
    dqm.free := [1, 2, 3, 4, 5, 6, 7]
    dqm.live := [.transfer { tyreDesc 0 .bll .pairFill x with cls := .height, nodes := [.bll, .blr], goal := 210, torn := torn }]
    glc.galleries.a := flight 0 .bll none none none (some ⟨0, 40⟩) none }
theorem witness_Deck_asks :
    still.hlc.lockout.occupied = false ∧ flow.descOfClass .height = none ∧ flow.height .left = none ∧
    sagging.descOfClass .height = none ∧ sagging.height .left = some 179 ∧ sagging.height .right = some 179 ∧
    chooseKind 201 179 179 (sagging.pressure .bll) (sagging.pressure .blr) = some .pairFill ∧
    sagging.dqm.free = 2 :: [3, 4, 5, 6, 7] ∧ Busy sagging ∧ Safe sagging ∧
    (∃ d, (lifting (some .cancel) .closing).descOfClass .height = some d ∧ d.torn ≠ none) ∧ Safe (lifting (some .cancel) .closing) ∧
    (lifting (some .cancel) .closing).hlc.lockout.occupied = false ∧ (lifting (some .cancel) .closing).hlc.target = 200 :=
  ⟨rfl, rfl, rfl, rfl, by decide, by decide, by decide, rfl, ⟨rfl, rfl⟩, Safe.same flow_safe rfl rfl rfl rfl, ⟨_, rfl, by decide⟩,
    safe_of_safeOk (by decide), rfl, rfl⟩
/-- R103: no ask in LOCKED_OUT, a merge, no ask while a height is UNORDERED, and the record at the head of the free list. -/
theorem test_deck_answers :
    healing.deckAnswer 300 true = .accepted true false none [] ∧
    (lifting none .closing).deckAnswer 300 false = .accepted false true (some 0) [] ∧
    flow.deckAnswer 300 false = .accepted false false none [] ∧ sagging.deckAnswer 201 false = .accepted false false (some 2) [] := by
  decide
theorem test_height_set_torn :
    (after (.heightSet cab (.absolute 300)) (lifting (some .cancel) .closing)).hlc.target = 200 ∧
    (after (.heightSet cab (.absolute 300)) (lifting (some .cancel) .closing)).dqm.starve.height = 1 := by decide +kernel
theorem test_height_set_clamps : (after (.heightSet cab (.absolute 361)) still).hlc.target = 360 ∧
    (after (.heightSet cab (.step 128)) still).hlc.target = 80 := by decide +kernel

theorem witness_RideReturn_torn : ({ lifting (some .cancel) .closing with hlc.target := 210 } : State).ws.ride ≠ 210 ∧
    Safe { lifting (some .cancel) .closing with hlc.target := 210 } ∧
    (∃ d, ({ lifting (some .cancel) .closing with hlc.target := 210 } : State).descOfClass .height = some d ∧ d.torn ≠ none) :=
  ⟨by decide, safe_of_safeOk (by decide), _, rfl, by decide⟩
theorem witness_RideReturn :
    Passes flow brake codeRideReturn ∧ brake.sender ≠ .panel ∧ ({ loading with hlc.holder := true } : State).hlc.holder = true ∧
    flow.hlc.holder = false ∧ flow.ws.ride = flow.hlc.target ∧
    (∀ d ∈ flow.transfers, d.cls = .height → d.torn = none) ∧ flow.dqm.free ≠ [] :=
  ⟨⟨rfl, rfl, rfl⟩, by decide, rfl, rfl, rfl, by decide, by decide⟩
/-- LOADING on the basis FIELD: the nominal target is RIDE and the offset (R106). -/
theorem test_ride_return_field :
    (after (.rideReturn cab) { loading with tgu.basis := .field }).hlc.target = 230 := by decide +kernel

theorem witness_HeightAuthority :
    Passes still panel codeHeightAuthority ∧ (0 : Byte) ≠ 1 ∧ (0 : Byte) ≠ 2 ∧ still.tgu.mode ≠ .loading ∧
    loading.tgu.mode = .loading ∧ still.hlc.holder = false ∧
    ({ loading with hlc := { loading.hlc with holder := true, authT := some ⟨0, 120000⟩ } } : State).hlc.authT ≠ none ∧
    still.hlc.authT = none ∧ loading.sts.phase ≠ .reset :=
  ⟨⟨rfl, rfl, rfl⟩, by decide, by decide, by decide, rfl, rfl, by decide, rfl, by decide⟩

theorem witness_PanelSilence :
    still.sts.phase ≠ .reset ∧ still.lku.panelSilence = none ∧ still.lku.panelLink = false ∧
    ({ still with lku := { still.lku with panelSilence := some ⟨0, 2000⟩, panelLink := true } } : State).lku.panelLink = true := by
  decide

theorem witness_HeightLockout :
    blind.sts.phase ≠ .reset ∧ blind.transfers = [] ∧ (blind.msu.heights.get .left).run = 9 ∧
    ¬ (400 : Int) ≥ 401 ∧ blind.hlc.lockout.occupied = false ∧ healing.hlc.pending = false ∧
    healing.hlc.lockout.sensor .left = true ∧ healing.hlc.lockout.sensor .right = false ∧ healing.transfers = [] ∧
    healing.hlc.recovery.get .left + 1 = 8 := by decide
theorem test_height_sensor_recovers : (after (.heightArrival .left { value := 200 }) healing).hlc.lockout.occupied = false := by
  decide +kernel

theorem witness_SideLoad :
    still.sts.phase ≠ .reset ∧ ((1200 : Int) ≤ 1200) ∧ still.llu.heightStep = false ∧
    ({ still with llu.heightStep := true } : State).llu.heightStep = true := by decide
/-- floor(1200 × 1174 / 64) = 22012 kg (R119). -/
theorem test_side_load : (after (.pressureArrival .bll { value := 1200 }) still).llu.load.left = some 22012 := by decide +kernel
/-- Both galleries busy, the setting DOWN, and a left side load that was settled in STARTING. -/
def laden : State := { flow with llu.load := ⟨some 6000, none⟩, llu.setting := .down }
theorem witness_SideLoad_targets :
    laden.sts.phase = .run ∧ laden.tgu.mode ≠ .loading ∧ laden.llu.setting = .down ∧ Busy laden ∧
    laden.llu.load.get .right ≠ some (300 * laden.ws.lf / 64) ∧ laden.tgu.followed = false ∧ laden.llu.heightStep = false :=
  ⟨rfl, by decide, rfl, ⟨rfl, rfl⟩, by decide, rfl, rfl⟩
/-- The first load-follow recomputation in RUN takes the left tyres too, a later one the right ones alone (R39, R121). Both sides come to
less than GUARD_FLOOR, 600 kPa: 760 × 2000 / 4500 is 338 (R30). -/
theorem test_first_load_follow :
    let first := after (.pressureArrival .blr { value := 300 }) laden
    let later := after (.pressureArrival .blr { value := 300 }) { laden with tgu.followed := true }
    (first.tgu.tyres.t1l.target, first.tgu.tyres.t1r.target) = (600, 600) ∧ first.tgu.followed = true ∧
    (later.tgu.tyres.t1l.target, later.tgu.tyres.t1r.target) = (760, 600) := by decide +kernel

/-- The total load at LOWER_ABOVE, both galleries busy. -/
def light : State := { flow with llu.load := ⟨some 5000, some 5000⟩ }

theorem witness_LiftSet :
    Passes light cab codeLiftSet ∧ 3 < (4 : Byte).toNat ∧ LiftSetting.up.code = (1 : Byte).toNat ∧
    LiftSetting.auto.code = (3 : Byte).toNat ∧ loading.tgu.mode ≠ .road ∧ light.tgu.mode = .road ∧ light.faulted .lft = false ∧
    ({ light with spu.faults := light.spu.faults.set .lft true } : State).faulted .lft = true ∧
    light.glc.stop.occupied = false ∧ (∀ a b, still.llu.load.left = some a → still.llu.load.right = some b → 10000 < a + b) ∧
    ¬ (light.ws.lowerAbove < 5000 + 5000) ∧ light.llu.load.left = some 5000 ∧ light.llu.load.right = some 5000 ∧
    light.llu.lift = .lowered ∧ light.descSharing [.lft] = none ∧ Busy light ∧ Safe light ∧
    light.dqm.free = 2 :: 3 :: [4, 5, 6, 7] :=
  ⟨⟨rfl, rfl, rfl⟩, by decide, rfl, rfl, by decide, rfl, rfl, rfl, rfl, (fun a b h => nomatch h), by decide, rfl, rfl, rfl, rfl,
    ⟨rfl, rfl⟩, Safe.same flow_safe rfl rfl rfl rfl, rfl⟩
/-- A torn lift descriptor. -/
def tornLift : State :=
  { light with dqm.live := [.transfer { tyreDesc 0 .lft .vent .closing with cls := .lift, torn := some .cancel }] }
theorem witness_LiftSet_torn : ∃ d, tornLift.descSharing [.lft] = some d ∧ d.torn ≠ none ∧ tornLift.llu.lift = .lowered :=
  ⟨_, rfl, by decide, rfl⟩

/-- An axle LIFTED at 400 kPa, and one LOWERED with no air left: DOWN and AUTO, and what R127 asks. -/
theorem witness_LiftSet_table :
    light.liftTable false = none ∧ light.liftTable true = some (450, .lifting) ∧
    (lifted 400 true .lifted).liftTable false = some (0, .lowering) ∧ (lifted 400 true .lifted).liftTable true = none ∧
    LiftSetting.down.code = (2 : Byte).toNat ∧ light.liftTable light.llu.aim = none ∧
    ({ light with llu.load := ⟨some 2000, some 2000⟩ } : State).ws.liftBelow > 4000 ∧ light.tgu.mode = .road ∧
    light.speedState ≠ .unknown ∧ ({ short with llu.load := light.llu.load } : State).descSharing [.lft] = none ∧
    short.dqm.free.length ≤ 1 := by decide
theorem witness_LiftSet_merges :
    (∃ d, (lifted 400 true .lifted).descSharing [.lft] = some d ∧ d.torn = none ∧ d.state = .queued) ∧
    Safe (lifted 400 true .lifted) ∧ Busy (lifted 400 true .lifted) :=
  ⟨⟨_, rfl, rfl, rfl⟩, safe_of_safeOk (by decide), rfl, rfl⟩
/-- DOWN merges the goal 0 and turns the descriptor into a vent; UP under full load is refused with OVERLOAD (R129). -/
theorem test_lift_down_merges :
    (after (.liftSet cab 2) (lifted 400 true .lifted)).llu.lift = .lowering ∧
    ((after (.liftSet cab 2) (lifted 400 true .lifted)).descSharing [.lft]).map (fun d => (d.goal, d.kind)) = some (0, .vent) ∧
    (after (.liftSet cab 1) { light with llu.load := ⟨some 5000, some 5001⟩ }).llu.setting = .auto := by decide +kernel

/-- The timer of R125 running over the three ways of R127: no ask, an ask refused, and a merge. -/
theorem witness_LiftTimer_ways :
    (lifted 450 false .lifted).liftTable true = none ∧ flow.liftTable true = some (450, .lifting) ∧
    short.liftTable true = some (450, .lifting) ∧ short.descSharing [.lft] = none ∧ short.dqm.free.length ≤ 1 ∧
    tornLift.liftTable true = some (450, .lifting) ∧
    (lifted 400 false .lowering).liftTable true = some (450, .lifting) ∧ (lifted 400 false .lowering).llu.aim = false ∧
    (∃ d ∈ (lifted 400 false .lowering).transfers, d.cls = .lift ∧ d.torn = none) := by decide
theorem witness_LiftTimer_merge : Safe { lifted 400 false .lowering with llu.liftT := some ⟨0, 10000⟩ } ∧
    Busy { lifted 400 false .lowering with llu.liftT := some ⟨0, 10000⟩ } := ⟨safe_of_safeOk (by decide), rfl, rfl⟩

theorem witness_LiftTimer :
    still.llu.liftT = none ∧ ({ flow with llu.liftT := some ⟨0, 10000⟩ } : State).llu.liftT ≠ none ∧ flow.llu.aim = false ∧
    flow.sts.phase = .run ∧ flow.faulted .lft = false ∧ flow.llu.lift = .lowered ∧
    Safe { flow with llu.liftT := some ⟨0, 10000⟩ } ∧ flow.descSharing [.lft] = none ∧ Busy flow ∧
    flow.dqm.free = 2 :: 3 :: [4, 5, 6, 7] :=
  ⟨rfl, by decide, rfl, rfl, rfl, rfl, Safe.same flow_safe rfl rfl rfl rfl, rfl, ⟨rfl, rfl⟩, rfl⟩

/-! ## Witnesses: supervision, links, events and reports -/

/-- The monitor of T1L armed at 700 kPa with a full ring and both timers running, and T1L 20 kPa below. -/
def watched : State :=
  { still with
    msu.nodes := still.msu.nodes.set .t1l ⟨680, true, 0⟩
    spu.monitors := still.spu.monitors.set .t1l ⟨true, [700, 700, 700, 700], some ⟨0, 10000⟩, some 700, some ⟨0, 600000⟩⟩ }

theorem witness_Monitor :
    watched.sts.phase ≠ .reset ∧ (still.spu.monitors.get .t1l).snapshot = none ∧ (still.spu.monitors.get .t1l).window = none ∧
    (watched.spu.monitors.get .t1l).snapshot ≠ none ∧ (watched.spu.monitors.get .t1l).ring.length ≤ 4 ∧
    (watched.spu.monitors.get .t1l).window ≠ none ∧ watched.pressure Watched.t1l.node = some 680 ∧
    (watched.spu.monitors.get .t1l).reference = some 700 ∧ 680 + 20 ≤ 700 ∧ 700 < 681 + 20 ∧ still.evu.stretch = none ∧
    ({ still with evu := { still.evu with stretch := some ⟨0, 4000⟩, beacon := .stretch } } : State).evu.stretch ≠ none := by
  decide
theorem test_snapshot_keeps_four :
    ((after (.snapshotExpiry .t1l) watched).spu.monitors.get .t1l).ring = [700, 700, 700, 680] := by decide +kernel

/-- On the bus with an empty FIFO, and with a full one. -/
def bus : State := { still with lku.port := .onBus }

theorem witness_CanPort :
    bus.sts.phase ≠ .reset ∧ bus.lku.port = .onBus ∧ still.lku.port ≠ .onBus ∧ bus.lku.fifo.length < 8 ∧
    (0x042130 : BitVec 29).toNat % 256 = 0x30 ∧ bus.ws.ownAddr = 0x30 ∧ (0x042130 : BitVec 29).toNat / 256 % 256 = bus.ws.cabAddr ∧
    (0x040B30 : BitVec 29).toNat / 256 % 256 = bus.ws.brakeAddr ∧ bus.ws.brakeAddr ≠ bus.ws.cabAddr ∧
    ¬ edge.lku.fifo.length < 8 ∧
    ({ bus with lku.canTx := [⟨[⟨0, []⟩], false, false⟩] } : State).lku.canTx = [⟨[⟨0, []⟩], false, false⟩] := by decide
/-- The head item has two frames: one sent is not its last. -/
theorem witness_CanPort_group :
    let two : State := { bus with lku.canTx := [⟨[⟨1, []⟩, ⟨2, []⟩], true, false⟩, ⟨[⟨3, []⟩], false, false⟩] }
    two.sts.phase ≠ .reset ∧ two.lku.port = .onBus ∧
    two.lku.canTx = ⟨[⟨1, []⟩, ⟨2, []⟩], true, false⟩ :: [⟨[⟨3, []⟩], false, false⟩] ∧
    (after .canFrameSent two).lku.canTx = [⟨[⟨2, []⟩], true, true⟩, ⟨[⟨3, []⟩], false, false⟩] := by decide +kernel
theorem test_bus_idle_128 :
    (after .busIdle { still with lku.port := .offAfterBusOff 127 }).lku.port = .onBus ∧
    (after .busIdle { still with lku.port := .offAfterBusOff 126 }).lku.port = .offAfterBusOff 127 := by decide +kernel

theorem witness_PanelLine :
    still.sts.phase ≠ .reset ∧ still.lku.sending = false ∧ still.lku.rx = .hunt ∧ still.lku.panelTx = [] ∧
    ({ still with lku.sending := true } : State).lku.sending = true ∧
    ({ still with lku.rx := .length } : State).lku.rx = .length ∧
    ({ still with lku.rx := .check 1 [17, 9] } : State).lku.rx = .check 1 [17, 9] ∧
    ({ still with lku.panelTx := [⟨[[1]], false, false⟩] } : State).lku.panelTx = [⟨[[1]], false, false⟩] := by decide
/-- Start byte 167, length 2, kind 17, payload 9 and 0: the check byte makes the sum 256 (R146). -/
theorem test_panel_frame_taken :
    PanelRx.takeAll .hunt [167, 2, 17, 9, 0, 61] = (.hunt, [{ kind := 17, payload := [9, 0] }]) := by decide

theorem witness_CommonChecks :
    headerOf (.modeSet brake 0) = some (brake, codeModeSet) ∧ still.sts.phase ≠ .reset ∧ roleAllows codeModeSet .brake = false ∧
    roleAllows codeModeSet .cab = true ∧ ({ cab with flags := 2 } : Hdr).wellShaped = false ∧
    ({ cab with shapeOk := false } : Hdr).wellShaped = false ∧ cab.wellShaped = true ∧
    lastArrival.sts.phase = .starting ∧ codeModeSet ≠ codeStatusRead := by decide

theorem witness_PanelAlive : Passes still panel codePanelAlive ∧ panel.sender = .panel ∧ still.sts.phase = .run :=
  ⟨⟨rfl, rfl, rfl⟩, rfl, rfl⟩

theorem witness_StatusRead :
    still.sts.phase ≠ .reset ∧ panel.wellShaped = true ∧ panel.noReply = false ∧ quiet.noReply = true ∧
    cab.sender ≠ .panel ∧ still.lku.port ≠ .onBus := by decide
theorem test_status_read_clears :
    ((after (.statusRead cab) { faulted with lku.port := .onBus }).evu.latches.get .cab).get .nodeFault = none ∧
    ((after (.statusRead cab) faulted).evu.latches.get .cab).get .nodeFault ≠ none := by decide +kernel

theorem witness_MaskAndTest :
    Passes still brake codeMaskSet ∧ (0x4000 : Half).getLsbD 14 = true ∧ (0x8000 : Half).getLsbD 15 = true ∧
    (0x3FFF : Half).getLsbD 14 = false ∧ (0x3FFF : Half).getLsbD 15 = false ∧ Passes still panel codeTestEvent :=
  ⟨⟨rfl, rfl, rfl⟩, by decide, by decide, by decide, by decide, ⟨rfl, rfl, rfl⟩⟩

theorem witness_Periodic :
    still.sts.phase ≠ .reset ∧ still.evu.stateT = none ∧ still.evu.nodesT = none ∧ still.evu.loadT = none ∧
    ({ still with evu.stateT := some ⟨0, 500⟩ } : State).evu.stateT ≠ none ∧
    ({ still with evu.nodesT := some ⟨0, 1000⟩ } : State).evu.nodesT ≠ none ∧
    ({ still with evu.loadT := some ⟨0, 100⟩ } : State).evu.loadT ≠ none := by decide

end Sys2Proof.Tests
end

