-- ==== Sys2Proof/Proofs/HeightChoice.lean ====
section
/-! SUPPORT. The choice of a step kind (R101): one law per line of its table, over the errors of the two sides, and its need of both filtered
heights (R102). -/

namespace Sys2Proof.Machine

/-- The comparison of two readings holds exactly when both are ordered and meet the test (R13). -/
theorem holdsOf2_iff {r q : Option Nat} {test : Nat → Nat → Bool} :
    holdsOf2 r q test = true ↔ ∃ v w, r = some v ∧ q = some w ∧ test v w = true := by
  cases r with
  | none => simp [holdsOf2]
  | some v =>
    cases q with
    | none => simp [holdsOf2]
    | some w => simp [holdsOf2]

/-- The error of a side: its height over the goal. -/
abbrev sideError (goal f : Nat) : Int := f - goal

/-- The roll of line 1 and line 2: the errors of the two sides are further apart than ROLL_LIMIT. -/
abbrev Rolled (eL eR : Int) : Prop := rollLimit < (eL - eR).natAbs

/-- A side outside the tolerance of the goal (lines 3 to 6). -/
abbrev OffGoal (e : Int) : Prop := heightTolerance < e.natAbs

/-- The rest of line 1's condition: one side high, the other low, and the high side's bellows a cross margin above the low side's. -/
def CrossDrives (eL eR : Int) (pL pR : Option Nat) : Prop :=
  (0 < eL ∧ eR < 0 ∧ ∃ l r, pL = some l ∧ pR = some r ∧ r + crossMargin ≤ l) ∨
    (0 < eR ∧ eL < 0 ∧ ∃ l r, pL = some l ∧ pR = some r ∧ l + crossMargin ≤ r)

/-- `CrossDrives` is the test that `chooseKind` makes in line 1. -/
theorem crossDrives_iff {eL eR : Int} {pL pR : Option Nat} :
    ((0 < eL ∧ eR < 0 ∧ holdsOf2 pL pR fun l r => decide (r + crossMargin ≤ l)) ∨
      (0 < eR ∧ eL < 0 ∧ holdsOf2 pL pR fun l r => decide (l + crossMargin ≤ r))) ↔ CrossDrives eL eR pL pR := by
  simp only [CrossDrives, holdsOf2_iff, decide_eq_true_eq]

/-- Two sides more than ROLL_LIMIT apart cannot both stand within the tolerance. -/
theorem offGoal_of_rolled {eL eR : Int} (hroll : Rolled eL eR) : OffGoal eL ∨ OffGoal eR := by
  simp only [Rolled, OffGoal, rollLimit, heightTolerance] at *
  omega

/-! ### The lines of R101 -/

section lines

variable {goal fL fR : Nat} {pL pR : Option Nat}

/-- Line 1. -/
theorem chooseKind_cross (hroll : Rolled (sideError goal fL) (sideError goal fR))
    (hcross : CrossDrives (sideError goal fL) (sideError goal fR) pL pR) : chooseKind goal fL fR pL pR = some .cross :=
  (if_pos hroll).trans (if_pos (crossDrives_iff.mpr hcross))

/-- Line 2. -/
theorem chooseKind_rolled (hroll : Rolled (sideError goal fL) (sideError goal fR))
    (hcross : ¬ CrossDrives (sideError goal fL) (sideError goal fR) pL pR) :
    chooseKind goal fL fR pL pR = some (sideOfLarger (sideError goal fL) (sideError goal fR)) :=
  (if_pos hroll).trans (if_neg (mt crossDrives_iff.mp hcross))

/-- Lines 3 to 5 as one: both sides off the goal without a roll. -/
theorem chooseKind_both_off (hroll : ¬ Rolled (sideError goal fL) (sideError goal fR))
    (hL : OffGoal (sideError goal fL)) (hR : OffGoal (sideError goal fR)) :
    chooseKind goal fL fR pL pR =
      if sideError goal fL < 0 ∧ sideError goal fR < 0 then some .pairFill
      else if 0 < sideError goal fL ∧ 0 < sideError goal fR then some .pairVent
      else some (sideOfLarger (sideError goal fL) (sideError goal fR)) :=
  (if_neg hroll).trans (if_pos ⟨hL, hR⟩)

/-- Line 6 for the left side. -/
theorem chooseKind_left_off (hroll : ¬ Rolled (sideError goal fL) (sideError goal fR))
    (hL : OffGoal (sideError goal fL)) (hR : ¬ OffGoal (sideError goal fR)) :
    chooseKind goal fL fR pL pR = some (sideStep .left (sideError goal fL)) :=
  (if_neg hroll).trans ((if_neg fun both => hR both.2).trans (if_pos hL))

/-- Line 6 for the right side. -/
theorem chooseKind_right_off (hroll : ¬ Rolled (sideError goal fL) (sideError goal fR))
    (hL : ¬ OffGoal (sideError goal fL)) (hR : OffGoal (sideError goal fR)) :
    chooseKind goal fL fR pL pR = some (sideStep .right (sideError goal fR)) :=
  (if_neg hroll).trans ((if_neg fun both => hL both.1).trans ((if_neg hL).trans (if_pos hR)))

/-- Line 7, where two sides within the tolerance rule out every line before it. -/
theorem chooseKind_met (hL : ¬ OffGoal (sideError goal fL)) (hR : ¬ OffGoal (sideError goal fR)) :
    chooseKind goal fL fR pL pR = none :=
  have hroll : ¬ Rolled (sideError goal fL) (sideError goal fR) := fun h => (offGoal_of_rolled h).elim hL hR
  (if_neg hroll).trans ((if_neg fun both => hL both.1).trans ((if_neg hL).trans (if_neg hR)))

/-- Lines 1 to 6 choose a kind: a side off the goal is never taken for a goal met. -/
theorem chooseKind_isSome (hoff : OffGoal (sideError goal fL) ∨ OffGoal (sideError goal fR)) :
    (chooseKind goal fL fR pL pR).isSome = true := by
  by_cases hroll : Rolled (sideError goal fL) (sideError goal fR)
  · by_cases hcross : CrossDrives (sideError goal fL) (sideError goal fR) pL pR
    · rw [chooseKind_cross hroll hcross]; rfl
    · rw [chooseKind_rolled hroll hcross]; rfl
  · by_cases hL : OffGoal (sideError goal fL)
    · by_cases hR : OffGoal (sideError goal fR)
      · rw [chooseKind_both_off hroll hL hR]
        split
        · rfl
        · split <;> rfl
      · rw [chooseKind_left_off hroll hL hR]; rfl
    · rw [chooseKind_right_off hroll hL (hoff.resolve_left hL)]; rfl

/-- The goal is met exactly when both sides stand within the tolerance (R101, R89). -/
theorem chooseKind_eq_none_iff :
    chooseKind goal fL fR pL pR = none ↔ ¬ OffGoal (sideError goal fL) ∧ ¬ OffGoal (sideError goal fR) := by
  constructor
  · intro hnone
    refine not_or.mp fun hoff => ?_
    have hsome := chooseKind_isSome (pL := pL) (pR := pR) hoff
    simp [hnone] at hsome
  · rintro ⟨hL, hR⟩
    exact chooseKind_met hL hR

/-- Line 3. -/
theorem chooseKind_pairFill (hroll : ¬ Rolled (sideError goal fL) (sideError goal fR))
    (hL : OffGoal (sideError goal fL)) (hR : OffGoal (sideError goal fR))
    (lowL : sideError goal fL < 0) (lowR : sideError goal fR < 0) : chooseKind goal fL fR pL pR = some .pairFill :=
  (chooseKind_both_off hroll hL hR).trans (if_pos ⟨lowL, lowR⟩)

/-- Line 4. -/
theorem chooseKind_pairVent (hroll : ¬ Rolled (sideError goal fL) (sideError goal fR))
    (hL : OffGoal (sideError goal fL)) (hR : OffGoal (sideError goal fR))
    (highL : 0 < sideError goal fL) (highR : 0 < sideError goal fR) : chooseKind goal fL fR pL pR = some .pairVent :=
  (chooseKind_both_off hroll hL hR).trans
    ((if_neg fun low => lt_asymm highL low.1).trans (if_pos ⟨highL, highR⟩))

/-- Line 5. -/
theorem chooseKind_opposed (hroll : ¬ Rolled (sideError goal fL) (sideError goal fR))
    (hL : OffGoal (sideError goal fL)) (hR : OffGoal (sideError goal fR))
    (opposed : 0 < sideError goal fL ∧ sideError goal fR < 0 ∨ sideError goal fL < 0 ∧ 0 < sideError goal fR) :
    chooseKind goal fL fR pL pR = some (sideOfLarger (sideError goal fL) (sideError goal fR)) := by
  have notLow : ¬ (sideError goal fL < 0 ∧ sideError goal fR < 0) := by omega
  have notHigh : ¬ (0 < sideError goal fL ∧ 0 < sideError goal fR) := by omega
  rw [chooseKind_both_off hroll hL hR, if_neg notLow, if_neg notHigh]

end lines

/-! ### The choice on the readings as they stand -/

/-- No choice is made while a filtered height is UNORDERED (R102). -/
theorem State.heightChoice_of_unordered {s : State} {goal : Nat} (h : s.height .left = none ∨ s.height .right = none) :
    s.heightChoice goal = none := by
  unfold State.heightChoice
  split
  · next hl hr => simp [hl, hr] at h
  · rfl

/-- With both filtered heights VALID the choice is R101's, on the two bellows readings. -/
theorem State.heightChoice_of_valid {s : State} {goal l r : Nat} (hl : s.height .left = some l) (hr : s.height .right = some r) :
    s.heightChoice goal = some (chooseKind goal l r (s.pressure .bll) (s.pressure .blr)) := by
  simp only [State.heightChoice, hl, hr]

/-- Settles O44, line by line of R101: `sideStep`, `sideOfLarger`, `CrossDrives` and the two limits are, unfolded, what the statement
writes out. -/
theorem heightChoiceFollowsTable : Obligations.HeightChoiceFollowsTable :=
  ⟨fun _ _ _ _ _ =>
    ⟨chooseKind_cross, chooseKind_rolled, chooseKind_pairFill, chooseKind_pairVent, chooseKind_opposed, chooseKind_left_off,
      chooseKind_right_off, chooseKind_eq_none_iff⟩,
   fun _ _ => ⟨State.heightChoice_of_unordered, fun _ _ => State.heightChoice_of_valid⟩⟩

end Sys2Proof.Machine
end

section
/-! SUPPORT. The reads of the settings store (R165, R166): the tyre that a node number names, one law per branch of the two handlers, and
what the two commands come to. -/

namespace Sys2Proof.Machine

/-! ### The tyre of a node number (R1) -/

/-- The table of tyres by node number is the node numbers of the tyres read backwards. -/
theorem tyreOfNumber_eq_some_iff {n : Nat} {u : Tyre} : Tyre.ofNumber n = some u ↔ u.node.number = n := by
  constructor
  · intro named
    unfold Tyre.ofNumber at named
    split at named <;> cases named <;> rfl
  · rintro rfl
    cases u <;> rfl

/-- The tyres have the node numbers 5 to 10. -/
theorem tyreNumber_mem (u : Tyre) : 5 ≤ u.node.number ∧ u.node.number ≤ 10 := by
  cases u <;> decide

/-- No tyre has a number below 5 or above 10. -/
theorem tyreOfNumber_eq_none {n : Nat} (out : n < 5 ∨ 10 < n) : Tyre.ofNumber n = none := by
  refine Option.eq_none_iff_forall_ne_some.mpr fun u named => ?_
  have number : u.node.number = n := tyreOfNumber_eq_some_iff.mp named
  have range := tyreNumber_mem u
  omega

/-! ### The handlers -/

/-- PROFILE_READ of a number that names no tyre (R166). -/
theorem Ev.profileRead_of_none {node : Byte} (unnamed : Tyre.ofNumber node.toNat = none) (e : Ev) :
    e.profileRead node = (e, .refused .badFormat) := by
  unfold Ev.profileRead
  rw [unnamed]

/-- PROFILE_READ of a tyre (R166). -/
theorem Ev.profileRead_of_some {node : Byte} {u : Tyre} (named : Tyre.ofNumber node.toNat = some u) (e : Ev) :
    e.profileRead node =
      (e, .accepted false false none (bytesOf 2 (e.st.ws.road.get u) ++ bytesOf 2 (e.st.ws.field.get u))) := by
  unfold Ev.profileRead
  rw [named]

/-- CONFIG_READ of a number out of the table (R165). -/
theorem Ev.configRead_of_none {number : Byte} {e : Ev} (absent : e.st.ws.param number.toNat = none) :
    e.configRead number = (e, .refused .badFormat) := by
  unfold Ev.configRead
  rw [absent]

/-- CONFIG_READ of a parameter (R165). -/
theorem Ev.configRead_of_some {number : Byte} {v : Nat} {e : Ev} (holds : e.st.ws.param number.toNat = some v) :
    e.configRead number = (e, .accepted false false none (number :: bytesOf 2 v)) := by
  unfold Ev.configRead
  rw [holds]

/-! ### The commands -/

section reads

variable {s : State} {h : Hdr} {a : Answer}

/-- A PROFILE_READ whose handler changes nothing is answered as the handler says. -/
theorem exec_profileRead {node : Byte} (p : Passes s h codeProfileRead)
    (answer : (Ev.of (s.heard h (.profileRead h node))).profileRead node = (Ev.of (s.heard h (.profileRead h node)), a)) :
    exec (.profileRead h node) s =
      .next ((s.heard h (.profileRead h node)).answered (s.heard h (.profileRead h node)) h codeProfileRead a) :=
  congrArg Host.Outcome.next (p.same _ _ rfl answer)

/-- A CONFIG_READ whose handler changes nothing is answered as the handler says. -/
theorem exec_configRead {number : Byte} (p : Passes s h codeConfigRead)
    (answer : (Ev.of (s.heard h (.configRead h number))).configRead number = (Ev.of (s.heard h (.configRead h number)), a)) :
    exec (.configRead h number) s =
      .next ((s.heard h (.configRead h number)).answered (s.heard h (.configRead h number)) h codeConfigRead a) :=
  congrArg Host.Outcome.next (p.same _ _ rfl answer)

end reads

/-- Settles O25: the handlers read the working set of the state in which the request was heard, and hearing it leaves the working set
(`heard_ws`). -/
theorem readsReplyValues : Obligations.ReadsReplyValues := by
  refine ⟨fun s h node p => ⟨fun out => ?_, fun u number => ?_⟩, fun s h number p => ⟨fun absent => ?_, fun v holds => ?_⟩⟩
  · exact exec_profileRead p (Ev.profileRead_of_none (tyreOfNumber_eq_none out) _)
  · rw [← heard_ws s h (.profileRead h node)]
    exact exec_profileRead p (Ev.profileRead_of_some (tyreOfNumber_eq_some_iff.mpr number) _)
  · rw [← heard_ws s h (.configRead h number)] at absent
    exact exec_configRead p (Ev.configRead_of_none absent)
  · rw [← heard_ws s h (.configRead h number)] at holds
    exact exec_configRead p (Ev.configRead_of_some holds)

end Sys2Proof.Machine
end

section
/-! SUPPORT. A step keeps what every command keeps; and every command keeps a safe state safe. -/

set_option Elab.async false

namespace Sys2Proof.Machine

/-- A step keeps a property that neither the queue nor the clock enters and that every command keeps. -/
theorem step_keeps {P : State → Prop} (queue : ∀ s q, P s → P { s with pending := q }) (tick : ∀ s, P s → P s.tick)
    (command : ∀ c s, P s → ∃ t, exec c s = .next t ∧ P t) {s t : State} (hs : P s) (h : step s = .next t) : P t := by
  unfold step at h
  split at h
  · next c rest _ =>
    obtain ⟨u, hu, pu⟩ := command c _ (queue s rest hs)
    rw [hu] at h
    cases h
    exact pu
  · cases h
    exact tick s hs

/-! ### Safe states -/

/-- A handler that runs only under a condition is calm where it is calm when it runs. -/
theorem Calm.ite {p : Prop} [Decidable p] {e e' : Ev} (c : Calm e.st e'.st) : Calm e.st (if p then e' else e).st := by
  split
  · exact c
  · exact .refl _

/-- The same for what the handler makes good. -/
theorem good_ite {p : Prop} [Decidable p] {e e' : Ev} (g : Good e.st) (k : Good e'.st) : Good (if p then e' else e).st := by
  split
  · exact k
  · exact g

theorem calm_tyreExpiry (t : Tyre) (e : Ev) : Calm e.st (e.tyreExpiry t).st := .of_fixed (quiet_tyreExpiry t e none) (by simp)

theorem calm_heightExpiry (e : Ev) : Calm e.st e.heightExpiry.st := .of_fixed (quiet_heightExpiry e none) (by simp)

theorem calm_guardOn (e : Ev) : Calm e.st e.guardOn.st := .of_fixed' (quiet_guardOn e none) (guardOn_fixed e)

theorem calm_guardOff (e : Ev) : Calm e.st e.guardOff.st := .of_fixed' (quiet_guardOff e none) (guardOff_fixed e)

theorem calm_supplyExpiry (e : Ev) : Calm e.st e.supplyExpiry.st := by
  refine ⟨(same_supplyExpiry e).quiet none, ?_⟩
  unfold Ev.supplyExpiry
  split
  · have kept : ∀ x : Ev, (Ev.latch .supplyLost [] x).st.fixed = x.st.fixed := fun x => Ev.latch_fixed x _ _
    exact ⟨congrArg Fixed.stop (kept _), congrArg Fixed.vehicle (kept _), congrArg Fixed.priority (kept _)⟩
  · exact ⟨rfl, rfl, rfl⟩

theorem calm_endWrite (s : State) : Calm s s.endWrite := by
  unfold State.endWrite
  split
  · exact .aside
  · exact .refl _

theorem calm_stretchEnd (s : State) : Calm s s.stretchEnd := by
  unfold State.stretchEnd
  split
  · exact .aside
  · exact .refl _

theorem calm_sequence (p q : Byte) (e : Ev) : Calm e.st (e.sequence p q).1.st := by
  refine .of_fixed ?_ (Ev.sequence_fixed p q e)
  unfold Ev.sequence
  split
  · dsimp only
    split <;> exact quiet_placePoint _ _ _ e none
  · exact .refl _ _

theorem calm_faultClear (n : Byte) (e : Ev) : Calm e.st (e.faultClear n).1.st := by
  refine .of_fixed ?_ (Ev.faultClear_fixed n e)
  unfold Ev.faultClear
  split
  · exact .refl _ _
  · split
    · exact quiet_clearFaults _ e
    · exact .refl _ _

theorem good_vehicleData (a b : Byte) (c : Half) (e : Ev) (g : Good e.st) : Good (e.vehicleData a b c).1.st := by
  unfold Ev.vehicleData
  split
  · exact g
  · exact good_vehicleUpdate _ _ (Calm.good .aside g)

/-- A port event changes the link unit alone. -/
theorem calm_busIdle (s : State) : Calm s s.busIdle := by
  unfold State.busIdle
  split
  · exact .aside
  · exact .aside
  · exact .refl _

theorem calm_busOff (s : State) : Calm s s.busOff := by
  unfold State.busOff
  split
  · exact .aside
  · exact .refl _

theorem calm_canReceive (f : CanFrame) (s : State) : Calm s (s.canReceive f) := by
  unfold State.canReceive
  split
  · split
    · split
      · exact .aside
      · exact .refl _
    · exact .refl _
  · exact .refl _

theorem calm_canSent (s : State) : Calm s s.canSent := by
  unfold State.canSent
  split
  · exact .aside
  · exact .refl _

theorem calm_canRetry (s : State) : Calm s s.canRetry := by
  unfold State.canRetry
  split
  · exact .aside
  · exact .refl _

theorem calm_panelByte (b : Byte) (x : Bool) (s : State) : Calm s (s.panelByte b x) := by
  unfold State.panelByte
  split <;> exact .aside

theorem calm_panelSend (s : State) : Calm s s.panelSend := by
  unfold State.panelSend
  split
  · exact .aside
  · exact .refl _

theorem calm_panelSent (s : State) : Calm s s.panelSent := by
  unfold State.panelSent
  split
  · exact .aside
  · exact .refl _

/-- Every command keeps a good state good. -/
theorem good_exec (c : Instr) (s : State) (g : Good s) : ∃ t, exec c s = .next t ∧ Good t := by
  cases c with
  | resetAssert => exact ⟨_, rfl, good_startValues ..⟩
  | start => exact ⟨_, rfl, good_start s⟩
  | pressureArrival n x => exact ⟨_, rfl, good_ev g (calm_pressure n x)⟩
  | heightArrival sd x => exact ⟨_, rfl, good_ev g (calm_height sd x _ _)⟩
  | openTimerExpiry gl => exact ⟨_, rfl, good_ev g fun e => .of_fixed (quiet_openExpiry e.st gl) (by simp)⟩
  | stepTimeout gl => exact ⟨_, rfl, good_ev g fun e => .of_fixed (quiet_stepExpiry e.st gl) (by simp)⟩
  | closeTimerExpiry gl => exact ⟨_, rfl, good_ev g fun e => .of_fixed (quiet_closeExpiry gl e) (by simp)⟩
  | settleExpiry gl => exact ⟨_, rfl, good_ev g fun e => .of_fixed (quiet_settleExpiry gl e) (by simp)⟩
  | tyrePersistenceExpiry t => exact ⟨_, rfl, good_ev g fun e => .ite (calm_tyreExpiry t e)⟩
  | heightPersistenceExpiry => exact ⟨_, rfl, good_ev g fun e => .ite (calm_heightExpiry e)⟩
  | overSpeedExpiry => exact ⟨_, rfl, good_ev g fun e => .ite (calm_guardOn e)⟩
  | underSpeedExpiry => exact ⟨_, rfl, good_ev g fun e => .ite (calm_guardOff e)⟩
  | brakeSilenceExpiry =>
    refine ⟨_, rfl, good_event g (good_ite g ?_)⟩
    have stopped : Good { s with lku.brakeSilence := none } := Calm.good .aside g
    exact good_ite (e := (Ev.of s).on fun s => { s with lku.brakeSilence := none }) stopped (good_brakeLinkLost _ stopped)
  | panelSilenceExpiry =>
    refine ⟨_, rfl, good_event g (good_ite g ?_)⟩
    have stopped : Good { s with lku.panelSilence := none } := Calm.good .aside g
    exact good_ite (e := (Ev.of s).on fun s => { s with lku.panelSilence := none }) stopped (good_panelLinkLost _ stopped)
  | panelAuthorityExpiry => exact ⟨_, rfl, good_ev g fun e => .ite (Calm.trans .aside (calm_lapse _))⟩
  | stretchExpiry => exact ⟨_, rfl, good_ev g fun e => calm_stretchEnd e.st⟩
  | freshnessExpiry sd => exact ⟨_, rfl, good_ev g fun e => .aside⟩
  | liftTimerExpiry => exact ⟨_, rfl, good_ev g fun e => .ite (Calm.trans .aside (calm_aimTo true _))⟩
  | snapshotExpiry w => exact ⟨_, rfl, good_ev g fun e => .ite .aside⟩
  | windowExpiry w => exact ⟨_, rfl, good_ev g fun e => .ite (calm_windowEnd w e)⟩
  | supplyWindowExpiry => exact ⟨_, rfl, good_ev g fun e => .ite (calm_supplyExpiry e)⟩
  | storeWriteEnd => exact ⟨_, rfl, good_ev g fun e => calm_endWrite e.st⟩
  | statePeriod => exact ⟨_, rfl, good_ev g fun e => .ite .aside⟩
  | nodesPeriod => exact ⟨_, rfl, good_ev g fun e => .ite .aside⟩
  | loadPeriod => exact ⟨_, rfl, good_ev g fun e => .ite .aside⟩
  | busIdle => exact ⟨_, rfl, good_port g calm_busIdle⟩
  | busOff => exact ⟨_, rfl, good_port g calm_busOff⟩
  | canFrameReceived f => exact ⟨_, rfl, good_port g (calm_canReceive f)⟩
  | canFrameSent => exact ⟨_, rfl, good_port g calm_canSent⟩
  | canTransmitRetry => exact ⟨_, rfl, good_port g calm_canRetry⟩
  | panelByteReceived b x => exact ⟨_, rfl, good_port g (calm_panelByte b x)⟩
  | panelGapTimeout => exact ⟨_, rfl, good_port g fun _ => .aside⟩
  | panelSendStart => exact ⟨_, rfl, good_port g calm_panelSend⟩
  | panelFrameSent => exact ⟨_, rfl, good_port g calm_panelSent⟩
  | unknownRequest h kind =>
    refine ⟨_, rfl, ?_⟩
    split
    · exact g
    · exact good_close (good_receive g)
  | modeSet h m => exact ⟨_, rfl, good_req g (calm_modeSet m)⟩
  | tyreSet h n f v => exact ⟨_, rfl, good_req g (calm_tyreSet n f v)⟩
  | tyreSetClear h n v => exact ⟨_, rfl, good_req g (calm_tyreSetClear n v)⟩
  | profileWrite h n p v => exact ⟨_, rfl, good_req g (calm_profileWrite n p v)⟩
  | profileRead h n => exact ⟨_, rfl, good_req g fun e => by rw [Ev.profileRead_st]; exact .refl _⟩
  | liftSet h x => exact ⟨_, rfl, good_req g (calm_liftSet x)⟩
  | sequence h p q => exact ⟨_, rfl, good_req g (calm_sequence p q)⟩
  | faultClear h n => exact ⟨_, rfl, good_req g (calm_faultClear n)⟩
  | configRead h n => exact ⟨_, rfl, good_req g fun e => by rw [Ev.configRead_st]; exact .refl _⟩
  | configWrite h n v => exact ⟨_, rfl, good_request g (good_configWrite n v)⟩
  | store h =>
    refine ⟨_, rfl, good_req g fun e => ?_⟩
    unfold Ev.storeSettings
    split
    · exact .refl _
    · exact .aside
  | heightSet h a => exact ⟨_, rfl, good_req g (calm_heightSet h.sender a)⟩
  | heightAuthorityTake h x =>
    refine ⟨_, rfl, good_req g fun e => ?_⟩
    unfold Ev.authorityTake
    split
    · exact .refl _
    · split
      · exact .aside
      · exact .refl _
  | heightAuthorityRelease h => exact ⟨_, rfl, good_req g fun e => .ite .aside⟩
  | rideReturn h => exact ⟨_, rfl, good_req g (calm_rideReturn h.sender)⟩
  | vehicleData h v b x => exact ⟨_, rfl, good_request g (good_vehicleData v b x)⟩
  | panelAlive h => exact ⟨_, rfl, good_req g fun e => .refl _⟩
  | cancel h x k n => exact ⟨_, rfl, good_req g fun e => .of_fixed (quiet_cancel h.sender x k n e) (by simp)⟩
  | stop h => exact ⟨_, rfl, good_request g (good_stopAll h.sender)⟩
  | resume h => exact ⟨_, rfl, good_request g fun e ge => good_setStop _ e ge (put_false_occ _ _)⟩
  | statusRead h =>
    refine ⟨_, rfl, ?_⟩
    split
    · exact g
    · dsimp only
      split
      · exact good_close (good_receive g)
      · exact good_readStatus _ h (good_receive g)
  | maskSet h x =>
    refine ⟨_, rfl, good_req g fun e => ?_⟩
    unfold Ev.maskSet
    split
    · exact .refl _
    · exact .aside
  | testEvent h => exact ⟨_, rfl, good_req g fun e => .aside⟩

/-- Settles O5: a safe state is a good one (`good_iff`), and every command keeps a good state good. -/
theorem safeKept : Obligations.SafeKept := by
  intro s t safe stepped
  refine (good_iff t).mp (step_keeps (P := Good) ?_ ?_ good_exec ((good_iff s).mpr safe) stepped)
  · exact fun s q g => Calm.good .aside g
  · exact fun s g => Calm.good .aside g

end Sys2Proof.Machine
end

section
/-! SUPPORT. What an update of the vehicle state record writes among the fixed fields: each block's part as a function of those fields (R21 to
R25, R34, R49, R106, R109), and their composition. -/

set_option Elab.async false

namespace Sys2Proof.Machine

/-- The guard and its timers after an update of the record, by the table of R34. -/
def Fixed.guarded (f : Fixed) : Fixed :=
  let keep (t : Timer) (ms : Nat) : Timer := if t.isSome then t else some ⟨f.now, ms⟩
  { f with guard :=
      if f.guard.on then
        { f.guard with
          underT := if f.vehicle.speedState = .unknown ∨ f.vehicle.above f.sts.ws.guardSpeed = true then none
            else keep f.guard.underT underSpeedTime }
      else if f.vehicle.speedState = .unknown then ⟨true, none, none⟩
      else { f.guard with overT := if f.vehicle.above f.sts.ws.guardSpeed then keep f.guard.overT overSpeedTime else none } }

/-- The fixed fields once height authority has lapsed (R109). -/
def Fixed.lapsed (f : Fixed) : Fixed := { f with holder := false, authT := if f.holder then none else f.authT }

/-- The forcing of ROAD where LOADING is left by a change away from STANDSTILL (R21). -/
def Fixed.forced (f : Fixed) (x : SpeedState) : Fixed :=
  if f.mode = .loading ∧ x ≠ .standstill then
    { f.lapsed with mode := .road, basis := .road, target := f.sts.ws.nominal .road }
  else f

/-- The decision on brake priority (R49). -/
def Fixed.braked (f : Fixed) : Fixed := { f with priority := priorityOf_ f.vehicle f.priority f.sts.ws.brakeMin }

/-- A change of the speed state at the height loop: authority lapses away from STANDSTILL (R109), and MOVING takes the nominal target
(R106). -/
def Fixed.sped (f : Fixed) (x : SpeedState) : Fixed :=
  { (if x = .standstill then f else f.lapsed) with target := if x = .moving then f.nominal else f.target }

/-- A new record through the blocks, in the order in which `Ev.vehicleUpdate` hands it on. -/
def Fixed.recorded (f : Fixed) (v : Vehicle) : Fixed :=
  let changed := v.speedState ≠ f.vehicle.speedState
  let known := ({ f with vehicle := v } : Fixed).guarded
  if changed then ((known.forced v.speedState).braked).sped v.speedState else known.braked

theorem State.timerKeep_eq (s : State) (t : Timer) (ms : Nat) :
    s.timerKeep t ms = if t.isSome then t else some ⟨s.now, ms⟩ := by cases t <;> rfl

theorem guardUpdate_guarded (e : Ev) : e.guardUpdate.st.fixed = e.st.fixed.guarded := by
  unfold Ev.guardUpdate
  simp only [State.timerKeep_eq]
  by_cases on : e.st.tgu.guard.on = true
  · rw [if_pos on]
    have above : (e.st.tgu.vehicle.speedState == .unknown || e.st.tgu.vehicle.above e.st.ws.guardSpeed) = true ↔
        e.st.fixed.vehicle.speedState = .unknown ∨ e.st.fixed.vehicle.above e.st.fixed.sts.ws.guardSpeed = true := by
      rw [Bool.or_eq_true, beq_iff_eq]; exact Iff.rfl
    have guarded : e.st.fixed.guarded = { e.st.fixed with guard := { e.st.fixed.guard with
        underT := if e.st.fixed.vehicle.speedState = .unknown ∨ e.st.fixed.vehicle.above e.st.fixed.sts.ws.guardSpeed = true then none
          else if e.st.tgu.guard.underT.isSome then e.st.tgu.guard.underT else some ⟨e.st.now, underSpeedTime⟩ } } :=
      congrArg (fun g => { e.st.fixed with guard := g }) (if_pos on)
    rw [guarded]
    split
    · next fast => rw [if_pos (above.mp fast)]; rfl
    · next slow => rw [if_neg (mt above.mpr slow)]; rfl
  · have guard : ¬ e.st.fixed.guard.on = true := on
    rw [if_neg on]
    simp only [Fixed.guarded, if_neg guard]
    by_cases unknown : e.st.tgu.vehicle.speedState = .unknown
    · have lost : e.st.fixed.vehicle.speedState = .unknown := unknown
      rw [if_pos unknown, if_pos lost, guardOn_fixed]
    · have present : ¬ e.st.fixed.vehicle.speedState = .unknown := unknown
      rw [if_neg unknown, if_neg present]
      split
      · next above => rw [if_pos (show e.st.fixed.vehicle.above e.st.fixed.sts.ws.guardSpeed = true from above)]; rfl
      · next above => rw [if_neg (show ¬ e.st.fixed.vehicle.above e.st.fixed.sts.ws.guardSpeed = true from above)]; rfl

theorem lapse_lapsed (e : Ev) : e.lapse.st.fixed = e.st.fixed.lapsed := by
  rw [Ev.lapse_fixed]
  unfold Fixed.lapsed State.fixed
  cases e.st.hlc.holder <;> rfl

theorem forceMode_forced (x : SpeedState) (e : Ev) : (e.forceMode x).st.fixed = e.st.fixed.forced x := by
  have lapsed : ((e.latch .modeForced []).lapse).st.fixed = e.st.fixed.lapsed := by
    rw [lapse_lapsed, Ev.latch_fixed]
  unfold Ev.forceMode Fixed.forced
  split
  · next h =>
    have ws : ((e.latch .modeForced []).lapse).st.ws = e.st.ws := congrArg (fun f => f.sts.ws) lapsed
    rw [if_pos (show e.st.fixed.mode = .loading ∧ x ≠ .standstill from h), changeMode_fixed, lapsed, ws]
    rfl
  · next h => rw [if_neg (show ¬ (e.st.fixed.mode = .loading ∧ x ≠ .standstill) from h)]

theorem heightSpeed_sped (x : SpeedState) (e : Ev) : (e.heightSpeed x).st.fixed = e.st.fixed.sped x := by
  have lapse : (if x = .standstill then e.on State.stopPersist else (e.on State.stopPersist).lapse).st.fixed =
      if x = .standstill then e.st.fixed else e.st.fixed.lapsed := by
    split
    · rfl
    · rw [lapse_lapsed, Ev.on_st, State.stopPersist_fixed]
  unfold Ev.heightSpeed Fixed.sped
  dsimp only
  generalize (if x = .standstill then e.on State.stopPersist else (e.on State.stopPersist).lapse) = e2 at *
  by_cases moving : x = .moving
  · rw [if_pos moving, if_pos moving, Ev.autoRideReturn_fixed, nominal_eq, lapse]
    split <;> rfl
  · rw [if_neg moving, if_neg moving, lapse]
    split <;> rfl

/-- Brake priority, the hold and the braking flag on a new record write brake priority alone. -/
theorem restrictions_braked (old : Vehicle) (e : Ev) :
    ((e.brakeDecision.holdUpdate old).brakingUpdate old).st.fixed = e.st.fixed.braked := by
  rw [Ev.brakingUpdate_fixed, Ev.holdUpdate_fixed, Ev.brakeDecision_fixed, nextPriority_eq]
  rfl

theorem vehicleUpdate_recorded (v : Vehicle) (e : Ev) : (e.vehicleUpdate v).st.fixed = e.st.fixed.recorded v := by
  have guard : (Ev.guardUpdate (e.on fun s => { s with tgu.vehicle := v })).st.fixed =
      ({ e.st.fixed with vehicle := v } : Fixed).guarded := guardUpdate_guarded _
  unfold Ev.vehicleUpdate Fixed.recorded
  dsimp only
  by_cases changed : v.speedState ≠ e.st.fixed.vehicle.speedState
  · have differs : (v.speedState != e.st.tgu.vehicle.speedState) = true := bne_iff_ne.mpr changed
    rw [if_pos differs, if_pos differs, if_pos changed, Ev.on_st, State.liftTimerTest_fixed, heightSpeed_sped, restrictions_braked,
      forceMode_forced, guard]
  · have same : ¬ (v.speedState != e.st.tgu.vehicle.speedState) = true := mt bne_iff_ne.mp changed
    rw [if_neg same, if_neg same, if_neg changed, restrictions_braked, guard]

/-- The loss of the brake link through the blocks. -/
theorem brakeLinkLost_recorded (e : Ev) :
    e.brakeLinkLost.st.fixed = ({ e.st.fixed with brakeOk := PerMaster.fill false } : Fixed).recorded e.st.tgu.vehicle.lost := by
  unfold Ev.brakeLinkLost
  rw [vehicleUpdate_recorded, Ev.latch_fixed]
  rfl

end Sys2Proof.Machine
end

section
/-! SUPPORT. What a command may write among the fixed fields, and that the transmit queues keep within their room: relations between the
states before and after that receiving a frame and closing an event carry, and one split over the commands. -/

set_option Elab.async false

namespace Sys2Proof.Machine

/-! ### Relations carried through an event -/

/-- A relation that holds along every run of the shared parts of an event: the receipt of a frame and the close. -/
structure Carried (R : State → State → Prop) : Prop where
  refl : ∀ s, R s s
  trans : ∀ {s t u}, R s t → R t u → R s u
  receive : ∀ s h c, R s (s.receive h c).1
  close : ∀ r (e : Ev), R e.st (e.close r)

variable {R : State → State → Prop}

theorem Carried.event (k : Carried R) {f : Ev → Ev} {s : State} (hf : ∀ e : Ev, R e.st (f e).st) : R s (Machine.event f s) := by
  unfold Machine.event
  split
  · exact k.refl s
  · exact k.trans (hf (Ev.of s)) (k.close none _)

theorem Carried.request (k : Carried R) {c : Instr} {h : Hdr} {code : Nat} {f : Ev → Ev × Answer} {ff : Answer → Bool}
    {s : State} (hf : ∀ e : Ev, R e.st (f e).1.st) : R s (Machine.request c h code f ff s) := by
  unfold Machine.request
  split
  · exact k.refl s
  · dsimp only
    split
    · exact k.trans (k.receive s h c) (k.close _ (Ev.of _))
    · exact k.trans (k.receive s h c) (k.trans (hf (Ev.of _)) (k.close _ _))

theorem Carried.port (k : Carried R) {f : State → State} {s : State} (hf : R s (f s)) : R s (portEvent f s) := by
  unfold portEvent
  split
  · exact k.refl s
  · exact hf

/-- A handler that runs only under a condition. -/
theorem Carried.ite (k : Carried R) {p : Prop} [Decidable p] {e e' : Ev} (h : R e.st e'.st) : R e.st (if p then e' else e).st := by
  split
  · exact h
  · exact k.refl _

/-- A frame of no request kind. -/
theorem Carried.unknown (k : Carried R) (h : Hdr) (kind : Byte) (s : State) :
    ∃ t, exec (.unknownRequest h kind) s = .next t ∧ R s t := by
  refine ⟨_, rfl, ?_⟩
  split
  · exact k.refl s
  · exact k.trans (k.receive s h _) (k.close _ (Ev.of _))

/-- STATUS_READ, from what its reply and its rearming carry. -/
theorem Carried.statusRead (k : Carried R) (h : Hdr) (s : State) (hr : ∀ s : State, R s (s.readStatus h)) :
    ∃ t, exec (.statusRead h) s = .next t ∧ R s t := by
  refine ⟨_, rfl, ?_⟩
  split
  · exact k.refl s
  · dsimp only
    split
    · exact k.trans (k.receive s h _) (k.close _ (Ev.of _))
    · exact k.trans (k.receive s h _) (hr _)

/-! ### Room in the queues (R148) -/

theorem dropPeriodic_length {α : Type} : ∀ {q q' : List (TxItem α)}, dropPeriodic q = some q' → queueLength q' ≤ queueLength q
  | [], _, h => by cases h
  | i :: q, q', h => by
    unfold dropPeriodic at h
    split at h
    · cases h
      simp [queueLength]
    · obtain ⟨r, hr, rfl⟩ := Option.map_eq_some_iff.mp h
      have shorter := dropPeriodic_length hr
      simpa [queueLength] using shorter

theorem shed_length {α : Type} (size need : Nat) : ∀ (n : Nat) (q : List (TxItem α)), queueLength (shed size need n q) ≤ queueLength q
  | 0, _ => le_rfl
  | n + 1, q => by
    unfold shed
    split
    · exact le_rfl
    · split
      · next q' dropped => exact (shed_length size need n q').trans (dropPeriodic_length dropped)
      · exact le_rfl

/-- An offer keeps a queue within its room. -/
theorem offer_bounded {α : Type} {size : Nat} {q : List (TxItem α)} (frames : List α) (p : Bool) (room : queueLength q ≤ size) :
    queueLength (offer size q frames p).1 ≤ size := by
  have shorter : queueLength (if p then q else shed size frames.length q.length q) ≤ size := by
    split
    · exact room
    · exact (shed_length _ _ _ _).trans room
  unfold offer
  dsimp only
  generalize (if p then q else shed size frames.length q.length q) = q' at shorter ⊢
  split
  · next fits => simpa [queueLength] using fits
  · exact shorter

theorem settleHead_length (s : State) : queueLength s.settleHead.lku.canTx = queueLength s.lku.canTx := by
  unfold State.settleHead
  split
  · next i q head =>
    split
    · simp [head, queueLength]
    · rfl
  · rfl

theorem settleHead_panelTx (s : State) : s.settleHead.lku.panelTx = s.lku.panelTx := by
  unfold State.settleHead
  split
  · split <;> rfl
  · rfl

theorem queuesBounded_enqueue {s : State} (b : QueuesBounded s) (m : OutMsg) : QueuesBounded (s.enqueue m).1 := by
  have fifo : (s.enqueue m).1.lku.fifo = s.lku.fifo := by rw [(queued_enqueue s m).link]
  refine ⟨fifo ▸ b.fifo, ?_, ?_⟩
  · unfold State.enqueue
    split
    · exact b.canTx
    · split
      · refine offer_bounded _ _ ?_
        split
        · exact (settleHead_length s).trans_le b.canTx
        · exact b.canTx
      · exact b.canTx
  · unfold State.enqueue
    split
    · exact offer_bounded _ _ b.panelTx
    · split
      · dsimp only
        split
        · exact (settleHead_panelTx s).symm ▸ b.panelTx
        · exact b.panelTx
      · exact b.panelTx

theorem queuesBounded_enqueueAll : ∀ (ms : List OutMsg) {s : State}, QueuesBounded s → QueuesBounded (s.enqueueAll ms)
  | [], _, b => b
  | m :: ms, _, b => queuesBounded_enqueueAll ms (queuesBounded_enqueue b m)

/-- The same link unit holds the same queues. -/
theorem QueuesBounded.of_lku {s t : State} (h : t.lku = s.lku) (b : QueuesBounded s) : QueuesBounded t :=
  ⟨h ▸ b.fifo, h ▸ b.canTx, h ▸ b.panelTx⟩

theorem queuesBounded_close (r : Option OutMsg) {e : Ev} (b : QueuesBounded e.st) : QueuesBounded (e.close r) :=
  queuesBounded_enqueueAll _ (b.of_lku (congrArg Fixed.lku (e.scans_fixed scanBound)))

theorem queuesBounded_receive {s : State} (b : QueuesBounded s) (h : Hdr) (c : Instr) : QueuesBounded (s.receive h c).1 := by
  have taken : QueuesBounded (s.takeFrame h.sender c).1 := by
    unfold State.takeFrame
    split
    · split
      · split
        · exact ⟨b.fifo, b.canTx, b.panelTx⟩
        · exact b
      · exact b
    · split
      · next fifo =>
        split
        · have longer := b.fifo
          rw [fifo, List.length_cons] at longer
          exact ⟨Nat.le_of_succ_le longer, b.canTx, b.panelTx⟩
        · exact b
      · exact b
  unfold State.receive
  dsimp only
  split
  · exact ⟨taken.fifo, taken.canTx, taken.panelTx⟩
  · exact taken

theorem sentHead_length {α : Type} (q : List (TxItem α)) : queueLength (sentHead q) ≤ queueLength q := by
  unfold sentHead
  split
  · exact le_rfl
  · split
    · next frames => simp [queueLength, frames]
    · simp [queueLength]

theorem beginHead_length {α : Type} (q : List (TxItem α)) : queueLength (beginHead q) = queueLength q := by
  cases q <;> rfl

/-! ### The fixed fields that a command leaves alone -/

/-- The fixed fields that a command leaves alone: the link unit and every field that the command may write are held at what they are in
RESET. -/
def Fixed.outside (c : Instr) (f : Fixed) : Fixed :=
  let z := State.reset.fixed
  let f := { f with lku := z.lku, freeCount := z.freeCount }
  match c with
  | .resetAssert => { z with sts.image := f.sts.image, now := f.now, pending := f.pending }
  | .start => { z with sts.image := f.sts.image, now := f.now, pending := f.pending }
  | .pressureArrival .. =>
    { f with msu := z.msu, sts.phase := z.sts.phase, reported := z.reported, supply := z.supply, recovery := z.recovery, load := z.load,
             fresh := z.fresh, lftSeen := z.lftSeen, stateT := z.stateT, nodesT := z.nodesT, loadT := z.loadT }
  | .heightArrival .. =>
    { f with msu := z.msu, sts.phase := z.sts.phase, recounts := z.recounts, stateT := z.stateT, nodesT := z.nodesT, loadT := z.loadT }
  | .overSpeedExpiry => { f with guard := z.guard }
  | .underSpeedExpiry => { f with guard := z.guard }
  | .brakeSilenceExpiry =>
    { f with vehicle := z.vehicle, guard := z.guard, mode := z.mode, basis := z.basis, target := z.target, holder := z.holder,
             authT := z.authT, priority := z.priority, brakeOk := z.brakeOk }
  | .panelSilenceExpiry => { f with stop := z.stop, holder := z.holder, authT := z.authT }
  | .panelAuthorityExpiry => { f with holder := z.holder, authT := z.authT }
  | .freshnessExpiry _ => { f with fresh := z.fresh }
  | .supplyWindowExpiry => { f with supply := z.supply, recovery := z.recovery, supplyOk := z.supplyOk }
  | .storeWriteEnd => { f with sts.image := z.sts.image, sts.writing := z.sts.writing }
  | .statePeriod => { f with stateT := z.stateT }
  | .nodesPeriod => { f with nodesT := z.nodesT }
  | .loadPeriod => { f with loadT := z.loadT }
  | .modeSet .. => { f with mode := z.mode, basis := z.basis, target := z.target }
  | .tyreSet .. => { f with overrides := z.overrides }
  | .tyreSetClear .. => { f with overrides := z.overrides }
  | .profileWrite .. => { f with sts.ws := z.sts.ws }
  | .liftSet .. => { f with setting := z.setting }
  | .configWrite .. => { f with sts.ws := z.sts.ws, priority := z.priority }
  | .store _ => { f with sts.image := z.sts.image, sts.writing := z.sts.writing }
  | .heightSet .. => { f with target := z.target, authT := z.authT }
  | .heightAuthorityTake .. => { f with holder := z.holder, authT := z.authT }
  | .heightAuthorityRelease _ => { f with holder := z.holder, authT := z.authT }
  | .rideReturn _ => { f with target := z.target }
  | .vehicleData .. =>
    { f with vehicle := z.vehicle, guard := z.guard, mode := z.mode, basis := z.basis, target := z.target, holder := z.holder,
             authT := z.authT, priority := z.priority }
  | .stop _ => { f with stop := z.stop }
  | .resume _ => { f with stop := z.stop }
  | .statusRead _ => { f with supplyOk := z.supplyOk, brakeOk := z.brakeOk }
  | .maskSet .. => { f with masks := z.masks }
  | _ => f

/-- The change a command may make: no fixed field outside its own, and the queues kept within their room. -/
structure Within (c : Instr) (s t : State) : Prop where
  fixed : t.fixed.outside c = s.fixed.outside c
  queues : QueuesBounded s → QueuesBounded t

/-- A change whose fixed fields are known, with the link unit left alone. -/
theorem Within.of_fixed {c : Instr} {s t : State} {f : Fixed} (h : t.fixed = f)
    (out : f.outside c = s.fixed.outside c := by rfl) (link : f.lku = s.lku := by rfl) : Within c s t where
  fixed := h ▸ out
  queues b := b.of_lku ((congrArg Fixed.lku h).trans link)

/-- A change of the link unit whose queues are known. -/
theorem Within.of_link {c : Instr} {s t : State} (out : t.fixed.outside c = s.fixed.outside c) (b : QueuesBounded s → QueuesBounded t) :
    Within c s t := ⟨out, b⟩

/-- The link unit and the counter of the free value are outside no command's frame. -/
theorem outside_link {c : Instr} {s t : State} {l : Lku} {n : Nat} (h : t.fixed = { s.fixed with lku := l, freeCount := n }) :
    t.fixed.outside c = s.fixed.outside c := by
  rw [h]; cases c <;> rfl

theorem carried_within (c : Instr) : Carried (Within c) where
  refl _ := ⟨rfl, id⟩
  trans h k := ⟨k.fixed.trans h.fixed, fun b => k.queues (h.queues b)⟩
  receive s h x := ⟨outside_link (receive_fixed s h x), fun b => queuesBounded_receive b h x⟩
  close r e := ⟨outside_link (close_fixed r e), queuesBounded_close r⟩

theorem within_endRound {c : Instr} (arrival : (∃ n x, c = .pressureArrival n x) ∨ ∃ sd x, c = .heightArrival sd x) (s : State) :
    Within c s s.endRound := by
  unfold State.endRound
  obtain ⟨n, x, rfl⟩ | ⟨sd, x, rfl⟩ := arrival
  · split
    · split <;> exact .of_fixed rfl
    · exact .of_fixed rfl
  · split
    · split <;> exact .of_fixed rfl
    · exact .of_fixed rfl

theorem within_pressure (n : Node) (x : Sample) (e : Ev) :
    Within (.pressureArrival n x) e.st (((e.on fun s => s.takePressure n x).pressureReceivers n).on State.endRound).st := by
  obtain ⟨_, _, _, _, _, _, received⟩ := pressureReceivers_fixed n (e.on fun s => s.takePressure n x)
  exact (carried_within _).trans (.of_fixed received) (within_endRound (.inl ⟨n, x, rfl⟩) _)

theorem within_height (sd : Side) (x : Sample) (v r : Bool) (e : Ev) :
    Within (.heightArrival sd x) e.st (((e.on fun s => s.takeHeight sd x).heightReceivers sd v r).on State.endRound).st := by
  obtain ⟨_, received⟩ := heightReceivers_fixed sd v r (e.on fun s => s.takeHeight sd x)
  exact (carried_within _).trans (.of_fixed received) (within_endRound (.inr ⟨sd, x, rfl⟩) _)

/-- A panel whose HEIGHT_SET is not refused holds the authority (R105), so that its taking of it changes the timer alone (R108). -/
theorem heightRefusal_holder {s : State} (accepted : s.heightRefusal .panel = none) : s.hlc.holder = true := by
  unfold State.heightRefusal at accepted
  split at accepted
  · cases accepted
  · next held => simpa using held

theorem takeAuthority_fixed (s : State) :
    s.takeAuthority.fixed = { s.fixed with holder := true, authT := s.timer authorityTime } := rfl

theorem heightSet_fixed_held (m : Master) (a : HeightArg) (e : Ev) :
    ∃ x k, (Ev.heightSet m a e).1.st.fixed = { e.st.fixed with target := x, authT := k } := by
  unfold Ev.heightSet
  split
  · exact ⟨_, _, rfl⟩
  · split
    · exact ⟨_, _, rfl⟩
    · next v _ _ accepted =>
      obtain ⟨x, asked⟩ := Ev.requestTarget_fixed m (clamp hMin hMax v).1 (clamp hMin hMax v).2 e
      dsimp only
      split
      · exact ⟨_, _, asked⟩
      · split
        · next panel =>
          have holder : e.st.fixed.holder = true := heightRefusal_holder (panel ▸ accepted)
          exact ⟨x, _, by rw [Ev.on_st, takeAuthority_fixed, asked, ← holder]⟩
        · exact ⟨_, _, asked⟩

theorem within_readStatus (h : Hdr) (s : State) : Within (.statusRead h) s (s.readStatus h) := by
  have rearmed : ∀ u : State, Within (.statusRead h) u (u.rearm h.sender) := fun _ => .of_fixed rfl
  have queued : Within (.statusRead h) s (s.enqueue (s.statusReply h)).1 :=
    ⟨outside_link (queued_enqueue s _).fixed, fun b => queuesBounded_enqueue b _⟩
  unfold State.readStatus
  split
  · exact rearmed s
  · dsimp only
    split
    · exact (carried_within _).trans queued (rearmed _)
    · exact queued

theorem within_start (s : State) : Within .start s s.start := by
  have begun : Within .start s
      (State.startValues .starting (loadImage s.sts.image).1 (startTargets (loadImage s.sts.image).1) s.sts.image s.now s.freeCount
        s.pending) :=
    ⟨rfl, fun _ => ⟨Nat.zero_le _, Nat.zero_le _, Nat.zero_le _⟩⟩
  unfold State.start
  refine (carried_within _).trans begun ?_
  dsimp only
  split
  · refine (carried_within .start).trans ?_ ((carried_within .start).close none _)
    exact .of_fixed (Ev.latch_fixed _ _ _)
  · exact (carried_within .start).close none (Ev.of _)

/-! ### The ports -/

theorem within_busIdle (s : State) : Within .busIdle s s.busIdle := by
  unfold State.busIdle
  split
  · exact ⟨rfl, fun b => ⟨b.fifo, b.canTx, b.panelTx⟩⟩
  · exact ⟨rfl, fun b => ⟨b.fifo, b.canTx, b.panelTx⟩⟩
  · exact ⟨rfl, id⟩

theorem within_busOff (s : State) : Within .busOff s s.busOff := by
  unfold State.busOff
  split
  · exact ⟨rfl, fun b => ⟨Nat.zero_le _, Nat.zero_le _, b.panelTx⟩⟩
  · exact ⟨rfl, id⟩

theorem within_canReceive (f : CanFrame) (s : State) : Within (.canFrameReceived f) s (s.canReceive f) := by
  unfold State.canReceive
  split
  · split
    · split
      · next room =>
        refine ⟨rfl, fun b => ⟨?_, b.canTx, b.panelTx⟩⟩
        simpa using room
      · exact ⟨rfl, id⟩
    · exact ⟨rfl, id⟩
  · exact ⟨rfl, id⟩

theorem within_canSent (s : State) : Within .canFrameSent s s.canSent := by
  unfold State.canSent
  split
  · exact ⟨rfl, fun b => ⟨b.fifo, (sentHead_length _).trans b.canTx, b.panelTx⟩⟩
  · exact ⟨rfl, id⟩

theorem within_canRetry (s : State) : Within .canTransmitRetry s s.canRetry := by
  unfold State.canRetry
  split
  · exact ⟨rfl, fun b => ⟨b.fifo, (beginHead_length _).trans_le b.canTx, b.panelTx⟩⟩
  · exact ⟨rfl, id⟩

theorem within_panelByte (b : Byte) (x : Bool) (s : State) : Within (.panelByteReceived b x) s (s.panelByte b x) := by
  unfold State.panelByte
  split <;> exact ⟨rfl, fun b => ⟨b.fifo, b.canTx, b.panelTx⟩⟩

theorem within_panelSend (s : State) : Within .panelSendStart s s.panelSend := by
  unfold State.panelSend
  split
  · exact ⟨rfl, fun b => ⟨b.fifo, b.canTx, (beginHead_length _).trans_le b.panelTx⟩⟩
  · exact ⟨rfl, id⟩

theorem within_panelSent (s : State) : Within .panelFrameSent s s.panelSent := by
  unfold State.panelSent
  split
  · exact ⟨rfl, fun b => ⟨b.fifo, b.canTx, (sentHead_length _).trans b.panelTx⟩⟩
  · exact ⟨rfl, id⟩

/-! ### The commands -/

theorem within_brakeLinkLost (e : Ev) : Within .brakeSilenceExpiry e.st e.brakeLinkLost.st := by
  obtain ⟨_, _, _, _, _, _, lost⟩ := brakeLinkLost_fixed e
  exact .of_fixed lost

theorem within_vehicleData (h : Hdr) (v b : Byte) (x : Half) (e : Ev) : Within (.vehicleData h v b x) e.st (e.vehicleData v b x).1.st := by
  obtain ⟨_, _, _, _, _, _, _, _, _, taken⟩ := Ev.vehicleData_fixed v b x e
  refine ⟨by rw [taken]; rfl, fun q => ?_⟩
  have link := congrArg Fixed.lku taken
  exact ⟨(congrArg Lku.fifo link).symm ▸ q.fifo, (congrArg Lku.canTx link).symm ▸ q.canTx, (congrArg Lku.panelTx link).symm ▸ q.panelTx⟩

theorem within_panelLinkLost (e : Ev) : Within .panelSilenceExpiry e.st e.panelLinkLost.st := by
  have lost := Ev.panelLinkLost_fixed e
  refine ⟨by rw [lost]; rfl, fun q => ?_⟩
  have link := congrArg Fixed.lku lost
  exact ⟨(congrArg Lku.fifo link).symm ▸ q.fifo, (congrArg Lku.canTx link).symm ▸ q.canTx, (congrArg Lku.panelTx link).symm ▸ q.panelTx⟩

theorem within_lapse (e : Ev) : Within .panelAuthorityExpiry e.st e.lapse.st := by
  refine .of_fixed (lapse_lapsed e)

theorem within_supplyExpiry (e : Ev) : Within .supplyWindowExpiry e.st e.supplyExpiry.st := by
  unfold Ev.supplyExpiry
  split
  · exact .of_fixed (Ev.latch_fixed _ _ _)
  · exact .of_fixed rfl

theorem within_endWrite (s : State) : Within .storeWriteEnd s s.endWrite := by
  unfold State.endWrite
  split <;> exact .of_fixed rfl

theorem within_stretchEnd (s : State) : Within .stretchExpiry s s.stretchEnd := by
  unfold State.stretchEnd
  split <;> exact .of_fixed rfl

/-- Every command has a next state, with no fixed field changed but those that it may write and the queues within their room. -/
theorem within_exec (c : Instr) (s : State) : ∃ t, exec c s = .next t ∧ Within c s t := by
  have k := carried_within c
  cases c with
  | resetAssert => exact ⟨_, rfl, rfl, fun _ => ⟨Nat.zero_le _, Nat.zero_le _, Nat.zero_le _⟩⟩
  | start => exact ⟨_, rfl, within_start s⟩
  | pressureArrival n x => exact ⟨_, rfl, k.event fun e => within_pressure n x _⟩
  | heightArrival sd x => exact ⟨_, rfl, k.event fun e => within_height sd x _ _ _⟩
  | openTimerExpiry g => exact ⟨_, rfl, k.event fun e => .of_fixed (State.openExpiry_fixed e.st g)⟩
  | stepTimeout g => exact ⟨_, rfl, k.event fun e => .of_fixed (State.stepExpiry_fixed e.st g)⟩
  | closeTimerExpiry g => exact ⟨_, rfl, k.event fun e => .of_fixed (Ev.closeExpiry_fixed g _)⟩
  | settleExpiry g => exact ⟨_, rfl, k.event fun e => .of_fixed (Ev.settleExpiry_fixed g _)⟩
  | tyrePersistenceExpiry t => exact ⟨_, rfl, k.event fun e => k.ite (.of_fixed (Ev.tyreExpiry_fixed t _))⟩
  | heightPersistenceExpiry => exact ⟨_, rfl, k.event fun e => k.ite (.of_fixed (Ev.heightExpiry_fixed _))⟩
  | overSpeedExpiry => exact ⟨_, rfl, k.event fun e => k.ite (.of_fixed (guardOn_fixed _))⟩
  | underSpeedExpiry => exact ⟨_, rfl, k.event fun e => k.ite (.of_fixed (guardOff_fixed _))⟩
  | brakeSilenceExpiry =>
    have stopped : ∀ s, Within .brakeSilenceExpiry s { s with lku.brakeSilence := none } :=
      fun _ => ⟨rfl, fun b => ⟨b.fifo, b.canTx, b.panelTx⟩⟩
    exact ⟨_, rfl, k.event fun e => k.ite <| k.trans (stopped e.st)
      (k.ite (e := e.on fun s => { s with lku.brakeSilence := none }) (within_brakeLinkLost _))⟩
  | panelSilenceExpiry =>
    have stopped : ∀ s, Within .panelSilenceExpiry s { s with lku.panelSilence := none } :=
      fun _ => ⟨rfl, fun b => ⟨b.fifo, b.canTx, b.panelTx⟩⟩
    exact ⟨_, rfl, k.event fun e => k.ite <| k.trans (stopped e.st)
      (k.ite (e := e.on fun s => { s with lku.panelSilence := none }) (within_panelLinkLost _))⟩
  | panelAuthorityExpiry => exact ⟨_, rfl, k.event fun e => k.ite (k.trans (.of_fixed rfl) (within_lapse _))⟩
  | stretchExpiry => exact ⟨_, rfl, k.event fun e => within_stretchEnd e.st⟩
  | freshnessExpiry sd => exact ⟨_, rfl, k.event fun e => .of_fixed rfl⟩
  | liftTimerExpiry => exact ⟨_, rfl, k.event fun e => k.ite (.of_fixed (Ev.aimTo_fixed true _))⟩
  | snapshotExpiry w => exact ⟨_, rfl, k.event fun e => k.ite (.of_fixed (State.snapshot_fixed e.st w))⟩
  | windowExpiry w => exact ⟨_, rfl, k.event fun e => k.ite (.of_fixed (Ev.windowEnd_fixed w _))⟩
  | supplyWindowExpiry => exact ⟨_, rfl, k.event fun e => k.ite (within_supplyExpiry _)⟩
  | storeWriteEnd => exact ⟨_, rfl, k.event fun e => within_endWrite e.st⟩
  | statePeriod => exact ⟨_, rfl, k.event fun e => k.ite (.of_fixed rfl)⟩
  | nodesPeriod => exact ⟨_, rfl, k.event fun e => k.ite (.of_fixed rfl)⟩
  | loadPeriod => exact ⟨_, rfl, k.event fun e => k.ite (.of_fixed rfl)⟩
  | busIdle => exact ⟨_, rfl, k.port (within_busIdle s)⟩
  | busOff => exact ⟨_, rfl, k.port (within_busOff s)⟩
  | canFrameReceived f => exact ⟨_, rfl, k.port (within_canReceive f s)⟩
  | canFrameSent => exact ⟨_, rfl, k.port (within_canSent s)⟩
  | canTransmitRetry => exact ⟨_, rfl, k.port (within_canRetry s)⟩
  | panelByteReceived b x => exact ⟨_, rfl, k.port (within_panelByte b x s)⟩
  | panelGapTimeout => exact ⟨_, rfl, k.port (f := State.panelGap) ⟨rfl, fun b => ⟨b.fifo, b.canTx, b.panelTx⟩⟩⟩
  | panelSendStart => exact ⟨_, rfl, k.port (within_panelSend s)⟩
  | panelFrameSent => exact ⟨_, rfl, k.port (within_panelSent s)⟩
  | unknownRequest h kind => exact k.unknown h kind s
  | modeSet h m => exact ⟨_, rfl, k.request fun e => have ⟨_, _, _, x⟩ := Ev.modeSet_fixed m e; .of_fixed x⟩
  | tyreSet h n f v => exact ⟨_, rfl, k.request fun e => have ⟨_, x⟩ := Ev.tyreSet_fixed n f v e; .of_fixed x⟩
  | tyreSetClear h n v => exact ⟨_, rfl, k.request fun e => have ⟨_, x⟩ := Ev.tyreSetClear_fixed n v e; .of_fixed x⟩
  | profileWrite h n p v => exact ⟨_, rfl, k.request fun e => have ⟨_, x⟩ := Ev.profileWrite_fixed n p v e; .of_fixed x⟩
  | profileRead h n => exact ⟨_, rfl, k.request fun e => by rw [Ev.profileRead_st]; exact k.refl _⟩
  | liftSet h x => exact ⟨_, rfl, k.request fun e => have ⟨_, y⟩ := Ev.liftSet_fixed x e; .of_fixed y⟩
  | sequence h p q => exact ⟨_, rfl, k.request fun e => .of_fixed (Ev.sequence_fixed p q e)⟩
  | faultClear h n => exact ⟨_, rfl, k.request fun e => .of_fixed (Ev.faultClear_fixed n e)⟩
  | configRead h n => exact ⟨_, rfl, k.request fun e => by rw [Ev.configRead_st]; exact k.refl _⟩
  | configWrite h n v => exact ⟨_, rfl, k.request fun e => have ⟨_, _, x⟩ := Ev.configWrite_fixed n v e; .of_fixed x⟩
  | store h => exact ⟨_, rfl, k.request fun e => have ⟨_, _, x⟩ := Ev.storeSettings_fixed e; .of_fixed x⟩
  | heightSet h a => exact ⟨_, rfl, k.request fun e => have ⟨_, _, x⟩ := heightSet_fixed_held h.sender a e; .of_fixed x⟩
  | heightAuthorityTake h v => exact ⟨_, rfl, k.request fun e => have ⟨_, _, x⟩ := Ev.authorityTake_fixed v e; .of_fixed x⟩
  | heightAuthorityRelease h => exact ⟨_, rfl, k.request fun e => have ⟨_, x⟩ := Ev.authorityRelease_fixed e; .of_fixed x⟩
  | rideReturn h => exact ⟨_, rfl, k.request fun e => have ⟨_, x⟩ := Ev.rideReturn_fixed h.sender e; .of_fixed x⟩
  | vehicleData h v b x => exact ⟨_, rfl, k.request fun e => within_vehicleData h v b x e⟩
  | panelAlive h => exact ⟨_, rfl, k.request fun e => k.refl e.st⟩
  | cancel h x y n => exact ⟨_, rfl, k.request fun e => .of_fixed (Ev.cancel_fixed h.sender x y n e)⟩
  | stop h => exact ⟨_, rfl, k.request fun e => .of_fixed (Ev.stopAll_fixed h.sender e)⟩
  | resume h => exact ⟨_, rfl, k.request fun e => .of_fixed (Ev.resume_fixed h.sender e)⟩
  | statusRead h => exact k.statusRead h s (within_readStatus h)
  | maskSet h x =>
    exact ⟨_, rfl, k.request fun e => have ⟨_, y⟩ := Ev.maskSet_fixed h.sender x e; y.elim (.of_fixed ·) (.of_fixed ·)⟩
  | testEvent h => exact ⟨_, rfl, k.request fun e => .of_fixed (Ev.latchTest_fixed h.sender e)⟩

end Sys2Proof.Machine
end

section
/-! SUPPORT. What follows from the frame of every command: it completes, it acts in RESET as R170 says, and a field changes only by the
commands that the rules name. -/

set_option Elab.async false

namespace Sys2Proof.Machine

/-! ### The step -/

/-- Settles O1. -/
theorem stepRunsFront : Obligations.StepRunsFront :=
  ⟨fun _ _ _ front => by unfold step; rw [front], fun _ empty => by simp only [step, empty, State.tick]⟩

/-- While the reset line is asserted every command but START and RESET_ASSERT leaves the state (R170): each is taken under that test. -/
theorem exec_reset {c : Instr} {s : State} (r : s.sts.phase = .reset) (noStart : c ≠ .start) (noReset : c ≠ .resetAssert) :
    exec c s = .next s := by
  cases c with
  | resetAssert => exact absurd rfl noReset
  | start => exact absurd rfl noStart
  | _ => exact congrArg Host.Outcome.next (if_pos r)

theorem outside_pending (c : Instr) (f : Fixed) : (f.outside c).pending = f.pending := by cases c <;> rfl

theorem outside_now (c : Instr) (f : Fixed) : (f.outside c).now = f.now := by cases c <;> rfl

theorem Within.pending {c : Instr} {s t : State} (w : Within c s t) : t.pending = s.pending := by
  have kept := congrArg Fixed.pending w.fixed
  rwa [outside_pending, outside_pending] at kept

theorem Within.now {c : Instr} {s t : State} (w : Within c s t) : t.now = s.now := by
  have kept := congrArg Fixed.now w.fixed
  rwa [outside_now, outside_now] at kept

/-- Settles O2: the frame of the command gives the queue and the clock, and in RESET the command is not taken. -/
theorem everyCommandCompletes : Obligations.EveryCommandCompletes := by
  intro c s
  obtain ⟨t, ran, within⟩ := within_exec c s
  refine ⟨t, ran, within.pending, within.now, fun r noStart noReset => ?_⟩
  rw [exec_reset r noStart noReset] at ran
  cases ran
  rfl

/-- Settles O8. -/
theorem queuesBoundedKept : Obligations.QueuesBoundedKept := by
  intro s t bounded stepped
  refine step_keeps (P := QueuesBounded) ?_ ?_ (fun c s b => ?_) bounded stepped
  · exact fun _ _ b => ⟨b.fifo, b.canTx, b.panelTx⟩
  · exact fun _ b => ⟨b.fifo, b.canTx, b.panelTx⟩
  · obtain ⟨t, ran, within⟩ := within_exec c s
    exact ⟨t, ran, within.queues b⟩

/-- The frame holds of whatever a command ends in. -/
theorem within_of_exec {c : Instr} {s t : State} (ran : exec c s = .next t) : Within c s t := by
  obtain ⟨u, ran', within⟩ := within_exec c s
  rw [ran] at ran'
  cases ran'
  exact within

/-! ### Who changes what -/

section who

variable {c : Instr} {s t : State}

/-- RESET_ASSERT and START, which set every field. -/
abbrev Restart (c : Instr) : Prop := c = .resetAssert ∨ c = .start

theorem Within.mode (w : Within c s t) : t.tgu.mode = s.tgu.mode ∨
    Restart c ∨ c = .brakeSilenceExpiry ∨ (∃ h m, c = .modeSet h m) ∨ ∃ h v b g, c = .vehicleData h v b g := by
  cases c with
  | resetAssert => exact .inr (.inl (.inl rfl))
  | start => exact .inr (.inl (.inr rfl))
  | brakeSilenceExpiry => exact .inr (.inr (.inl rfl))
  | modeSet h m => exact .inr (.inr (.inr (.inl ⟨h, m, rfl⟩)))
  | vehicleData h v b g => exact .inr (.inr (.inr (.inr ⟨h, v, b, g, rfl⟩)))
  | _ => exact .inl (congrArg Fixed.mode w.fixed)

theorem Within.ws (w : Within c s t) : t.sts.ws = s.sts.ws ∨
    Restart c ∨ (∃ h n v, c = .configWrite h n v) ∨ ∃ h n p v, c = .profileWrite h n p v := by
  cases c with
  | resetAssert => exact .inr (.inl (.inl rfl))
  | start => exact .inr (.inl (.inr rfl))
  | configWrite h n v => exact .inr (.inr (.inl ⟨h, n, v, rfl⟩))
  | profileWrite h n p v => exact .inr (.inr (.inr ⟨h, n, p, v, rfl⟩))
  | _ => exact .inl (congrArg (fun f => f.sts.ws) w.fixed)

theorem Within.image (w : Within c s t) : t.sts.image = s.sts.image ∨ c = .storeWriteEnd ∨ ∃ h, c = .store h := by
  cases c with
  | storeWriteEnd => exact .inr (.inl rfl)
  | store h => exact .inr (.inr ⟨h, rfl⟩)
  | _ => exact .inl (congrArg (fun f => f.sts.image) w.fixed)

theorem Within.overrides (w : Within c s t) : t.tgu.overrides = s.tgu.overrides ∨
    Restart c ∨ (∃ h n f v, c = .tyreSet h n f v) ∨ ∃ h n v, c = .tyreSetClear h n v := by
  cases c with
  | resetAssert => exact .inr (.inl (.inl rfl))
  | start => exact .inr (.inl (.inr rfl))
  | tyreSet h n f v => exact .inr (.inr (.inl ⟨h, n, f, v, rfl⟩))
  | tyreSetClear h n v => exact .inr (.inr (.inr ⟨h, n, v, rfl⟩))
  | _ => exact .inl (congrArg Fixed.overrides w.fixed)

theorem Within.stop (w : Within c s t) : t.glc.stop = s.glc.stop ∨
    Restart c ∨ c = .panelSilenceExpiry ∨ (∃ h, c = .stop h) ∨ ∃ h, c = .resume h := by
  cases c with
  | resetAssert => exact .inr (.inl (.inl rfl))
  | start => exact .inr (.inl (.inr rfl))
  | panelSilenceExpiry => exact .inr (.inr (.inl rfl))
  | stop h => exact .inr (.inr (.inr (.inl ⟨h, rfl⟩)))
  | resume h => exact .inr (.inr (.inr (.inr ⟨h, rfl⟩)))
  | _ => exact .inl (congrArg Fixed.stop w.fixed)

theorem Within.masks (w : Within c s t) : t.evu.masks = s.evu.masks ∨ Restart c ∨ ∃ h m, c = .maskSet h m := by
  cases c with
  | resetAssert => exact .inr (.inl (.inl rfl))
  | start => exact .inr (.inl (.inr rfl))
  | maskSet h m => exact .inr (.inr ⟨h, m, rfl⟩)
  | _ => exact .inl (congrArg Fixed.masks w.fixed)

theorem Within.setting (w : Within c s t) : t.llu.setting = s.llu.setting ∨ Restart c ∨ ∃ h x, c = .liftSet h x := by
  cases c with
  | resetAssert => exact .inr (.inl (.inl rfl))
  | start => exact .inr (.inl (.inr rfl))
  | liftSet h x => exact .inr (.inr ⟨h, x, rfl⟩)
  | _ => exact .inl (congrArg Fixed.setting w.fixed)

theorem Within.msu (w : Within c s t) : t.msu = s.msu ∨
    Restart c ∨ (∃ n x, c = .pressureArrival n x) ∨ ∃ sd x, c = .heightArrival sd x := by
  cases c with
  | resetAssert => exact .inr (.inl (.inl rfl))
  | start => exact .inr (.inl (.inr rfl))
  | pressureArrival n x => exact .inr (.inr (.inl ⟨n, x, rfl⟩))
  | heightArrival sd x => exact .inr (.inr (.inr ⟨sd, x, rfl⟩))
  | _ => exact .inl (congrArg Fixed.msu w.fixed)

/-- The commands that give the authority up. -/
abbrev Releases (c : Instr) : Prop :=
  Restart c ∨ (∃ h, c = .heightAuthorityRelease h) ∨ c = .panelAuthorityExpiry ∨ c = .panelSilenceExpiry ∨ c = .brakeSilenceExpiry ∨
    ∃ h v b g, c = .vehicleData h v b g

theorem Within.holder (w : Within c s t) : t.hlc.holder = s.hlc.holder ∨ (∃ h x, c = .heightAuthorityTake h x) ∨ Releases c := by
  cases c with
  | resetAssert => exact .inr (.inr (.inl (.inl rfl)))
  | start => exact .inr (.inr (.inl (.inr rfl)))
  | heightAuthorityTake h x => exact .inr (.inl ⟨h, x, rfl⟩)
  | heightAuthorityRelease h => exact .inr (.inr (.inr (.inl ⟨h, rfl⟩)))
  | panelAuthorityExpiry => exact .inr (.inr (.inr (.inr (.inl rfl))))
  | panelSilenceExpiry => exact .inr (.inr (.inr (.inr (.inr (.inl rfl)))))
  | brakeSilenceExpiry => exact .inr (.inr (.inr (.inr (.inr (.inr (.inl rfl))))))
  | vehicleData h v b g => exact .inr (.inr (.inr (.inr (.inr (.inr (.inr ⟨h, v, b, g, rfl⟩))))))
  | _ => exact .inl (congrArg Fixed.holder w.fixed)

end who

/-- The fixed fields after a start are those of the start values around the working set that the image gives. -/
theorem start_fixed (s : State) : s.start.fixed =
    { (State.startValues .starting (loadImage s.sts.image).1 (startTargets (loadImage s.sts.image).1) s.sts.image s.now s.freeCount
        s.pending).fixed with lku := s.start.lku, freeCount := s.start.freeCount } := by
  unfold State.start
  dsimp only
  rw [close_fixed]
  split
  · rw [Ev.latch_fixed]; rfl
  · rfl

/-! ### Height authority is taken by TAKE alone (R107) -/

/-- Height authority is not taken. -/
def NotTaken (s t : State) : Prop := t.hlc.holder = true → s.hlc.holder = true

theorem NotTaken.of_fixed {s t : State} {f : Fixed} (h : t.fixed = f) (held : f.holder = true → s.hlc.holder = true) : NotTaken s t :=
  fun took => held ((congrArg Fixed.holder h).symm.trans took)

theorem carried_notTaken : Carried NotTaken where
  refl _ := id
  trans h k := fun took => h (k took)
  receive s h c := .of_fixed (receive_fixed s h c) id
  close r e := .of_fixed (close_fixed r e) id

theorem forced_holder {f : Fixed} {x : SpeedState} (h : (f.forced x).holder = true) : f.holder = true := by
  unfold Fixed.forced at h
  split at h
  · cases h
  · exact h

theorem sped_holder {f : Fixed} {x : SpeedState} (h : (f.sped x).holder = true) : f.holder = true := by
  unfold Fixed.sped at h
  split at h
  · exact h
  · cases h

/-- A new vehicle state record takes no authority (R106, R109). -/
theorem recorded_holder {f : Fixed} {v : Vehicle} (h : (f.recorded v).holder = true) : f.holder = true := by
  unfold Fixed.recorded at h
  dsimp only at h
  split at h
  · exact forced_holder (f := ({ f with vehicle := v } : Fixed).guarded) (x := v.speedState)
      (sped_holder (f := (Fixed.forced _ _).braked) h)
  · exact h

theorem notTaken_vehicleUpdate (v : Vehicle) (e : Ev) : NotTaken e.st (e.vehicleUpdate v).st :=
  .of_fixed (vehicleUpdate_recorded v e) recorded_holder

theorem notTaken_brakeLinkLost (e : Ev) : NotTaken e.st e.brakeLinkLost.st :=
  .of_fixed (brakeLinkLost_recorded e) fun h => recorded_holder (f := { e.st.fixed with brakeOk := PerMaster.fill false }) h

theorem notTaken_vehicleData (v b : Byte) (x : Half) (e : Ev) : NotTaken e.st (e.vehicleData v b x).1.st := by
  unfold Ev.vehicleData
  split
  · exact id
  · exact notTaken_vehicleUpdate _ (e.on _)

/-- A command that may give the authority up does not take it. -/
theorem notTaken_of_releases {c : Instr} {s t : State} (ran : exec c s = .next t) (r : Releases c) : NotTaken s t := by
  have k := carried_notTaken
  have next : ∀ {u : State}, NotTaken s u → (.next u : Outcome) = .next t → NotTaken s t := by
    rintro u kept ⟨⟩
    exact kept
  rcases r with (rfl | rfl) | ⟨h, rfl⟩ | rfl | rfl | rfl | ⟨h, v, b, g, rfl⟩
  · exact next (fun took => by cases took) ran
  · exact next (.of_fixed (start_fixed s) fun took => by cases took) ran
  · exact next (k.request fun e => .of_fixed (Ev.authorityRelease_fixed e).choose_spec fun took => by cases took) ran
  · exact next (k.event fun e => k.ite (.of_fixed (lapse_lapsed _) fun took => by cases took)) ran
  · exact next (k.event fun e => k.ite (k.ite (e := e.on fun s => { s with lku.panelSilence := none })
      (.of_fixed (Ev.panelLinkLost_fixed _) fun took => by cases took))) ran
  · exact next (k.event fun e => k.ite (k.ite (e := e.on fun s => { s with lku.brakeSilence := none })
      (notTaken_brakeLinkLost _))) ran
  · exact next (k.request fun e => notTaken_vehicleData v b g e) ran

/-- TAKE, which may give the authority, keeps one that is held. -/
theorem held_of_take {h : Hdr} {x : Byte} {s t : State} (ran : exec (.heightAuthorityTake h x) s = .next t)
    (held : s.hlc.holder = true) : t.hlc.holder = true := by
  have carried : Carried fun s t : State => s.hlc.holder = true → t.hlc.holder = true := {
    refl := fun _ => id
    trans := fun h k => k ∘ h
    receive := fun s h c => (congrArg Fixed.holder (receive_fixed s h c)).trans
    close := fun r e => (congrArg Fixed.holder (close_fixed r e)).trans }
  cases ran
  refine carried.request (fun e kept => ?_) held
  unfold Ev.authorityTake
  split
  · exact kept
  · split
    · rfl
    · exact kept

/-- Settles O10: a field that is not among those a command may write is kept. -/
theorem whoChangesWhat : Obligations.WhoChangesWhat := by
  intro c s t ran restart
  have w := within_of_exec ran
  refine ⟨w.mode.resolve_left, w.ws.resolve_left, w.image.resolve_left, w.overrides.resolve_left, w.stop.resolve_left,
    w.masks.resolve_left, w.setting.resolve_left, fun took free => ?_, fun freed held => ?_, w.msu.resolve_left⟩
  · rcases w.holder with same | take | releases
    · rw [same, free] at took
      cases took
    · exact take
    · have held := notTaken_of_releases ran releases took
      rw [free] at held
      cases held
  · rcases w.holder with same | ⟨h, x, rfl⟩ | releases
    · rw [same, held] at freed
      cases freed
    · rw [held_of_take ran held] at freed
      cases freed
    · exact releases

end Sys2Proof.Machine
end

section
/-! SUPPORT. The working set as a list of parameters: what `param` and `setParam` read and write in it, when a write keeps a working set
legal (R165), and the round trip of the stored image (R167, R169). -/

set_option Elab.async false

namespace Sys2Proof.Machine

/-! ### The parameters by number (section 11.1) -/

/-- Parameters 1 to 35 in the order of their numbers. -/
def Settings.params (w : Settings) : List Nat :=
  [w.volume.rsv, w.volume.bll, w.volume.blr, w.volume.lft, w.volume.t1l, w.volume.t1r, w.volume.t2l, w.volume.t2r, w.volume.t3l,
   w.volume.t3r, w.lf, w.hc, w.rated, w.floor, w.brakeMin, w.guardSpeed, w.guardFloor, w.ride, w.fieldOffset, w.liftBelow, w.lowerAbove,
   w.loadFollow.toNat, w.settle.tyre, w.settle.height, w.settle.lift, w.timeout.tyre, w.timeout.height, w.timeout.lift, w.maxSteps.tyre,
   w.maxSteps.height, w.maxSteps.lift, w.beaconStretch, w.ownAddr, w.cabAddr, w.brakeAddr]

/-- The numbers that the table of section 11.1 gives to a scheduler slot. -/
abbrev IsSlot (n : Nat) : Prop := 64 ≤ n ∧ n ≤ 79

/-- The other numbers of that table. -/
abbrev IsParam (n : Nat) : Prop := 1 ≤ n ∧ n ≤ 35

theorem Settings.params_length (w : Settings) : w.params.length = 35 := rfl

theorem Settings.param_eq_params (w : Settings) {n : Nat} (h : IsParam n) : w.param n = w.params[n - 1]? := by
  obtain ⟨low, high⟩ := h
  interval_cases n <;> rfl

theorem Settings.param_eq_slot (w : Settings) {n : Nat} (h : IsSlot n) : w.param n = some (w.slot (n - 64)).code := by
  obtain ⟨low, high⟩ := h
  interval_cases n <;> rfl

theorem Settings.param_eq_none (w : Settings) {n : Nat} (p : ¬ IsParam n) (s : ¬ IsSlot n) : w.param n = none := by
  unfold Settings.param
  split
  case h_36 => exact if_neg s
  all_goals omega

/-- A write of a numbered parameter replaces it in the list. -/
theorem Settings.setParam_params (w : Settings) {n v : Nat} (h : IsParam n) (flag : n = 22 → v ≤ 1) :
    (w.setParam n v).params = w.params.set (n - 1) v := by
  obtain ⟨low, high⟩ := h
  by_cases follow : n = 22
  · subst follow
    have value : (v == 1).toNat = v := by
      have small := flag rfl
      interval_cases v <;> rfl
    calc (w.setParam 22 v).params = w.params.set 21 (v == 1).toNat := rfl
      _ = w.params.set 21 v := by rw [value]
  · obtain before | after : n ≤ 21 ∨ 23 ≤ n := by omega
    · interval_cases n <;> rfl
    · interval_cases n <;> rfl

/-- It leaves slots and holding values alone. -/
theorem Settings.setParam_rest (w : Settings) {n : Nat} (v : Nat) (h : IsParam n) :
    (w.setParam n v).slots = w.slots ∧ (w.setParam n v).road = w.road ∧ (w.setParam n v).field = w.field := by
  obtain ⟨low, high⟩ := h
  interval_cases n <;> exact ⟨rfl, rfl, rfl⟩

/-- A write of a slot. -/
theorem Settings.setParam_slot (w : Settings) {n v : Nat} {c : Cls} (h : IsSlot n) (code : Cls.ofCode v = some c) :
    w.setParam n v = { w with slots := w.slots.set (n - 64) c } := by
  have unfolded : w.setParam n v = match Cls.ofCode v with
      | some c => { w with slots := w.slots.set (n - 64) c }
      | none => w := by
    obtain ⟨low, high⟩ := h
    interval_cases n <;> rfl
  rw [unfolded, code]

theorem clsOfCode_some {v : Nat} {c : Cls} (h : Cls.ofCode v = some c) : c.code = v := by
  unfold Cls.ofCode at h
  split at h <;> cases h <;> rfl

theorem clsOfCode_code (c : Cls) : Cls.ofCode c.code = some c := by cases c <;> rfl

/-- What check 1 of CONFIG_WRITE lets through (R165). -/
theorem paramEncodes_iff {n v : Nat} :
    paramEncodes n v = true ↔ (IsSlot n ∧ ∃ c, Cls.ofCode v = some c) ∨ (IsParam n ∧ (n = 22 → v ≤ 1)) := by
  unfold paramEncodes
  by_cases slot : IsSlot n
  · rw [if_pos slot, Option.isSome_iff_exists]
    have notParam : ¬ IsParam n := by omega
    exact ⟨fun h => .inl ⟨slot, h⟩, fun h => h.elim And.right fun p => absurd p.1 notParam⟩
  · rw [if_neg slot]
    by_cases follow : n = 22
    · rw [if_pos follow, decide_eq_true_eq]
      exact ⟨fun h => .inr ⟨follow ▸ by decide, fun _ => h⟩, fun h => h.elim (fun p => absurd p.1 slot) fun p => p.2 follow⟩
    · rw [if_neg follow, Bool.and_eq_true, decide_eq_true_eq, decide_eq_true_eq]
      exact ⟨fun h => .inr ⟨h, fun f => absurd f follow⟩, fun h => h.elim (fun p => absurd p.1 slot) And.left⟩

/-- A parameter that is written is read back. -/
theorem Settings.param_setParam_same (w : Settings) {n v : Nat} (enc : paramEncodes n v = true) (full : w.slots.length = 16) :
    (w.setParam n v).param n = some v := by
  rcases paramEncodes_iff.mp enc with ⟨slot, c, code⟩ | ⟨param, flag⟩
  · have inside : n - 64 < w.slots.length := by omega
    have written : ({ w with slots := w.slots.set (n - 64) c } : Settings).slot (n - 64) = c := by
      simp [Settings.slot, inside]
    rw [setParam_slot w slot code, param_eq_slot _ slot, written, clsOfCode_some code]
  · have inside : n - 1 < w.params.length := by rw [params_length]; omega
    rw [param_eq_params _ param, setParam_params w param flag, List.getElem?_set_self inside]

/-- No other parameter changes. -/
theorem Settings.param_setParam_ne (w : Settings) {n v k : Nat} (enc : paramEncodes n v = true) (ne : k ≠ n) :
    (w.setParam n v).param k = w.param k := by
  rcases paramEncodes_iff.mp enc with ⟨slot, c, code⟩ | ⟨param, flag⟩
  · rw [setParam_slot w slot code]
    by_cases kp : IsParam k
    · rw [param_eq_params _ kp, param_eq_params _ kp]
      rfl
    · by_cases ks : IsSlot k
      · have apart : n - 64 ≠ k - 64 := by omega
        have kept : ({ w with slots := w.slots.set (n - 64) c } : Settings).slot (k - 64) = w.slot (k - 64) := by
          simp [Settings.slot, apart]
        rw [param_eq_slot _ ks, param_eq_slot _ ks, kept]
      · rw [param_eq_none _ kp ks, param_eq_none _ kp ks]
  · by_cases kp : IsParam k
    · have apart : n - 1 ≠ k - 1 := by omega
      rw [param_eq_params _ kp, param_eq_params _ kp, setParam_params w param flag, List.getElem?_set_ne apart]
    · by_cases ks : IsSlot k
      · have kept : (w.setParam n v).slot (k - 64) = w.slot (k - 64) := by
          rw [Settings.slot, (setParam_rest w v param).1, Settings.slot]
        rw [param_eq_slot _ ks, param_eq_slot _ ks, kept]
      · rw [param_eq_none _ kp ks, param_eq_none _ kp ks]

/-- A write leaves the holding values alone. -/
theorem Settings.setParam_holding (w : Settings) {n v : Nat} (enc : paramEncodes n v = true) :
    (w.setParam n v).road = w.road ∧ (w.setParam n v).field = w.field := by
  rcases paramEncodes_iff.mp enc with ⟨slot, c, code⟩ | ⟨param, _⟩
  · rw [setParam_slot w slot code]
    exact ⟨rfl, rfl⟩
  · exact (setParam_rest w v param).2

theorem Settings.setParam_slots_length (w : Settings) {n v : Nat} (enc : paramEncodes n v = true) :
    (w.setParam n v).slots.length = w.slots.length := by
  rcases paramEncodes_iff.mp enc with ⟨slot, c, code⟩ | ⟨param, _⟩
  · rw [setParam_slot w slot code]
    exact List.length_set
  · rw [(setParam_rest w v param).1]

/-! ### Legal working sets -/

/-- Every holding value lies within 300 to 820 kPa (R26). -/
def Settings.HoldingLegal (w : Settings) : Prop :=
  ∀ u : Tyre, (tyreMin ≤ w.road.get u ∧ w.road.get u ≤ tyreMax) ∧ tyreMin ≤ w.field.get u ∧ w.field.get u ≤ tyreMax

theorem Settings.legal_iff {w : Settings} : w.legal = true ↔
    (∀ n, IsParam n → paramInRange n ((w.param n).getD 0) = true) ∧ w.slots.length = 16 ∧ w.related = true ∧ w.HoldingLegal := by
  have params : (List.range 35).all (fun i => paramInRange (i + 1) ((w.param (i + 1)).getD 0)) = true ↔
      ∀ n, IsParam n → paramInRange n ((w.param n).getD 0) = true := by
    rw [List.all_eq_true]
    refine ⟨fun h n ⟨low, high⟩ => ?_, fun h i small => h (i + 1) ⟨Nat.le_add_left 1 i, List.mem_range.mp small⟩⟩
    have at_ := h (n - 1) (List.mem_range.mpr (by omega))
    rwa [Nat.sub_add_cancel low] at at_
  have holding : Tyre.list.all (fun t => decide (tyreMin ≤ w.road.get t) && decide (w.road.get t ≤ tyreMax)
      && decide (tyreMin ≤ w.field.get t) && decide (w.field.get t ≤ tyreMax)) = true ↔ w.HoldingLegal := by
    have every : ∀ u : Tyre, u ∈ Tyre.list := fun u => by cases u <;> decide
    simp only [List.all_eq_true, Bool.and_eq_true, decide_eq_true_eq, Settings.HoldingLegal, and_assoc]
    exact ⟨fun h u => h u (every u), fun h u _ => h u⟩
  unfold Settings.legal
  rw [Bool.and_eq_true, Bool.and_eq_true, Bool.and_eq_true, params, holding, beq_iff_eq, and_assoc, and_assoc]

/-- An accepted write keeps a working set legal (R165). -/
theorem Settings.legal_setParam {w : Settings} {n v : Nat} (legal : w.legal = true) (enc : paramEncodes n v = true)
    (accepted : w.accepts n v = true) : (w.setParam n v).legal = true := by
  obtain ⟨ranges, full, _, holding⟩ := legal_iff.mp legal
  obtain ⟨inRange, related⟩ := Bool.and_eq_true_iff.mp accepted
  refine legal_iff.mpr ⟨fun k kp => ?_, (setParam_slots_length w enc).trans full, related, ?_⟩
  · by_cases same : k = n
    · rw [same, param_setParam_same w enc full]
      exact inRange
    · rw [param_setParam_ne w enc same]
      exact ranges k kp
  · obtain ⟨road, field⟩ := setParam_holding w enc
    intro u
    rw [road, field]
    exact holding u

/-- A clamped holding value keeps a working set legal (R26). -/
theorem Settings.legal_setRoad {w : Settings} (legal : w.legal = true) (u : Tyre) {v : Nat} (range : tyreMin ≤ v ∧ v ≤ tyreMax) :
    ({ w with road := w.road.set u v } : Settings).legal = true := by
  obtain ⟨ranges, full, related, holding⟩ := legal_iff.mp legal
  refine legal_iff.mpr ⟨ranges, full, related, fun x => ⟨?_, (holding x).2⟩⟩
  rw [show ({ w with road := w.road.set u v } : Settings).road = w.road.set u v from rfl, PerTyre.get_set_if]
  split
  · exact range
  · exact (holding x).1

theorem Settings.legal_setField {w : Settings} (legal : w.legal = true) (u : Tyre) {v : Nat} (range : tyreMin ≤ v ∧ v ≤ tyreMax) :
    ({ w with field := w.field.set u v } : Settings).legal = true := by
  obtain ⟨ranges, full, related, holding⟩ := legal_iff.mp legal
  refine legal_iff.mpr ⟨ranges, full, related, fun x => ⟨(holding x).1, ?_⟩⟩
  rw [show ({ w with field := w.field.set u v } : Settings).field = w.field.set u v from rfl, PerTyre.get_set_if]
  split
  · exact range
  · exact (holding x).2

/-! ### The stored image (R167, R169) -/

theorem boolToNat_inj : Function.Injective Bool.toNat := by decide

/-- A working set is its parameters, its slots and its holding values. -/
theorem Settings.eq_of_params {w u : Settings} (params : w.params = u.params) (slots : w.slots = u.slots) (road : w.road = u.road)
    (field : w.field = u.field) : w = u := by
  obtain ⟨⟨_, _, _, _, _, _, _, _, _, _⟩, _, _, _, _, _, _, _, _, _, _, _, _, ⟨_, _, _⟩, ⟨_, _, _⟩, ⟨_, _, _⟩, _, _, _, _, _, _, _⟩ := w
  obtain ⟨⟨_, _, _, _, _, _, _, _, _, _⟩, _, _, _, _, _, _, _, _, _, _, _, _, ⟨_, _, _⟩, ⟨_, _, _⟩, ⟨_, _, _⟩, _, _, _, _, _, _, _⟩ := u
  simp only [Settings.params, List.cons.injEq, boolToNat_inj.eq_iff] at params
  simp_all

/-- Parameters 1 to m written one after the other. -/
def Settings.writeParams (w : Settings) (f : Nat → Nat) (m : Nat) : Settings :=
  (List.range m).foldl (fun w i => w.setParam (i + 1) (f i)) w

/-- The first m slots written one after the other. -/
def Settings.writeSlots (w : Settings) (f : Nat → Nat) (m : Nat) : Settings :=
  (List.range m).foldl (fun w i => w.setParam (64 + i) (f i)) w

theorem Settings.ofWords_eq (ws : List Half) :
    Settings.ofWords ws =
      { (Settings.default.writeParams (fun i => (ws.getD i 0).toNat) 35).writeSlots (fun i => (ws.getD (35 + i) 0).toNat) 16 with
        road := imageHolding ws 0, field := imageHolding ws 1 } := rfl

theorem Settings.writeParams_succ (w : Settings) (f : Nat → Nat) (m : Nat) :
    w.writeParams f (m + 1) = (w.writeParams f m).setParam (m + 1) (f m) := by
  unfold writeParams
  rw [List.range_succ, List.foldl_append]
  rfl

theorem Settings.writeSlots_succ (w : Settings) (f : Nat → Nat) (m : Nat) :
    w.writeSlots f (m + 1) = (w.writeSlots f m).setParam (64 + m) (f m) := by
  unfold writeSlots
  rw [List.range_succ, List.foldl_append]
  rfl

/-- After the writes of parameters 1 to m the first m are those written. -/
theorem Settings.writeParams_params (w : Settings) {f : Nat → Nat} (flag : f 21 ≤ 1) {m : Nat} (h : m ≤ 35) (k : Nat) :
    (w.writeParams f m).params[k]? = if k < m then some (f k) else w.params[k]? := by
  induction m with
  | zero => rfl
  | succ m ih =>
    have flagged : m + 1 = 22 → f m ≤ 1 := by rintro at22; cases at22; exact flag
    have inside : m < (w.writeParams f m).params.length := by rw [params_length]; exact h
    rw [writeParams_succ, setParam_params _ ⟨by omega, h⟩ flagged, Nat.add_sub_cancel, List.getElem?_set, ih (by omega)]
    by_cases last : m = k
    · rw [if_pos last, if_pos (last ▸ inside), if_pos (by omega), last]
    · rw [if_neg last]
      by_cases low : k < m
      · rw [if_pos low, if_pos (by omega)]
      · rw [if_neg low, if_neg (by omega)]

theorem Settings.writeParams_slots (w : Settings) (f : Nat → Nat) {m : Nat} (h : m ≤ 35) : (w.writeParams f m).slots = w.slots := by
  induction m with
  | zero => rfl
  | succ m ih => rw [writeParams_succ, (setParam_rest _ _ ⟨by omega, h⟩).1, ih (by omega)]

/-- After the writes of m slots the first m are those written, and the parameters stay. -/
theorem Settings.writeSlots_slots (w : Settings) {c : Nat → Cls} (full : w.slots.length = 16) {m : Nat} (h : m ≤ 16) :
    (w.writeSlots (fun i => (c i).code) m).params = w.params ∧ (w.writeSlots (fun i => (c i).code) m).slots.length = 16 ∧
      ∀ k, (w.writeSlots (fun i => (c i).code) m).slots[k]? = if k < m then some (c k) else w.slots[k]? := by
  induction m with
  | zero => exact ⟨rfl, full, fun _ => rfl⟩
  | succ m ih =>
    obtain ⟨params, length, slots⟩ := ih (by omega)
    have slot : IsSlot (64 + m) := by omega
    rw [writeSlots_succ, setParam_slot _ slot (clsOfCode_code (c m)), Nat.add_sub_cancel_left]
    refine ⟨params, by rw [List.length_set, length], fun k => ?_⟩
    have inside : m < (w.writeSlots (fun i => (c i).code) m).slots.length := by omega
    rw [List.getElem?_set, slots]
    by_cases last : m = k
    · rw [if_pos last, if_pos (last ▸ inside), if_pos (by omega), last]
    · rw [if_neg last]
      by_cases low : k < m
      · rw [if_pos low, if_pos (by omega)]
      · rw [if_neg low, if_neg (by omega)]

/-- The words of a legal working set spell its figures: none is cut to 16 bits. -/
theorem paramRange_small {n : Nat} (h : IsParam n) : (paramRange n).2 < 65536 := by
  obtain ⟨low, high⟩ := h
  interval_cases n <;> decide

theorem paramInRange_small {n v : Nat} (h : IsParam n) (inRange : paramInRange n v = true) : v < 65536 := by
  have small := paramRange_small h
  simp only [paramInRange, Bool.and_eq_true, decide_eq_true_eq] at inRange
  omega

section image

variable {w : Settings}

theorem Settings.words_length (full : w.slots.length = 16) : w.words.length = 63 := by
  simp [Settings.words, full, Tyre.list]

theorem Settings.image_length (full : w.slots.length = 16) : w.image.length = 64 := by
  simp [Settings.image, words_length full]

/-- The check word makes the sum of the image 0 (R167). -/
theorem Settings.image_sum : wordSum w.image = 0 := by
  have split_ : ((w.words ++ [BitVec.ofNat 16 (65536 - wordSum w.words)]).map BitVec.toNat).sum =
      (w.words.map BitVec.toNat).sum + (65536 - wordSum w.words) % 65536 := by
    simp
  unfold Settings.image
  rw [wordSum, split_, wordSum]
  omega

theorem Settings.image_param {i : Nat} (small : i < 35) : w.image.getD i 0 = BitVec.ofNat 16 ((w.param (i + 1)).getD 0) := by
  simp [Settings.image, Settings.words, List.getD_eq_getElem?_getD, List.getElem?_append, small]

theorem Settings.image_slot {i : Nat} (full : w.slots.length = 16) (small : i < 16) :
    w.image.getD (35 + i) 0 = BitVec.ofNat 16 (w.slot i).code := by
  simp [Settings.image, Settings.words, List.getD_eq_getElem?_getD, List.getElem?_append, full, small, Tyre.list, Settings.slot]

/-- The words of the parameters and the slots (R167). -/
def Settings.frontWords (w : Settings) : List Half :=
  (List.range 35).map (fun i => BitVec.ofNat 16 ((w.param (i + 1)).getD 0)) ++ w.slots.map fun c => BitVec.ofNat 16 c.code

/-- The twelve holding words, ROAD and FIELD of each tyre (R167). -/
def Settings.holdingWords (w : Settings) : List Half :=
  Tyre.list.flatMap fun t => [BitVec.ofNat 16 (w.road.get t), BitVec.ofNat 16 (w.field.get t)]

theorem Settings.image_holding {j : Nat} (full : w.slots.length = 16) (small : j < 12) :
    w.image.getD (51 + j) 0 = w.holdingWords.getD j 0 := by
  have cut : w.image = w.frontWords ++ (w.holdingWords ++ [BitVec.ofNat 16 (65536 - wordSum w.words)]) := by
    simp only [Settings.image, Settings.words, Settings.frontWords, Settings.holdingWords, List.append_assoc]
  have length : w.frontWords.length = 51 := by simp [Settings.frontWords, full]
  have inside : j < w.holdingWords.length := small
  rw [cut, List.getD_eq_getElem?_getD, List.getElem?_append_right (by omega), length, Nat.add_sub_cancel_left,
    List.getElem?_append_left inside, List.getD_eq_getElem?_getD]

theorem toNat_ofNat16 {v : Nat} (h : v < 65536) : (BitVec.ofNat 16 v).toNat = v := by
  rw [BitVec.toNat_ofNat]
  exact Nat.mod_eq_of_lt h

/-- The place of a tyre in node order. -/
def tyreIndex : Tyre → Nat
  | .t1l => 0 | .t1r => 1 | .t2l => 2 | .t2r => 3 | .t3l => 4 | .t3r => 5

theorem tyreIndex_lt (u : Tyre) : tyreIndex u < 6 := by cases u <;> decide

theorem perTyre_eq_of_get {α : Type} {p q : PerTyre α} (h : ∀ u, p.get u = q.get u) : p = q := by
  obtain ⟨_, _, _, _, _, _⟩ := p
  obtain ⟨_, _, _, _, _, _⟩ := q
  have l1 := h .t1l
  have r1 := h .t1r
  have l2 := h .t2l
  have r2 := h .t2r
  have l3 := h .t3l
  have r3 := h .t3r
  simp only [PerTyre.get] at l1 r1 l2 r2 l3 r3
  subst l1 r1 l2 r2 l3 r3
  rfl

theorem Settings.image_road (legal : w.legal = true) : imageHolding w.image 0 = w.road := by
  obtain ⟨_, full, _, holding⟩ := legal_iff.mp legal
  refine perTyre_eq_of_get fun u => ?_
  have small : w.road.get u < 65536 := (holding u).1.2.trans_lt (by decide)
  have even : 2 * tyreIndex u < 12 := by have := tyreIndex_lt u; omega
  calc (imageHolding w.image 0).get u = (w.image.getD (51 + 2 * tyreIndex u) 0).toNat := by cases u <;> rfl
    _ = _ := congrArg BitVec.toNat (image_holding full even)
    _ = (BitVec.ofNat 16 (w.road.get u)).toNat := by cases u <;> rfl
    _ = w.road.get u := toNat_ofNat16 small

theorem Settings.image_field (legal : w.legal = true) : imageHolding w.image 1 = w.field := by
  obtain ⟨_, full, _, holding⟩ := legal_iff.mp legal
  refine perTyre_eq_of_get fun u => ?_
  have small : w.field.get u < 65536 := (holding u).2.2.trans_lt (by decide)
  have odd : 2 * tyreIndex u + 1 < 12 := by have := tyreIndex_lt u; omega
  calc (imageHolding w.image 1).get u = (w.image.getD (51 + (2 * tyreIndex u + 1)) 0).toNat := by cases u <;> rfl
    _ = _ := congrArg BitVec.toNat (image_holding full odd)
    _ = (BitVec.ofNat 16 (w.field.get u)).toNat := by cases u <;> rfl
    _ = w.field.get u := toNat_ofNat16 small

/-- A parameter word of the image is its figure. -/
theorem Settings.image_param_toNat (legal : w.legal = true) {i : Nat} (small : i < 35) :
    (w.image.getD i 0).toNat = (w.param (i + 1)).getD 0 := by
  have param : IsParam (i + 1) := by omega
  rw [image_param small, toNat_ofNat16 (paramInRange_small param ((legal_iff.mp legal).1 _ param))]

theorem Settings.image_slot_toNat (full : w.slots.length = 16) {i : Nat} (small : i < 16) :
    (w.image.getD (35 + i) 0).toNat = (w.slot i).code := by
  rw [image_slot full small]
  exact toNat_ofNat16 (by cases w.slot i <;> decide)

/-- The image of a legal working set spells it. -/
theorem Settings.ofWords_image (legal : w.legal = true) : Settings.ofWords w.image = w := by
  obtain ⟨ranges, full, _, _⟩ := legal_iff.mp legal
  have values : Settings.default.writeParams (fun i => (w.image.getD i 0).toNat) 35 =
      Settings.default.writeParams (fun i => (w.param (i + 1)).getD 0) 35 := by
    exact List.foldl_ext _ _ _ fun u i small => congrArg (u.setParam (i + 1)) (image_param_toNat legal (List.mem_range.mp small))
  have codes : ∀ u : Settings, u.writeSlots (fun i => (w.image.getD (35 + i) 0).toNat) 16 = u.writeSlots (fun i => (w.slot i).code) 16 :=
    fun u => List.foldl_ext _ _ _ fun x i small => congrArg (x.setParam (64 + i)) (image_slot_toNat full (List.mem_range.mp small))
  have flag : (w.param (21 + 1)).getD 0 ≤ 1 := by
    have inRange := ranges 22 (by decide)
    simp only [paramInRange, Bool.and_eq_true, decide_eq_true_eq] at inRange
    exact inRange.1.2
  have params := Settings.default.writeParams_params (f := fun i => (w.param (i + 1)).getD 0) flag (m := 35) le_rfl
  have plain := Settings.default.writeParams_slots (fun i => (w.param (i + 1)).getD 0) (m := 35) le_rfl
  obtain ⟨same, length, slots⟩ := (Settings.default.writeParams (fun i => (w.param (i + 1)).getD 0) 35).writeSlots_slots
    (c := w.slot) (by rw [plain]; rfl) (m := 16) le_rfl
  rw [ofWords_eq, values, codes]
  refine eq_of_params ?_ ?_ (image_road legal) (image_field legal)
  · refine List.ext_getElem? fun k => ?_
    refine (congrArg (fun l : List Nat => l[k]?) same).trans ((params k).trans ?_)
    by_cases low : k < 35
    · obtain ⟨v, holds⟩ : ∃ v, w.params[k]? = some v := ⟨_, List.getElem?_eq_getElem (by rw [params_length]; exact low)⟩
      rw [if_pos low, param_eq_params w ⟨by omega, by omega⟩, Nat.add_sub_cancel, holds]
      rfl
    · have outside : ∀ u : Settings, u.params[k]? = none := fun u =>
        List.getElem?_eq_none (by rw [params_length]; omega)
      rw [if_neg low, outside, outside]
  · refine List.ext_getElem? fun k => ?_
    refine (slots k).trans ?_
    by_cases low : k < 16
    · have inside : k < w.slots.length := by omega
      rw [if_pos low, Settings.slot, List.getD_eq_getElem?_getD, List.getElem?_eq_getElem inside]
      rfl
    · have outside : ∀ l : List Cls, l.length = 16 → l[k]? = none := fun l h => List.getElem?_eq_none (by omega)
      rw [if_neg low, outside _ (by rw [plain]; rfl), outside _ full]

/-- The image of a legal working set is good (R169). -/
theorem Settings.imageGood_image (legal : w.legal = true) : imageGood w.image = true := by
  obtain ⟨ranges, full, _, _⟩ := legal_iff.mp legal
  have params : (List.range 35).all (fun i => paramInRange (i + 1) (w.image.getD i 0).toNat) = true := by
    refine List.all_eq_true.mpr fun i small => ?_
    rw [image_param_toNat legal (List.mem_range.mp small)]
    have small := List.mem_range.mp small
    exact ranges (i + 1) (by omega)
  have slots : (List.range 16).all (fun i => paramEncodes (64 + i) (w.image.getD (35 + i) 0).toNat) = true := by
    refine List.all_eq_true.mpr fun i small => ?_
    rw [image_slot_toNat full (List.mem_range.mp small)]
    have small := List.mem_range.mp small
    exact paramEncodes_iff.mpr (.inl ⟨by omega, _, clsOfCode_code _⟩)
  unfold imageGood
  rw [params, slots, ofWords_image legal, legal, image_length full, image_sum]
  rfl

end image

/-- Settles O12. -/
theorem imageRoundTrip : Obligations.ImageRoundTrip :=
  fun _ legal => ⟨Settings.imageGood_image legal, Settings.ofWords_image legal⟩

end Sys2Proof.Machine
end

section
/-! SUPPORT. The start values: what RESET_ASSERT and START leave, and that they are safe, legal and in range; and that every step keeps the
working set legal and the readings in their ranges. -/

set_option Elab.async false

namespace Sys2Proof.Machine

/-! ### Start values -/

theorem default_legal : Settings.default.legal = true := by decide

theorem legal_loadImage (image : Option (List Half)) : (loadImage image).1.legal = true := by
  unfold loadImage
  split
  · split
    · next good =>
      unfold imageGood at good
      exact (Bool.and_eq_true_iff.mp good).2
    · exact default_legal
  · exact default_legal

theorem loadImage_of_good {w : List Half} (good : imageGood w = true) : loadImage (some w) = (Settings.ofWords w, false) := by
  simp only [loadImage, good, if_true]

theorem loadImage_of_bad {image : Option (List Half)} (bad : ∀ w, image = some w → imageGood w = false) :
    loadImage image = (Settings.default, true) := by
  cases image with
  | none => rfl
  | some w => simp only [loadImage, bad w rfl, Bool.false_eq_true, if_false]

theorem start_of_good {s : State} {w : List Half} (image : s.sts.image = some w) (good : imageGood w = true) :
    s.start = State.startValues .starting (Settings.ofWords w) (startTargets (Settings.ofWords w)) (some w) s.now s.freeCount s.pending := by
  unfold State.start
  rw [image, loadImage_of_good good]
  exact close_noScan none (Ev.of _) rfl rfl

/-- The CAN port is OFF_BUS since start, and no default mask of PANEL holds STORE_LOST: the reports of a start are all dropped. -/
theorem start_of_bad {s : State} (bad : ∀ w, s.sts.image = some w → imageGood w = false) :
    LatchedAll s.start .storeLost [] ∧
      s.start = { State.startValues .starting Settings.default (startTargets Settings.default) s.sts.image s.now s.freeCount s.pending with
        evu.latches := s.start.evu.latches } := by
  unfold State.start
  rw [loadImage_of_bad bad]
  refine ⟨latched_close none (latched_latch _ _ _), ?_⟩
  rfl

/-- Settles O3. -/
theorem resetAndStartTakeStartValues : Obligations.ResetAndStartTakeStartValues := by
  intro s
  refine ⟨⟨_, rfl, rfl, rfl, rfl, rfl, rfl⟩, fun w image good => congrArg Host.Outcome.next (start_of_good image good), fun bad => ?_⟩
  obtain ⟨latched, start⟩ := start_of_bad bad
  exact ⟨s.start, rfl, latched, congrArg State.sts start, start⟩

/-! ### The working set -/

/-- What a write of the settings that is legal keeps of the working set. -/
def LegalKept (s t : State) : Prop := SettingsLegal s → SettingsLegal t

theorem LegalKept.of_ws {s t : State} (h : t.sts.ws = s.sts.ws) : LegalKept s t := fun legal => by
  unfold SettingsLegal
  rw [h]
  exact legal

theorem carried_legalKept : Carried LegalKept where
  refl _ := id
  trans h k := k ∘ h
  receive s h c := .of_ws (congrArg (fun f => f.sts.ws) (receive_fixed s h c))
  close r e := .of_ws (congrArg (fun f => f.sts.ws) (close_fixed r e))

theorem configRefusal_none {s : State} {n v : Nat} (accepted : s.configRefusal n v = none) :
    paramEncodes n v = true ∧ s.ws.accepts n v = true := by
  unfold State.configRefusal at accepted
  split at accepted
  · cases accepted
  · next enc =>
    split at accepted
    · cases accepted
    · split at accepted
      · cases accepted
      · split at accepted
        · cases accepted
        · next ok => exact ⟨by simpa using enc, by simpa using ok⟩

theorem Ev.paramWritten_ws (n : Nat) (e : Ev) : (e.paramWritten n).st.sts.ws = e.st.sts.ws :=
  congrArg (fun f => f.sts.ws) (Ev.paramWritten_fixed n e)

theorem legalKept_configWrite (n : Byte) (v : Half) (e : Ev) : LegalKept e.st (e.configWrite n v).1.st := by
  unfold Ev.configWrite
  split
  · exact id
  · next accepted =>
    obtain ⟨enc, ok⟩ := configRefusal_none accepted
    intro legal
    unfold SettingsLegal
    rw [Ev.paramWritten_ws]
    exact Settings.legal_setParam legal enc ok

theorem clamp_range {lo hi : Nat} (order : lo ≤ hi) (v : Int) : lo ≤ (clamp lo hi v).1 ∧ (clamp lo hi v).1 ≤ hi := by
  unfold clamp
  split
  · exact ⟨le_rfl, order⟩
  · split
    · exact ⟨order, le_rfl⟩
    · dsimp only
      omega

theorem legalKept_setHolding (s : State) (u : Tyre) (p : Basis) (v : Int) :
    LegalKept s (s.setHolding u p (clamp tyreMin tyreMax v).1) := by
  have range := clamp_range (lo := tyreMin) (hi := tyreMax) (by decide) v
  intro legal
  cases p with
  | road => exact Settings.legal_setRoad legal u range
  | field => exact Settings.legal_setField legal u range

theorem legalKept_profileWrite (n p : Byte) (v : Half) (e : Ev) : LegalKept e.st (e.profileWrite n p v).1.st := by
  unfold Ev.profileWrite
  split
  · next u basis _ _ =>
    split
    · exact id
    · have written := legalKept_setHolding e.st u basis v.toNat
      dsimp only
      split
      · refine carried_legalKept.trans written (.of_ws ?_)
        exact congrArg (fun f => f.sts.ws) (Ev.recompute_fixed .other u _)
      · exact written
  · exact id

theorem legalKept_exec (c : Instr) (s : State) : ∃ t, exec c s = .next t ∧ LegalKept s t := by
  obtain ⟨t, ran, within⟩ := within_exec c s
  rcases within.ws with same | (rfl | rfl) | ⟨h, n, v, rfl⟩ | ⟨h, n, p, v, rfl⟩
  · exact ⟨t, ran, .of_ws same⟩
  · exact ⟨_, rfl, fun _ => default_legal⟩
  · refine ⟨s.start, rfl, fun _ => ?_⟩
    have ws : s.start.sts.ws = (loadImage s.sts.image).1 := congrArg (fun f => f.sts.ws) (start_fixed s)
    unfold SettingsLegal
    rw [ws]
    exact legal_loadImage _
  · exact ⟨_, rfl, carried_legalKept.request (legalKept_configWrite n v)⟩
  · exact ⟨_, rfl, carried_legalKept.request (legalKept_profileWrite n p v)⟩

/-- Settles O6: only CONFIG_WRITE, PROFILE_WRITE and the two commands of the reset line write the working set, each a legal one. -/
theorem settingsLegalKept : Obligations.SettingsLegalKept := by
  intro s t legal stepped
  refine step_keeps (P := SettingsLegal) (fun _ _ h => h) (fun _ h => h) (fun c s h => ?_) legal stepped
  obtain ⟨t, ran, kept⟩ := legalKept_exec c s
  exact ⟨t, ran, kept h⟩

/-! ### The readings -/

theorem readingsInRange_start : ReadingsInRange State.reset where
  nodes n := by
    rw [show State.reset.msu.nodes = PerNode.fill ⟨0, false, 0⟩ from rfl, PerNode.get_fill]
    exact ⟨Nat.zero_le _, Nat.zero_le _, fun _ => rfl⟩
  sides sd := by
    rw [show State.reset.msu.heights = PerSide.fill ⟨false, 0, []⟩ from rfl, PerSide.get_fill]
    exact ⟨Nat.zero_le _, fun _ h => absurd h List.not_mem_nil, Nat.zero_le _, fun _ => rfl⟩

/-- The readings in range are a matter of the two tables. -/
theorem ReadingsInRange.of_tables {s t : State} (h : ReadingsInRange s) (nodes : t.msu.nodes = s.msu.nodes)
    (heights : t.msu.heights = s.msu.heights) : ReadingsInRange t where
  nodes n := nodes ▸ h.nodes n
  sides sd := heights ▸ h.sides sd

theorem Reading.inRange_after {r : Reading} (h : r.inRange) (x : Sample) : (r.after x).inRange := by
  obtain ⟨value, _, _⟩ := h
  unfold Reading.after
  split
  · next ok =>
    simp only [pressureValid, Bool.and_eq_true, decide_eq_true_eq] at ok
    exact ⟨by dsimp only; omega, Nat.zero_le _, fun _ => rfl⟩
  · exact ⟨value, min_le_left _ _, fun bad => by cases bad⟩

theorem HeightEntry.inRange_after {r : HeightEntry} (h : r.inRange) (x : Sample) : (r.after x).inRange := by
  obtain ⟨size, values, _, _⟩ := h
  unfold HeightEntry.after
  split
  · next ok =>
    simp only [heightValid, Bool.and_eq_true, decide_eq_true_eq] at ok
    refine ⟨?_, fun v taken => ?_, Nat.zero_le _, fun _ => rfl⟩
    · simp only [List.length_drop, List.length_append, List.length_singleton, ringSize]
      omega
    · rcases List.mem_append.mp (List.mem_of_mem_drop taken) with old | new
      · exact values v old
      · rw [List.mem_singleton.mp new]
        omega
  · exact ⟨size, values, min_le_left _ _, fun bad => by cases bad⟩

theorem readingsInRange_takePressure {s : State} (h : ReadingsInRange s) (n : Node) (x : Sample) :
    ReadingsInRange (s.takePressure n x) where
  nodes m := by
    rw [State.takePressure_msu]
    dsimp only
    rw [PerNode.modify, PerNode.get_set_if]
    split
    · exact Reading.inRange_after (h.nodes n) x
    · exact h.nodes m
  sides := h.sides

theorem readingsInRange_takeHeight {s : State} (h : ReadingsInRange s) (sd : Side) (x : Sample) :
    ReadingsInRange (s.takeHeight sd x) where
  nodes := h.nodes
  sides m := by
    rw [State.takeHeight_msu]
    dsimp only
    rw [PerSide.modify, PerSide.get_set_if]
    split
    · exact HeightEntry.inRange_after (h.sides sd) x
    · exact h.sides m

theorem endRound_tables (s : State) : s.endRound.msu.nodes = s.msu.nodes ∧ s.endRound.msu.heights = s.msu.heights := by
  unfold State.endRound
  split
  · split <;> exact ⟨rfl, rfl⟩
  · exact ⟨rfl, rfl⟩

def ReadingsKept (s t : State) : Prop := ReadingsInRange s → ReadingsInRange t

theorem ReadingsKept.of_msu {s t : State} (h : t.msu = s.msu) : ReadingsKept s t := fun r => r.of_tables (h ▸ rfl) (h ▸ rfl)

theorem readingsKept_endRound (s : State) : ReadingsKept s s.endRound := fun r => r.of_tables (endRound_tables s).1 (endRound_tables s).2

theorem carried_readingsKept : Carried ReadingsKept where
  refl _ := id
  trans h k := k ∘ h
  receive s h c := .of_msu (congrArg Fixed.msu (receive_fixed s h c))
  close r e := .of_msu (congrArg Fixed.msu (close_fixed r e))

theorem pressureReceivers_msu (n : Node) (e : Ev) : (e.pressureReceivers n).st.msu = e.st.msu := by
  obtain ⟨_, _, _, _, _, _, received⟩ := pressureReceivers_fixed n e
  exact congrArg Fixed.msu received

theorem heightReceivers_msu (sd : Side) (v r : Bool) (e : Ev) : (e.heightReceivers sd v r).st.msu = e.st.msu := by
  obtain ⟨_, received⟩ := heightReceivers_fixed sd v r e
  exact congrArg Fixed.msu received

theorem readingsKept_exec (c : Instr) (s : State) : ∃ t, exec c s = .next t ∧ ReadingsKept s t := by
  obtain ⟨t, ran, within⟩ := within_exec c s
  have k := carried_readingsKept
  rcases within.msu with same | (rfl | rfl) | ⟨n, x, rfl⟩ | ⟨sd, x, rfl⟩
  · exact ⟨t, ran, .of_msu same⟩
  · exact ⟨_, rfl, fun _ => readingsInRange_start.of_tables rfl rfl⟩
  · exact ⟨s.start, rfl, fun _ => readingsInRange_start.of_tables (congrArg (fun f => f.msu.nodes) (start_fixed s))
      (congrArg (fun f => f.msu.heights) (start_fixed s))⟩
  · exact ⟨_, rfl, k.event fun e => k.trans (fun r => readingsInRange_takePressure r n x)
      (k.trans (.of_msu (pressureReceivers_msu n (e.on _))) (readingsKept_endRound _))⟩
  · exact ⟨_, rfl, k.event fun e => k.trans (fun r => readingsInRange_takeHeight r sd x)
      (k.trans (.of_msu (heightReceivers_msu sd _ _ (e.on _))) (readingsKept_endRound _))⟩

/-- Settles O7: only the two arrivals and the commands of the reset line write the readings. -/
theorem readingsInRangeKept : Obligations.ReadingsInRangeKept := by
  intro s t inRange stepped
  refine step_keeps (P := ReadingsInRange) (fun _ _ h => h.of_tables rfl rfl) (fun _ h => h.of_tables rfl rfl) (fun c s h => ?_) inRange
    stepped
  obtain ⟨t, ran, kept⟩ := readingsKept_exec c s
  exact ⟨t, ran, kept h⟩

/-! ### The state after reset -/

/-- Settles O4. -/
theorem resetIsSafe : Obligations.ResetIsSafe := by
  refine ⟨(good_iff _).mp (good_startValues ..), default_legal, readingsInRange_start, ⟨fun u v some => ?_, fun u => ?_, by decide⟩,
    ⟨Nat.zero_le _, Nat.zero_le _, Nat.zero_le _⟩⟩
  · cases u <;> cases some
  · cases u <;> decide

end Sys2Proof.Machine
end

section
/-! SUPPORT. What lasts through a command: latches, fault flags and starvation counters stay or grow, and the targets stay in their ranges while
the settings are legal. One relation carries both, and one split over the commands. -/

set_option Elab.async false

namespace Sys2Proof.Machine

/-! ### Height targets (R100, R105) -/

/-- The height target lies within HMIN to HMAX. -/
def Fixed.HeightIn (f : Fixed) : Prop := hMin ≤ f.target ∧ f.target ≤ hMax

/-- RIDE and FIELD_OFFSET of a legal working set keep every nominal target within HMIN to HMAX (section 11.1). -/
theorem Settings.nominal_range {w : Settings} (legal : w.legal = true) (b : Basis) : hMin ≤ w.nominal b ∧ w.nominal b ≤ hMax := by
  have ranges := (Settings.legal_iff.mp legal).1
  have ride := ranges 18 (by decide)
  have offset := ranges 19 (by decide)
  simp only [paramInRange, Bool.and_eq_true, decide_eq_true_eq] at ride offset
  have low : 120 ≤ w.ride := ride.1.1
  have high : w.ride ≤ 300 := ride.1.2
  have top : w.fieldOffset ≤ 60 := offset.1.2
  cases b
  · exact ⟨by simp only [Settings.nominal, hMin]; omega, by simp only [Settings.nominal, hMax]; omega⟩
  · exact ⟨by simp only [Settings.nominal, hMin]; omega, by simp only [Settings.nominal, hMax]; omega⟩

theorem Fixed.nominal_range {f : Fixed} (legal : f.sts.ws.legal = true) : hMin ≤ f.nominal ∧ f.nominal ≤ hMax := by
  unfold Fixed.nominal
  split
  · exact Settings.nominal_range legal _
  · exact Settings.nominal_range legal _
  · exact Settings.nominal_range legal _

theorem Fixed.forced_heightIn {f : Fixed} (legal : f.sts.ws.legal = true) (h : f.HeightIn) (x : SpeedState) : (f.forced x).HeightIn := by
  unfold Fixed.forced
  split
  · exact Settings.nominal_range legal .road
  · exact h

theorem Fixed.forced_ws (f : Fixed) (x : SpeedState) : (f.forced x).sts.ws = f.sts.ws := by
  unfold Fixed.forced
  split <;> rfl

theorem Fixed.sped_heightIn {f : Fixed} (legal : f.sts.ws.legal = true) (h : f.HeightIn) (x : SpeedState) : (f.sped x).HeightIn := by
  unfold Fixed.sped Fixed.HeightIn
  dsimp only
  split
  · exact Fixed.nominal_range legal
  · exact h

/-- A new vehicle state record keeps the height target in its range (R106, R21). -/
theorem Fixed.recorded_heightIn {f : Fixed} (legal : f.sts.ws.legal = true) (h : f.HeightIn) (v : Vehicle) : (f.recorded v).HeightIn := by
  have known : ({ f with vehicle := v } : Fixed).guarded.HeightIn := h
  have forced := Fixed.forced_heightIn (f := ({ f with vehicle := v } : Fixed).guarded) legal known v.speedState
  unfold Fixed.recorded
  dsimp only
  split
  · refine Fixed.sped_heightIn (f := (Fixed.forced _ v.speedState).braked) ?_ forced v.speedState
    rw [show (Fixed.forced _ v.speedState).braked.sts.ws = _ from Fixed.forced_ws _ _]
    exact legal
  · exact h

/-! ### What lasts -/

/-- What lasts from one state to another: what is latched for every master but one that has read its status, the starvation counters,
the fault flags but in a clearing, and the ranges of the targets under legal settings. -/
structure Lasts (clears : Bool) (reads : Option Master) (s t : State) : Prop where
  latches : ∀ m, reads ≠ some m → LatchesLe (s.evu.latches.get m) (t.evu.latches.get m)
  height : s.dqm.starve.height ≤ t.dqm.starve.height
  lift : s.dqm.starve.lift ≤ t.dqm.starve.lift
  tyre : s.dqm.starve.tyre ≤ t.dqm.starve.tyre
  point : s.dqm.starve.point ≤ t.dqm.starve.point
  faults : clears = false → ∀ n, s.faulted n = true → t.faulted n = true
  ranges : SettingsLegal s → TargetsInRange s → SettingsLegal t ∧ TargetsInRange t

variable {cl : Bool} {rd : Option Master}

/-- What an operation of the blocks lets grow lasts, where the height target stays in its range. -/
theorem Lasts.of_grows {s t : State} (g : Grows cl s t) (h : SettingsLegal s → s.fixed.HeightIn → t.fixed.HeightIn) : Lasts cl rd s t where
  latches m _ := g.latches m
  height := g.height
  lift := g.lift
  tyre := g.tyre
  point := g.point
  faults := g.faults
  ranges legal r := by
    refine ⟨by unfold SettingsLegal; rw [show t.sts.ws = s.sts.ws from g.ws]; exact legal, fun u v some => ?_,
      g.targets legal r.overrides r.tyres, h legal r.height⟩
    rw [g.overrides u] at some
    exact r.overrides u v some

/-- The same where the height target stays. -/
theorem Lasts.of_same {s t : State} (g : Grows cl s t) (h : t.hlc.target = s.hlc.target := by rfl) : Lasts cl rd s t :=
  .of_grows g fun _ r => by unfold Fixed.HeightIn; rw [show t.fixed.target = s.fixed.target from h]; exact r

/-- The same for a handler that writes no fixed field. -/
theorem Lasts.of_fixed {s t : State} {f : Fixed} (g : Grows cl s t) (h : t.fixed = f) (same : f.target = s.hlc.target := by rfl) :
    Lasts cl rd s t := .of_same g ((congrArg Fixed.target h).trans same)

theorem Lasts.aside {s t : State} (hl : t.evu.latches = s.evu.latches := by rfl) (hs : t.dqm.starve = s.dqm.starve := by rfl)
    (hf : t.spu.faults = s.spu.faults := by rfl) (hw : t.sts.ws = s.sts.ws := by rfl) (ht : t.tgu.tyres = s.tgu.tyres := by rfl)
    (h : t.hlc.target = s.hlc.target := by rfl) : Lasts cl rd s t := .of_same (.aside hl hs hf hw ht) h

/-- A write of the settings alone. -/
theorem Lasts.of_settings {s t : State} (legal : LegalKept s t) (hl : t.evu.latches = s.evu.latches := by rfl)
    (hs : t.dqm.starve = s.dqm.starve := by rfl) (hf : t.spu.faults = s.spu.faults := by rfl)
    (ht : t.tgu.tyres = s.tgu.tyres := by rfl) (h : t.hlc.target = s.hlc.target := by rfl) : Lasts cl rd s t where
  latches m _ := by rw [hl]; exact .refl _
  height := by rw [hs]
  lift := by rw [hs]
  tyre := by rw [hs]
  point := by rw [hs]
  faults _ n hn := by unfold State.faulted at *; rw [hf]; exact hn
  ranges l r := ⟨legal l, by rw [ht]; exact r.overrides, by rw [ht]; exact r.tyres, by rw [h]; exact r.height⟩

theorem carried_lasts : Carried (Lasts cl rd) where
  refl _ := .aside
  trans h k := {
    latches := fun m n => (h.latches m n).trans (k.latches m n)
    height := h.height.trans k.height
    lift := h.lift.trans k.lift
    tyre := h.tyre.trans k.tyre
    point := h.point.trans k.point
    faults := fun c n f => k.faults c n (h.faults c n f)
    ranges := fun l r => have ⟨l', r'⟩ := h.ranges l r; k.ranges l' r' }
  receive s h c := .of_fixed (grows_receive cl s h c) (receive_fixed s h c)
  close r e := .of_fixed (grows_close cl r e) (close_fixed r e)

/-! ### The handlers -/

theorem grows_rsvArrival (e : Ev) : Grows cl e.st e.rsvArrival.st := by
  unfold Ev.rsvArrival
  dsimp only
  split
  · rw [Ev.trigger_st]; exact grows_floorTest cl e
  · exact grows_floorTest cl e

theorem grows_pressureEnds (m : Managed) (e : Ev) : Grows cl e.st (e.pressureEnds m).st :=
  (grows_pressureEnd cl .a m e).trans (grows_pressureEnd cl .b m _)

theorem grows_watch (n : Node) (e : Ev) : Grows cl e.st (e.watch n).st := by
  unfold Ev.watch
  split
  · exact grows_monitorArrival cl _ e
  · exact .refl _ _

theorem grows_pressureReceivers (n : Node) (e : Ev) : Grows cl e.st (e.pressureReceivers n).st := by
  unfold Ev.pressureReceivers
  refine Grows.trans ?_ ((grows_watch n _).trans (grows_sensorFault cl n _))
  split
  · exact (grows_supplyArrival cl e.st).trans (grows_rsvArrival (e.on State.supplyArrival))
  · exact (grows_settledLoad cl .left e).trans (grows_pressureEnds .bll _)
  · exact (grows_settledLoad cl .right e).trans (grows_pressureEnds .blr _)
  · exact (grows_lftArrival cl e).trans (grows_pressureEnds .lft _)
  · split
    · exact (grows_tyreLoop cl _ e).trans (grows_pressureEnds _ _)
    · exact .refl _ _

theorem grows_heightReceivers (sd : Side) (v r : Bool) (e : Ev) : Grows cl e.st (e.heightReceivers sd v r).st := by
  unfold Ev.heightReceivers
  dsimp only
  refine Grows.trans ?_ ((grows_heightEnd cl .a sd _).trans (grows_heightEnd cl .b sd _))
  split
  · exact (grows_heightSensor cl sd v r e).trans (grows_heightHandOff cl _)
  · exact grows_heightSensor cl sd v r e

theorem lasts_endRound (s : State) : Lasts cl rd s s.endRound := by
  unfold State.endRound
  split
  · split <;> exact .aside
  · exact .aside

theorem lasts_pressure (n : Node) (x : Sample) (e : Ev) :
    Lasts cl rd e.st (((e.on fun s => s.takePressure n x).pressureReceivers n).on State.endRound).st := by
  obtain ⟨_, _, _, _, _, _, received⟩ := pressureReceivers_fixed n (e.on fun s => s.takePressure n x)
  exact carried_lasts.trans (carried_lasts.trans .aside (.of_fixed (grows_pressureReceivers n _) received)) (lasts_endRound _)

theorem lasts_height (sd : Side) (x : Sample) (v r : Bool) (e : Ev) :
    Lasts cl rd e.st (((e.on fun s => s.takeHeight sd x).heightReceivers sd v r).on State.endRound).st := by
  obtain ⟨_, received⟩ := heightReceivers_fixed sd v r (e.on fun s => s.takeHeight sd x)
  exact carried_lasts.trans (carried_lasts.trans .aside (.of_fixed (grows_heightReceivers sd v r _) received)) (lasts_endRound _)

theorem lasts_vehicleUpdate (v : Vehicle) (e : Ev) : Lasts cl rd e.st (e.vehicleUpdate v).st :=
  .of_grows (grows_vehicleUpdate cl v e) fun legal h => by rw [vehicleUpdate_recorded]; exact Fixed.recorded_heightIn (f := e.st.fixed) legal h v

theorem lasts_brakeLinkLost (e : Ev) : Lasts cl rd e.st e.brakeLinkLost.st :=
  .of_grows (grows_brakeLinkLost cl e) fun legal h => by
    rw [brakeLinkLost_recorded]
    exact Fixed.recorded_heightIn (f := { e.st.fixed with brakeOk := PerMaster.fill false }) legal h _

theorem lasts_lapse (e : Ev) : Lasts cl rd e.st e.lapse.st := .of_fixed (grows_lapse cl e) (lapse_lapsed e)

theorem lasts_setStop (x : StopSet) (e : Ev) : Lasts cl rd e.st (e.setStop x).st := by rw [Ev.setStop_st]; exact .aside

theorem lasts_panelLinkLost (e : Ev) : Lasts cl rd e.st e.panelLinkLost.st := by
  refine .of_fixed ?_ (Ev.panelLinkLost_fixed e)
  unfold Ev.panelLinkLost
  refine Grows.trans ?_ (grows_lapse cl _)
  rw [Ev.setStop_st]
  exact .aside

theorem lasts_supplyExpiry (e : Ev) : Lasts cl rd e.st e.supplyExpiry.st := by
  refine .of_same (grows_supplyExpiry cl e) ?_
  unfold Ev.supplyExpiry
  split
  · exact congrArg Fixed.target (Ev.latch_fixed _ _ _)
  · rfl

theorem lasts_changeMode (m : Mode) (e : Ev) : Lasts cl rd e.st (e.changeMode m).st := by
  refine .of_grows (grows_changeMode cl m e) fun legal h => ?_
  rw [changeMode_fixed]
  cases m
  · exact Settings.nominal_range legal .road
  · exact Settings.nominal_range legal .field
  · exact h

theorem lasts_modeSet (b : Byte) (e : Ev) : Lasts cl rd e.st (e.modeSet b).1.st := by
  unfold Ev.modeSet
  split
  · exact .aside
  · split
    · exact .aside
    · split
      · exact .aside
      · split
        · exact .aside
        · exact lasts_changeMode _ e

/-- An override and its target written together (R27). -/
theorem lasts_setTyre (s : State) (u : Tyre) (o : Option Nat) (range : ∀ v, o = some v → tyreMin ≤ v ∧ v ≤ tyreMax)
    {g : Nat} (formed : SettingsLegal s → tyreMin ≤ g ∧ g ≤ tyreMax) : Lasts cl rd s (s.setTyre u o g) where
  latches _ _ := .refl _
  height := le_rfl
  lift := le_rfl
  tyre := le_rfl
  point := le_rfl
  faults _ _ h := h
  ranges legal r := by
    have at_ : ∀ v, ((s.setTyre u o g).tgu.tyres.get v) =
        if v = u then { s.tgu.tyres.get u with override := o, target := g } else s.tgu.tyres.get v := by
      intro v
      simp only [State.setTyre_tgu, State.setTarget_tgu, State.setOverride_tgu, PerTyre.modify, PerTyre.get_set_if, if_true]
      split <;> rfl
    refine ⟨legal, fun v x some => ?_, fun v => ?_, r.height⟩
    · rw [at_ v] at some
      split at some
      · exact range x some
      · exact r.overrides v x some
    · rw [at_ v]
      split
      · exact formed legal
      · exact r.tyres v

theorem lasts_applyTyre (u : Tyre) (o : Option Nat) (c : Bool) (e : Ev) (range : ∀ v, o = some v → tyreMin ≤ v ∧ v ≤ tyreMax) :
    Lasts cl rd e.st (e.applyTyre u o c).1.st := by
  have formed : SettingsLegal e.st → tyreMin ≤ e.st.formTarget u o ∧ e.st.formTarget u o ≤ tyreMax := fun legal =>
    formTarget_range legal u o range
  have asked : ∀ a : Ask, Lasts cl rd e.st (e.ask a).1.st := fun a => .of_fixed (grows_ask cl a e) (Ev.ask_fixed a e)
  unfold Ev.applyTyre
  dsimp only
  split
  · exact lasts_setTyre e.st u o range formed
  · split
    · exact asked _
    · generalize ask : e.st.tyreAsk u (e.st.formTarget u o) (.master .cab) = a
      have ws : (e.ask a).1.st.sts.ws = e.st.sts.ws := congrArg (fun f => f.sts.ws) (Ev.ask_fixed a e)
      have served : Lasts cl rd (e.ask a).1.st ((e.ask a).1.st.tyreServed u) := .of_same (grows_tyreServed cl _ u)
      refine carried_lasts.trans (asked a) (carried_lasts.trans served (lasts_setTyre _ u o range fun legal => formed ?_))
      unfold SettingsLegal
      rw [← ws]
      exact legal

theorem lasts_tyreSet (n f : Byte) (v : Half) (e : Ev) : Lasts cl rd e.st (e.tyreSet n f v).1.st := by
  unfold Ev.tyreSet
  split
  · exact .aside
  · split
    · exact .aside
    · split
      · exact .aside
      · refine lasts_applyTyre _ (some (clamp tyreMin tyreMax v.toNat).1) (clamp tyreMin tyreMax v.toNat).2 e fun x value => ?_
        rw [← Option.some.inj value]
        exact clamp_range (by decide) _

theorem lasts_tyreSetClear (n : Byte) (v : Half) (e : Ev) : Lasts cl rd e.st (e.tyreSetClear n v).1.st := by
  unfold Ev.tyreSetClear
  split
  · exact .aside
  · split
    · exact .aside
    · split
      · exact .aside
      · split
        · exact .aside
        · exact lasts_applyTyre _ _ _ e fun x none => by cases none

theorem lasts_setHolding (s : State) (u : Tyre) (p : Basis) (v : Int) : Lasts cl rd s (s.setHolding u p (clamp tyreMin tyreMax v).1) := by
  have legal := legalKept_setHolding s u p v
  cases p
  · exact .of_settings legal
  · exact .of_settings legal

theorem lasts_profileWrite (n p : Byte) (v : Half) (e : Ev) : Lasts cl rd e.st (e.profileWrite n p v).1.st := by
  unfold Ev.profileWrite
  split
  · next u basis _ _ =>
    split
    · exact .aside
    · have written : Lasts cl rd e.st _ := lasts_setHolding e.st u basis v.toNat
      dsimp only
      split
      · have recomputed : ∀ e : Ev, Lasts cl rd e.st (e.recompute .other u).st := fun e =>
          .of_fixed (grows_recompute cl .other u e) (Ev.recompute_fixed .other u e)
        exact carried_lasts.trans written (recomputed (e.on fun s => s.setHolding u basis (clamp tyreMin tyreMax v.toNat).1))
      · exact written
  · exact .aside

theorem lasts_vehicleData (a b : Byte) (c : Half) (e : Ev) : Lasts cl rd e.st (e.vehicleData a b c).1.st := by
  unfold Ev.vehicleData
  split
  · exact .aside
  · exact carried_lasts.trans .aside (lasts_vehicleUpdate _ (e.on _))

theorem lasts_setLiftSetting (s : State) (x : LiftSetting) : Lasts cl rd s (s.setLiftSetting x) := by
  unfold State.setLiftSetting
  dsimp only
  split
  · exact .aside
  · exact .aside
  · split <;> exact .aside

theorem lasts_liftSet (x : Byte) (e : Ev) : Lasts cl rd e.st (e.liftSet x).1.st := by
  have decided : ∀ (o : Origin) (e : Ev), Lasts cl rd e.st (e.liftDecide o).1.st := fun o e =>
    .of_fixed (grows_liftDecide cl o e) (Ev.liftDecide_fixed o e)
  unfold Ev.liftSet
  split
  · exact .aside
  · next y _ =>
    split
    · exact .aside
    · have taken : Lasts cl rd e.st ((e.on fun s => s.setLiftSetting y).liftDecide (.master .cab)).1.st :=
        carried_lasts.trans (lasts_setLiftSetting e.st y) (decided (.master .cab) (e.on fun s => s.setLiftSetting y))
      dsimp only
      split
      · exact taken
      · exact carried_lasts.trans taken .aside
      · exact taken

/-- A target by request within HMIN to HMAX keeps the height target in its range. -/
theorem lasts_requestTarget (m : Master) (x : Nat) (c : Bool) (e : Ev) (range : SettingsLegal e.st → hMin ≤ x ∧ x ≤ hMax) :
    Lasts cl rd e.st (e.requestTarget m x c).1.st := by
  have asked : Lasts cl rd e.st (e.immediateAsk x (.master m) false).1.st :=
    .of_fixed (grows_immediateAsk cl x _ false e) (Ev.immediateAsk_fixed x _ false e)
  have moved : Lasts cl rd e.st ((e.immediateAsk x (.master m) false).1.on fun s => s.setHeightTarget x).st :=
    .of_grows ((grows_immediateAsk cl x _ false e).trans .aside) fun legal _ => range legal
  unfold Ev.requestTarget
  split
  · exact .aside
  · dsimp only
    split
    · exact asked
    · exact moved
    · exact moved

theorem lasts_heightSet (m : Master) (a : HeightArg) (e : Ev) : Lasts cl rd e.st (e.heightSet m a).1.st := by
  unfold Ev.heightSet
  split
  · exact .aside
  · next v _ =>
    split
    · exact .aside
    · have asked : Lasts cl rd e.st (e.requestTarget m (clamp hMin hMax v).1 (clamp hMin hMax v).2).1.st :=
        lasts_requestTarget m _ _ e fun _ => clamp_range (by decide) v
      dsimp only
      split
      · exact asked
      · split
        · exact carried_lasts.trans asked .aside
        · exact asked

theorem lasts_rideReturn (m : Master) (e : Ev) : Lasts cl rd e.st (e.rideReturn m).1.st := by
  unfold Ev.rideReturn
  split
  · exact .aside
  · split
    · exact .aside
    · split
      · exact .aside
      · exact lasts_requestTarget m _ _ e fun legal => Fixed.nominal_range (f := e.st.fixed) legal

theorem lasts_sequence (p q : Byte) (e : Ev) : Lasts cl rd e.st (e.sequence p q).1.st := by
  refine .of_fixed ?_ (Ev.sequence_fixed p q e)
  unfold Ev.sequence
  split
  · dsimp only
    split <;> exact grows_placePoint cl _ _ _ e
  · exact .refl _ _

theorem lasts_faultClear (n : Byte) (e : Ev) : Lasts true rd e.st (e.faultClear n).1.st := by
  refine .of_fixed ?_ (Ev.faultClear_fixed n e)
  unfold Ev.faultClear
  split
  · exact .refl _ _
  · split
    · exact grows_clearFaults _ e
    · exact .refl _ _

theorem lasts_paramWritten (n : Nat) (e : Ev) : Lasts cl rd e.st (e.paramWritten n).st := by
  refine .of_fixed ?_ (Ev.paramWritten_fixed n e)
  unfold Ev.paramWritten
  split
  · exact grows_recomputeAll cl _ e
  · exact grows_brakeDecision cl e
  · exact grows_recomputeAll cl _ e
  · exact grows_liftTimerTest cl e
  · exact grows_overloadTest cl e
  · exact grows_recomputeAll cl _ e
  · exact .refl _ _

theorem lasts_configWrite (n : Byte) (v : Half) (e : Ev) : Lasts cl rd e.st (e.configWrite n v).1.st := by
  unfold Ev.configWrite
  split
  · exact .aside
  · next accepted =>
    obtain ⟨enc, ok⟩ := configRefusal_none accepted
    have written : Lasts cl rd e.st (e.st.writeParam n.toNat v.toNat) := .of_settings fun legal => Settings.legal_setParam legal enc ok
    exact carried_lasts.trans written (lasts_paramWritten n.toNat (e.on fun s => s.writeParam n.toNat v.toNat))

theorem lasts_stopAll (m : Master) (e : Ev) : Lasts cl rd e.st (e.stopAll m).1.st := by
  refine .of_fixed ?_ (Ev.stopAll_fixed m e)
  exact Grows.trans .aside (grows_cutBoth cl _ _)

theorem lasts_latchTest (m : Master) (e : Ev) : Lasts cl rd e.st (e.latchTest m).st := by
  refine .of_fixed ⟨fun k => ?_, le_rfl, le_rfl, le_rfl, le_rfl, fun _ _ h => h, rfl, fun _ => rfl, fun _ _ h => h⟩ (Ev.latchTest_fixed m e)
  show LatchesLe _ ((e.st.evu.latches.set m _).get k)
  rw [PerMaster.get_set_if]
  split
  · next same => rw [same]; exact latchInto_le _ _ _
  · exact .refl _

/-- A status read clears the sender's own set alone (R161). -/
theorem lasts_readStatus (h : Hdr) (s : State) : Lasts false (some h.sender) s (s.readStatus h) := by
  have rearmed : ∀ u : State, Lasts false (some h.sender) u (u.rearm h.sender) := fun u =>
    { latches := fun m other => by
        show LatchesLe _ ((u.evu.latches.set h.sender _).get m)
        rw [PerMaster.get_set_ne _ _ fun same => other (congrArg some same.symm)]
        exact .refl _
      height := le_rfl, lift := le_rfl, tyre := le_rfl, point := le_rfl
      faults := fun _ _ f => f, ranges := fun legal r => ⟨legal, r.overrides, r.tyres, r.height⟩ }
  have queued : Lasts false (some h.sender) s (s.enqueue (s.statusReply h)).1 :=
    .of_fixed (grows_queued false (queued_enqueue s _)) (queued_enqueue s _).fixed
  unfold State.readStatus
  split
  · exact rearmed s
  · dsimp only
    split
    · exact carried_lasts.trans queued (rearmed _)
    · exact queued

/-! ### The commands -/

/-- Whether a command clears fault flags. -/
def clearsFaults : Instr → Bool
  | .faultClear .. => true
  | _ => false

/-- The master whose latch set a command clears. -/
def readsStatus : Instr → Option Master
  | .statusRead h => some h.sender
  | _ => none

/-- The start targets, which the guard raises (R39), lie in the range of targets. -/
theorem startTargets_range {w : Settings} (legal : w.legal = true) (u : Tyre) :
    tyreMin ≤ (startTargets w).get u ∧ (startTargets w).get u ≤ tyreMax := by
  obtain ⟨⟨-, high⟩, holding⟩ := legal_ranges legal
  obtain ⟨⟨low, top⟩, -⟩ := holding u
  have formed : (startTargets w).get u = max (w.road.get u) w.guardFloor := by cases u <;> rfl
  rw [formed]
  unfold tyreMin tyreMax at *
  omega

theorem targetsInRange_startValues {w : Settings} (legal : w.legal = true) (p : Phase) (i : Option (List Half)) (n k : Nat)
    (q : List Instr) : TargetsInRange (State.startValues p w (startTargets w) i n k q) where
  overrides u v some := by cases u <;> cases some
  tyres u := by
    have target : ((State.startValues p w (startTargets w) i n k q).tgu.tyres.get u).target = (startTargets w).get u := by
      cases u <;> rfl
    rw [target]
    exact startTargets_range legal u
  height := Settings.nominal_range legal .road

theorem start_ranges (s : State) : SettingsLegal s.start ∧ TargetsInRange s.start := by
  have legal := legal_loadImage s.sts.image
  have started := targetsInRange_startValues legal .starting s.sts.image s.now s.freeCount s.pending
  suffices lasts : Lasts false none (State.startValues .starting (loadImage s.sts.image).1 (startTargets (loadImage s.sts.image).1)
      s.sts.image s.now s.freeCount s.pending) s.start from lasts.ranges legal started
  unfold State.start
  dsimp only
  refine carried_lasts.trans ?_ (carried_lasts.close none _)
  split
  · exact .of_fixed (grows_latch false (Ev.of _) .storeLost []) (Ev.latch_fixed (Ev.of _) .storeLost [])
  · exact carried_lasts.refl _

theorem lasts_exec (c : Instr) (s : State) (noReset : c ≠ .resetAssert) (noStart : c ≠ .start) :
    ∃ t, exec c s = .next t ∧ Lasts (clearsFaults c) (readsStatus c) s t := by
  have k : Carried (Lasts (clearsFaults c) (readsStatus c)) := carried_lasts
  cases c with
  | resetAssert => exact absurd rfl noReset
  | start => exact absurd rfl noStart
  | pressureArrival n x => exact ⟨_, rfl, k.event fun e => lasts_pressure n x e⟩
  | heightArrival sd x => exact ⟨_, rfl, k.event fun e => lasts_height sd x _ _ e⟩
  | openTimerExpiry g => exact ⟨_, rfl, k.event fun e => .of_fixed (grows_openExpiry _ e.st g) (State.openExpiry_fixed e.st g)⟩
  | stepTimeout g => exact ⟨_, rfl, k.event fun e => .of_fixed (grows_stepExpiry _ e.st g) (State.stepExpiry_fixed e.st g)⟩
  | closeTimerExpiry g => exact ⟨_, rfl, k.event fun e => .of_fixed (grows_closeExpiry _ g e) (Ev.closeExpiry_fixed g e)⟩
  | settleExpiry g => exact ⟨_, rfl, k.event fun e => .of_fixed (grows_settleExpiry _ g e) (Ev.settleExpiry_fixed g e)⟩
  | tyrePersistenceExpiry t => exact ⟨_, rfl, k.event fun e => k.ite (.of_fixed (grows_tyreExpiry _ t e) (Ev.tyreExpiry_fixed t e))⟩
  | heightPersistenceExpiry => exact ⟨_, rfl, k.event fun e => k.ite (.of_fixed (grows_heightExpiry _ e) (Ev.heightExpiry_fixed e))⟩
  | overSpeedExpiry => exact ⟨_, rfl, k.event fun e => k.ite (.of_fixed (grows_guardOn _ e) (guardOn_fixed e))⟩
  | underSpeedExpiry => exact ⟨_, rfl, k.event fun e => k.ite (.of_fixed (grows_guardOff _ e) (guardOff_fixed e))⟩
  | brakeSilenceExpiry =>
    exact ⟨_, rfl, k.event fun e => k.ite <| k.trans (t := { e.st with lku.brakeSilence := none }) .aside
      (k.ite (e := e.on fun s => { s with lku.brakeSilence := none }) (lasts_brakeLinkLost _))⟩
  | panelSilenceExpiry =>
    exact ⟨_, rfl, k.event fun e => k.ite <| k.trans (t := { e.st with lku.panelSilence := none }) .aside
      (k.ite (e := e.on fun s => { s with lku.panelSilence := none }) (lasts_panelLinkLost _))⟩
  | panelAuthorityExpiry =>
    exact ⟨_, rfl, k.event fun e => k.ite <| k.trans (t := { e.st with hlc.authT := none }) .aside
      (lasts_lapse (e.on fun s => { s with hlc.authT := none }))⟩
  | stretchExpiry =>
    refine ⟨_, rfl, k.event fun e => ?_⟩
    rw [Ev.on_st]
    unfold State.stretchEnd
    split <;> exact .aside
  | freshnessExpiry sd => exact ⟨_, rfl, k.event fun e => .aside⟩
  | liftTimerExpiry =>
    exact ⟨_, rfl, k.event fun e => k.ite <| k.trans (t := { e.st with llu.liftT := none }) .aside
      (.of_fixed (grows_aimTo _ true (e.on fun s => { s with llu.liftT := none })) (Ev.aimTo_fixed true _))⟩
  | snapshotExpiry w => exact ⟨_, rfl, k.event fun e => k.ite .aside⟩
  | windowExpiry w => exact ⟨_, rfl, k.event fun e => k.ite (.of_fixed (grows_windowEnd _ w e) (Ev.windowEnd_fixed w e))⟩
  | supplyWindowExpiry => exact ⟨_, rfl, k.event fun e => k.ite (lasts_supplyExpiry e)⟩
  | storeWriteEnd =>
    refine ⟨_, rfl, k.event fun e => ?_⟩
    rw [Ev.on_st]
    unfold State.endWrite
    split <;> exact .aside
  | statePeriod => exact ⟨_, rfl, k.event fun e => k.ite .aside⟩
  | nodesPeriod => exact ⟨_, rfl, k.event fun e => k.ite .aside⟩
  | loadPeriod => exact ⟨_, rfl, k.event fun e => k.ite .aside⟩
  | busIdle => exact ⟨_, rfl, k.port (by unfold State.busIdle; split <;> exact .aside)⟩
  | busOff => exact ⟨_, rfl, k.port (by unfold State.busOff; split <;> exact .aside)⟩
  | canFrameReceived f =>
    refine ⟨_, rfl, k.port ?_⟩
    unfold State.canReceive
    split
    · split
      · split <;> exact .aside
      · exact .aside
    · exact .aside
  | canFrameSent => exact ⟨_, rfl, k.port (by unfold State.canSent; split <;> exact .aside)⟩
  | canTransmitRetry => exact ⟨_, rfl, k.port (by unfold State.canRetry; split <;> exact .aside)⟩
  | panelByteReceived b x => exact ⟨_, rfl, k.port (by unfold State.panelByte; split <;> exact .aside)⟩
  | panelGapTimeout => exact ⟨_, rfl, k.port (f := State.panelGap) .aside⟩
  | panelSendStart => exact ⟨_, rfl, k.port (by unfold State.panelSend; split <;> exact .aside)⟩
  | panelFrameSent => exact ⟨_, rfl, k.port (by unfold State.panelSent; split <;> exact .aside)⟩
  | unknownRequest h kind => exact k.unknown h kind s
  | modeSet h m => exact ⟨_, rfl, k.request fun e => lasts_modeSet m e⟩
  | tyreSet h n f v => exact ⟨_, rfl, k.request fun e => lasts_tyreSet n f v e⟩
  | tyreSetClear h n v => exact ⟨_, rfl, k.request fun e => lasts_tyreSetClear n v e⟩
  | profileWrite h n p v => exact ⟨_, rfl, k.request fun e => lasts_profileWrite n p v e⟩
  | profileRead h n => exact ⟨_, rfl, k.request fun e => by rw [Ev.profileRead_st]; exact .aside⟩
  | liftSet h x => exact ⟨_, rfl, k.request fun e => lasts_liftSet x e⟩
  | sequence h p q => exact ⟨_, rfl, k.request fun e => lasts_sequence p q e⟩
  | faultClear h n => exact ⟨_, rfl, k.request fun e => lasts_faultClear n e⟩
  | configRead h n => exact ⟨_, rfl, k.request fun e => by rw [Ev.configRead_st]; exact .aside⟩
  | configWrite h n v => exact ⟨_, rfl, k.request fun e => lasts_configWrite n v e⟩
  | store h =>
    refine ⟨_, rfl, k.request fun e => ?_⟩
    unfold Ev.storeSettings
    split <;> exact .aside
  | heightSet h a => exact ⟨_, rfl, k.request fun e => lasts_heightSet h.sender a e⟩
  | heightAuthorityTake h v =>
    refine ⟨_, rfl, k.request fun e => ?_⟩
    unfold Ev.authorityTake
    split
    · exact .aside
    · split <;> exact .aside
  | heightAuthorityRelease h => exact ⟨_, rfl, k.request fun e => k.ite .aside⟩
  | rideReturn h => exact ⟨_, rfl, k.request fun e => lasts_rideReturn h.sender e⟩
  | vehicleData h v b x => exact ⟨_, rfl, k.request fun e => lasts_vehicleData v b x e⟩
  | panelAlive h => exact ⟨_, rfl, k.request fun e => .aside⟩
  | cancel h x y n => exact ⟨_, rfl, k.request fun e => .of_fixed (grows_cancel _ h.sender x y n e) (Ev.cancel_fixed h.sender x y n e)⟩
  | stop h => exact ⟨_, rfl, k.request fun e => lasts_stopAll h.sender e⟩
  | resume h => exact ⟨_, rfl, k.request fun e => lasts_setStop _ e⟩
  | statusRead h => exact k.statusRead h s fun s => lasts_readStatus h s
  | maskSet h x =>
    refine ⟨_, rfl, k.request fun e => ?_⟩
    unfold Ev.maskSet
    split <;> exact .aside
  | testEvent h => exact ⟨_, rfl, k.request fun e => lasts_latchTest h.sender e⟩

/-! ### The obligations -/

/-- Settles O9: RESET_ASSERT and START form targets in range of a legal set, and every other command keeps them so. -/
theorem targetsInRangeKept : Obligations.TargetsInRangeKept := by
  intro s t legal inRange stepped
  refine (step_keeps (P := fun s => SettingsLegal s ∧ TargetsInRange s) ?_ ?_ (fun c s held => ?_) ⟨legal, inRange⟩ stepped).2
  · exact fun _ _ held => ⟨held.1, held.2.overrides, held.2.tyres, held.2.height⟩
  · exact fun _ held => ⟨held.1, held.2.overrides, held.2.tyres, held.2.height⟩
  · by_cases reset : c = .resetAssert
    · subst reset
      exact ⟨_, rfl, default_legal, resetIsSafe.2.2.2.1.overrides, resetIsSafe.2.2.2.1.tyres, resetIsSafe.2.2.2.1.height⟩
    by_cases start : c = .start
    · subst start
      exact ⟨_, rfl, start_ranges s⟩
    obtain ⟨t, ran, lasts⟩ := lasts_exec c s reset start
    exact ⟨t, ran, lasts.ranges held.1 held.2⟩

/-- Settles O11. -/
theorem latchesAndFaultsStay : Obligations.LatchesAndFaultsStay := by
  intro c s t ran noReset noStart
  obtain ⟨u, ran', lasts⟩ := lasts_exec c s noReset noStart
  rw [ran] at ran'
  cases ran'
  refine ⟨fun m other => lasts.latches m fun read => ?_, fun kept => lasts.faults ?_, lasts.height, lasts.lift, lasts.tyre, lasts.point⟩
  · cases c with
    | statusRead h => exact other h rfl (Option.some.inj read)
    | _ => cases read
  · cases c with
    | faultClear h n => exact absurd rfl (kept h n)
    | _ => rfl

end Sys2Proof.Machine
end

section
/-! SUPPORT. The reading arrivals (R7 to R12): the sample round on the fixed fields, what each node's receivers write, and the air account at
an RSV arrival; and the lockout of a height sensor while no transfer is live. -/

set_option Elab.async false

namespace Sys2Proof.Machine

/-! ### The sample round (R7, R171) -/

/-- The end of an arrival at the measurement unit, on the fixed fields. -/
def Fixed.rounded (f : Fixed) : Fixed :=
  if f.msu.roundComplete then
    let g : Fixed := { f with msu.nodeSeen := PerNode.fill false, msu.sideSeen := PerSide.fill false }
    if f.sts.phase = .starting then
      { g with sts.phase := .run, stateT := some ⟨f.now, stateTime⟩, nodesT := some ⟨f.now, nodesTime⟩, loadT := some ⟨f.now, loadTime⟩ }
    else g
  else f

theorem State.endRound_rounded (s : State) : s.endRound.fixed = s.fixed.rounded := by
  unfold State.endRound Fixed.rounded
  rw [show s.fixed.msu = s.msu from rfl, show s.fixed.sts = s.sts from rfl]
  split
  · split <;> rfl
  · rfl

/-- The end of a round writes the round, the phase and the period timers. -/
theorem Fixed.rounded_eq (f : Fixed) : f.rounded = { f with
    msu := f.rounded.msu, sts.phase := f.rounded.sts.phase
    stateT := f.rounded.stateT, nodesT := f.rounded.nodesT, loadT := f.rounded.loadT } := by
  unfold Fixed.rounded
  split
  · split <;> rfl
  · rfl

theorem Fixed.rounded_tables (f : Fixed) : f.rounded.msu.nodes = f.msu.nodes ∧ f.rounded.msu.heights = f.msu.heights := by
  unfold Fixed.rounded
  split
  · split <;> exact ⟨rfl, rfl⟩
  · exact ⟨rfl, rfl⟩

theorem Msu.roundComplete_iff {x : Msu} : x.roundComplete = true ↔
    (∀ n, x.nodeSeen.get n = true) ∧ x.sideSeen.left = true ∧ x.sideSeen.right = true := by
  have every : ∀ n : Node, n ∈ Node.list := fun n => by cases n <;> decide
  unfold Msu.roundComplete
  rw [Bool.and_eq_true, Bool.and_eq_true, List.all_eq_true, and_assoc]
  exact and_congr_left' ⟨fun all n => all n (every n), fun all n _ => all n⟩

/-- What an arrival does about the round: the last one begins the next round and enters RUN, any other leaves all but its mark. -/
def RoundStep (f : Fixed) (complete : Prop) (g : Fixed) : Prop :=
  (complete → g.sts.phase = .run ∧ g.msu.nodeSeen = PerNode.fill false ∧ g.msu.sideSeen = PerSide.fill false ∧
    (f.sts.phase = .starting → g.stateT = some ⟨f.now, 500⟩ ∧ g.nodesT = some ⟨f.now, 1000⟩ ∧ g.loadT = some ⟨f.now, 100⟩) ∧
    (f.sts.phase = .run → g.stateT = f.stateT ∧ g.nodesT = f.nodesT ∧ g.loadT = f.loadT)) ∧
  (¬ complete → g.sts.phase = f.sts.phase ∧ g.msu.nodeSeen = f.msu.nodeSeen ∧ g.msu.sideSeen = f.msu.sideSeen ∧
    g.stateT = f.stateT ∧ g.nodesT = f.nodesT ∧ g.loadT = f.loadT)

theorem Fixed.roundStep (f : Fixed) (run : f.sts.phase ≠ .reset) : RoundStep f (f.msu.roundComplete = true) f.rounded := by
  unfold Fixed.rounded
  refine ⟨fun complete => ?_, fun more => ?_⟩
  · rw [if_pos complete]
    dsimp only
    split
    · next starting => exact ⟨rfl, rfl, rfl, fun _ => ⟨rfl, rfl, rfl⟩, fun other => absurd (starting.symm.trans other) (by decide)⟩
    · next other =>
      refine ⟨?_, rfl, rfl, fun starting => absurd starting other, fun _ => ⟨rfl, rfl, rfl⟩⟩
      show f.sts.phase = .run
      cases phase : f.sts.phase with
      | reset => exact absurd phase run
      | starting => exact absurd phase other
      | run => rfl
  · rw [if_neg more]
    exact ⟨rfl, rfl, rfl, rfl, rfl, rfl⟩

/-! ### The receivers of a pressure (R9) -/

/-- The monitor and the sensor fault of an arrival write no fixed field. -/
theorem watch_sensorFault_fixed (n : Node) (e : Ev) : ((e.watch n).sensorFault n).st.fixed = e.st.fixed := by
  rw [Ev.sensorFault_fixed, watch_fixed]

theorem pressureReceivers_rsv (e : Ev) : (e.pressureReceivers .rsv).st.fixed = e.st.supplyArrival.fixed := by
  unfold Ev.pressureReceivers
  rw [watch_sensorFault_fixed]
  dsimp only
  rw [rsvArrival_fixed]
  rfl

theorem pressureReceivers_bellows (sd : Side) (e : Ev) :
    (e.pressureReceivers sd.bellows.node).st.fixed = (e.settledLoad sd).st.fixed := by
  unfold Ev.pressureReceivers
  rw [watch_sensorFault_fixed]
  cases sd
  · exact pressureEnds_fixed ..
  · exact pressureEnds_fixed ..

theorem pressureReceivers_lft (e : Ev) : (e.pressureReceivers .lft).st.fixed = { e.st.fixed with lftSeen := true } := by
  unfold Ev.pressureReceivers
  rw [watch_sensorFault_fixed]
  dsimp only
  rw [pressureEnds_fixed, Ev.lftArrival, Ev.liftAuto_fixed, firstLft_fixed]

theorem pressureReceivers_tyre (t : Tyre) (e : Ev) : (e.pressureReceivers t.node).st.fixed = e.st.fixed := by
  have handed : ∀ m, ((e.tyreLoop t).pressureEnds m).st.fixed = e.st.fixed := fun m => by rw [pressureEnds_fixed, Ev.tyreLoop_fixed]
  unfold Ev.pressureReceivers
  rw [watch_sensorFault_fixed]
  cases t <;> exact handed _

/-- The settled load writes the side's load and freshness, or nothing. -/
theorem settledLoad_frame (sd : Side) (e : Ev) :
    ∃ load fresh, (e.settledLoad sd).st.fixed = { e.st.fixed with load := load, fresh := fresh } := by
  rw [settledLoad_fixed]
  split
  · split
    · exact ⟨_, _, rfl⟩
    · exact ⟨_, _, rfl⟩
  · exact ⟨_, _, rfl⟩

/-- The receivers of a pressure write their own fixed fields alone: the account's for RSV, the side loads for a bellows, the mark of the
first reading for LFT. -/
theorem pressureReceivers_frame (n : Node) (e : Ev) :
    ∃ reported supply recovery load fresh, (e.pressureReceivers n).st.fixed = { e.st.fixed with
      reported := if n = .rsv then reported else e.st.aac.reported
      supply := if n = .rsv then supply else e.st.aac.supply
      recovery := if n = .rsv then recovery else e.st.aac.recovery
      load := if n = .bll ∨ n = .blr then load else e.st.llu.load
      fresh := if n = .bll ∨ n = .blr then fresh else e.st.llu.fresh
      lftSeen := e.st.llu.lftSeen || n == .lft } := by
  have seen : (e.st.llu.lftSeen || false) = e.st.llu.lftSeen := Bool.or_false _
  have tyre : ∀ t : Tyre, (e.pressureReceivers t.node).st.fixed = { e.st.fixed with lftSeen := e.st.llu.lftSeen || false } := fun t => by
    rw [seen]
    exact pressureReceivers_tyre t e
  have bellows : ∀ sd : Side, ∃ load fresh, (e.pressureReceivers sd.bellows.node).st.fixed =
      { e.st.fixed with load := load, fresh := fresh, lftSeen := e.st.llu.lftSeen || false } := fun sd => by
    rw [seen, pressureReceivers_bellows]
    exact settledLoad_frame sd e
  cases n with
  | rsv =>
    obtain ⟨supply, recovery, arrived⟩ := supplyArrival_fixed e.st
    refine ⟨e.st.headroom, supply, recovery, e.st.llu.load, e.st.llu.fresh, ?_⟩
    rw [pressureReceivers_rsv, arrived, show (Node.rsv == Node.lft) = false from rfl, seen]
    rfl
  | bll =>
    obtain ⟨load, fresh, settled⟩ := bellows .left
    exact ⟨0, true, none, load, fresh, settled⟩
  | blr =>
    obtain ⟨load, fresh, settled⟩ := bellows .right
    exact ⟨0, true, none, load, fresh, settled⟩
  | lft =>
    refine ⟨0, true, none, e.st.llu.load, e.st.llu.fresh, ?_⟩
    rw [pressureReceivers_lft, show (Node.lft == Node.lft) = true from rfl, Bool.or_true]
    rfl
  | t1l => exact ⟨0, true, none, e.st.llu.load, e.st.llu.fresh, tyre .t1l⟩
  | t1r => exact ⟨0, true, none, e.st.llu.load, e.st.llu.fresh, tyre .t1r⟩
  | t2l => exact ⟨0, true, none, e.st.llu.load, e.st.llu.fresh, tyre .t2l⟩
  | t2r => exact ⟨0, true, none, e.st.llu.load, e.st.llu.fresh, tyre .t2r⟩
  | t3l => exact ⟨0, true, none, e.st.llu.load, e.st.llu.fresh, tyre .t3l⟩
  | t3r => exact ⟨0, true, none, e.st.llu.load, e.st.llu.fresh, tyre .t3r⟩

/-! ### The two commands -/

section arrivals

variable {s : State}

/-- The event of a pressure arrival once its receivers have had it. -/
def State.pressured (s : State) (n : Node) (x : Sample) : Ev := ((Ev.of s).on fun s => s.takePressure n x).pressureReceivers n

/-- The event of a height arrival once its receivers have had it. -/
def State.levelled (s : State) (sd : Side) (x : Sample) : Ev :=
  ((Ev.of s).on fun s => s.takeHeight sd x).heightReceivers sd (heightValid x)
    (!heightValid x && decide ((s.msu.heights.get sd).run + 1 = runMax))

theorem exec_pressureArrival (run : s.sts.phase ≠ .reset) (n : Node) (x : Sample) :
    exec (.pressureArrival n x) s = .next (((s.pressured n x).on State.endRound).close none) := congrArg Host.Outcome.next (event_run run)

theorem exec_heightArrival (run : s.sts.phase ≠ .reset) (sd : Side) (x : Sample) :
    exec (.heightArrival sd x) s = .next (((s.levelled sd x).on State.endRound).close none) := congrArg Host.Outcome.next (event_run run)

/-- The close of an arrival leaves the fixed fields of its event after the round, but for the queues. -/
theorem close_rounded (e : Ev) : ((e.on State.endRound).close none).fixed =
    { e.st.fixed.rounded with lku := ((e.on State.endRound).close none).lku, freeCount := ((e.on State.endRound).close none).freeCount } := by
  rw [close_fixed, Ev.on_st, State.endRound_rounded]

theorem close_rounded_link {e : Ev} (lku : e.st.lku = s.lku) : SameLink s ((e.on State.endRound).close none) := by
  have linked := close_link none (e.on State.endRound)
  have same : (e.on State.endRound).st.lku = s.lku := by
    have kept := congrArg Fixed.lku ((State.endRound_rounded e.st).trans (Fixed.rounded_eq _))
    exact kept.trans lku
  unfold SameLink at *
  rw [same] at linked
  exact linked

theorem pressureValid_iff (x : Sample) : pressureValid x = true ↔ x.inBand = true ∧ 0 ≤ x.value ∧ x.value ≤ 1200 := by
  unfold pressureValid
  rw [Bool.and_eq_true, Bool.and_eq_true, decide_eq_true_eq, decide_eq_true_eq, and_assoc]
  exact Iff.rfl

theorem heightValid_iff (x : Sample) : heightValid x = true ↔ x.inBand = true ∧ 0 ≤ x.value ∧ x.value ≤ 400 := by
  unfold heightValid
  rw [Bool.and_eq_true, Bool.and_eq_true, decide_eq_true_eq, decide_eq_true_eq, and_assoc]
  exact Iff.rfl

theorem Reading.after_eq (r : Reading) (x : Sample) : r.after x =
    if x.inBand = true ∧ 0 ≤ x.value ∧ x.value ≤ 1200 then { value := x.value.toNat, valid := true, run := 0 }
    else { value := r.value, valid := false, run := min 10 (r.run + 1) } := by
  simp only [Reading.after, pressureValid_iff, runMax]

/-- The newest of a full ring that a value joins (R10, R133). -/
theorem ring_push {ring : List Nat} {size : Nat} (bound : ring.length ≤ size) (room : 0 < size) (v : Nat) :
    (ring ++ [v]).drop (ring.length + 1 - size) = if ring.length = size then ring.tail ++ [v] else ring ++ [v] := by
  split
  · next full =>
    rw [full, show size + 1 - size = 1 by omega, List.drop_one]
    exact List.tail_append_of_ne_nil (List.ne_nil_of_length_pos (by omega))
  · rw [show ring.length + 1 - size = 0 by omega, List.drop_zero]

theorem HeightEntry.after_eq {h : HeightEntry} (bound : h.ring.length ≤ 8) (x : Sample) : h.after x =
    if x.inBand = true ∧ 0 ≤ x.value ∧ x.value ≤ 400 then
      { valid := true, run := 0, ring := if h.ring.length = 8 then h.ring.tail ++ [x.value.toNat] else h.ring ++ [x.value.toNat] }
    else { valid := false, run := min 10 (h.run + 1), ring := h.ring } := by
  simp only [HeightEntry.after, heightValid_iff, ringSize, ring_push bound (show 0 < 8 by decide), runMax]

/-- Settles O14. -/
theorem pressureArrivalUpdatesEntry : Obligations.PressureArrivalUpdatesEntry := by
  intro s n x run
  refine ⟨_, exec_pressureArrival run n x, ?_⟩
  obtain ⟨reported, supply, recovery, load, fresh, received⟩ :=
    pressureReceivers_frame n ((Ev.of s).on fun s => s.takePressure n x)
  have closed := close_rounded (s.pressured n x)
  have linked : (s.pressured n x).st.lku = s.lku := congrArg Fixed.lku received
  have link := close_rounded_link linked
  generalize ((s.pressured n x).on State.endRound).close none = t at closed link ⊢
  have tables := Fixed.rounded_tables (s.pressured n x).st.fixed
  have msu : t.msu = (s.pressured n x).st.fixed.rounded.msu := congrArg Fixed.msu closed
  have taken : (s.pressured n x).st.fixed.msu = (s.takePressure n x).msu := congrArg Fixed.msu received
  refine ⟨?_, ?_, ?_, link⟩
  · rw [msu, tables.1, taken, State.takePressure_msu]
    dsimp only
    rw [PerNode.modify, Reading.after_eq]
  · rw [msu, tables.2, taken, State.takePressure_msu]
  · show t.fixed = { s.fixed with
        msu := t.fixed.msu, sts.phase := t.fixed.sts.phase, lku := t.lku, freeCount := t.freeCount
        reported := if n = .rsv then t.fixed.reported else s.aac.reported
        supply := if n = .rsv then t.fixed.supply else s.aac.supply
        recovery := if n = .rsv then t.fixed.recovery else s.aac.recovery
        load := if n = .bll ∨ n = .blr then t.fixed.load else s.llu.load
        fresh := if n = .bll ∨ n = .blr then t.fixed.fresh else s.llu.fresh
        lftSeen := s.llu.lftSeen || n == .lft
        stateT := t.fixed.stateT, nodesT := t.fixed.nodesT, loadT := t.fixed.loadT }
    rw [closed, Fixed.rounded_eq, State.pressured, received]
    cases n <;> rfl

theorem State.pressured_fixed (s : State) (n : Node) (x : Sample) : ∃ reported supply recovery load fresh seen,
    (s.pressured n x).st.fixed = { s.fixed with
      msu := (s.takePressure n x).msu, reported := reported, supply := supply, recovery := recovery, load := load, fresh := fresh
      lftSeen := seen } :=
  pressureReceivers_fixed n ((Ev.of s).on fun s => s.takePressure n x)

theorem State.levelled_fixed (s : State) (sd : Side) (x : Sample) : ∃ recounts,
    (s.levelled sd x).st.fixed = { s.fixed with msu := (s.takeHeight sd x).msu, recounts := recounts } :=
  heightReceivers_fixed sd _ _ ((Ev.of s).on fun s => s.takeHeight sd x)

/-- Settles O15. -/
theorem heightArrivalUpdatesRing : Obligations.HeightArrivalUpdatesRing := by
  intro s sd x run bound
  refine ⟨_, exec_heightArrival run sd x, ?_⟩
  obtain ⟨recounts, received⟩ := s.levelled_fixed sd x
  have closed := close_rounded (s.levelled sd x)
  have linked : (s.levelled sd x).st.lku = s.lku := congrArg Fixed.lku received
  have link := close_rounded_link linked
  generalize ((s.levelled sd x).on State.endRound).close none = t at closed link ⊢
  have tables := Fixed.rounded_tables (s.levelled sd x).st.fixed
  have msu : t.msu = (s.levelled sd x).st.fixed.rounded.msu := congrArg Fixed.msu closed
  have taken : (s.levelled sd x).st.fixed.msu = (s.takeHeight sd x).msu := congrArg Fixed.msu received
  refine ⟨?_, ?_, ?_, link, fun a b c d e f g h ring sound => ?_, fun unready => ?_⟩
  · rw [msu, tables.2, taken, State.takeHeight_msu]
    dsimp only
    rw [PerSide.modify, HeightEntry.after_eq bound]
  · rw [msu, tables.1, taken, State.takeHeight_msu]
  · show t.fixed = { s.fixed with
        msu := t.fixed.msu, sts.phase := t.fixed.sts.phase, lku := t.lku, freeCount := t.freeCount, recounts := t.fixed.recounts
        stateT := t.fixed.stateT, nodesT := t.fixed.nodesT, loadT := t.fixed.loadT }
    rw [closed, Fixed.rounded_eq, received]
  · have full : (t.msu.heights.get sd).ring.length = ringSize := by rw [ring]; rfl
    have sum : (t.msu.heights.get sd).ring.sum = a + b + c + d + e + f + g + h := by rw [ring]; simp only [List.sum_cons, List.sum_nil]; omega
    unfold State.height HeightEntry.filtered
    rw [if_pos ⟨full, sound⟩, sum]
  · unfold State.height HeightEntry.filtered
    refine if_neg fun ready => ?_
    rcases unready with short | spent
    · exact short ready.1
    · exact absurd ready.2 (Nat.not_lt.mpr spent)

/-- A step of the round holds of another state whose fixed fields agree but for the link unit and the counter. -/
theorem RoundStep.of_closed {f g : Fixed} {complete : Prop} {t : State} (h : RoundStep f complete g)
    (closed : t.fixed = { g with lku := t.lku, freeCount := t.freeCount }) : RoundStep f complete t.fixed := by
  rw [closed]
  exact h

theorem Msu.roundComplete_pressure (s : State) (n : Node) (x : Sample) : (s.takePressure n x).msu.roundComplete = true ↔
    (∀ n', n' ≠ n → s.msu.nodeSeen.get n' = true) ∧ s.msu.sideSeen.left = true ∧ s.msu.sideSeen.right = true := by
  rw [Msu.roundComplete_iff, State.takePressure_msu]
  refine and_congr_left' ⟨fun all n' other => ?_, fun all n' => ?_⟩
  · have seen := all n'
    rwa [PerNode.get_set_ne _ _ other] at seen
  · by_cases same : n' = n
    · rw [same, PerNode.get_set]
    · rw [PerNode.get_set_ne _ _ same]
      exact all n' same

theorem Msu.roundComplete_height (s : State) (sd : Side) (x : Sample) : (s.takeHeight sd x).msu.roundComplete = true ↔
    (∀ n, s.msu.nodeSeen.get n = true) ∧ ∀ sd', sd' ≠ sd → s.msu.sideSeen.get sd' = true := by
  rw [Msu.roundComplete_iff, State.takeHeight_msu]
  refine and_congr_right' ?_
  cases sd with
  | left =>
    refine ⟨fun both sd' other => ?_, fun all => ⟨rfl, all .right (by decide)⟩⟩
    cases sd' with
    | left => exact absurd rfl other
    | right => exact both.2
  | right =>
    refine ⟨fun both sd' other => ?_, fun all => ⟨all .left (by decide), rfl⟩⟩
    cases sd' with
    | left => exact both.1
    | right => exact absurd rfl other

/-- Settles O16. -/
theorem roundEntersRun : Obligations.RoundEntersRun := by
  refine ⟨fun s n x run => ⟨_, exec_pressureArrival run n x, ?_⟩, fun s sd x run => ⟨_, exec_heightArrival run sd x, ?_⟩⟩
  · obtain ⟨_, _, _, _, _, _, received⟩ := s.pressured_fixed n x
    have stepped := Fixed.roundStep (s.pressured n x).st.fixed (by rw [received]; exact run)
    have round := stepped.of_closed (close_rounded (s.pressured n x))
    rw [received] at round
    rw [← Msu.roundComplete_pressure s n x]
    exact round
  · obtain ⟨_, received⟩ := s.levelled_fixed sd x
    have stepped := Fixed.roundStep (s.levelled sd x).st.fixed (by rw [received]; exact run)
    have round := stepped.of_closed (close_rounded (s.levelled sd x))
    rw [received] at round
    rw [← Msu.roundComplete_height s sd x]
    exact round

/-! ### The air account at an RSV arrival (R41, R53) -/

theorem pressure_takePressure (s : State) (n : Node) (x : Sample) :
    (s.takePressure n x).pressure n = if x.inBand = true ∧ 0 ≤ x.value ∧ x.value ≤ 1200 then some x.value.toNat else none := by
  unfold State.pressure
  rw [State.takePressure_msu]
  dsimp only
  rw [PerNode.get_modify, Reading.after_eq]
  by_cases valid : x.inBand = true ∧ 0 ≤ x.value ∧ x.value ≤ 1200
  · rw [if_pos valid, if_pos valid]; rfl
  · rw [if_neg valid, if_neg valid]; rfl

/-- Opening a supply window leaves the condition and its reference. -/
theorem openWindow_aac (s : State) (g : Nat) : (s.openWindow g).aac = { s.aac with window := (s.openWindow g).aac.window } := by
  unfold State.openWindow
  split <;> rfl

theorem supplyReading_ok {s : State} (ok : s.aac.supply = true) (g : Nat) :
    (s.supplyReading g).aac = { s.aac with window := (s.supplyReading g).aac.window } := by
  unfold State.supplyReading
  rw [if_pos ok]
  split
  · split
    · rfl
    · split <;> rfl
  · exact openWindow_aac s g

section lost

variable {r g : Nat} (down : s.aac.supply = false) (reference : s.aac.recovery = some r)

include down reference

theorem supplyReading_lower (lower : g < r) : (s.supplyReading g).aac = { s.aac with recovery := some g } := by
  unfold State.supplyReading
  simp only [down, reference, if_pos lower, Bool.false_eq_true, if_false]

theorem supplyReading_between (low : r ≤ g) (high : g < r + 10) : (s.supplyReading g).aac = s.aac := by
  unfold State.supplyReading
  simp only [down, reference, if_neg (Nat.not_lt.mpr low), if_neg (show ¬ r + supplyRise ≤ g from Nat.not_le.mpr high),
    Bool.false_eq_true, if_false]

theorem supplyReading_risen (risen : r + 10 ≤ g) : (s.supplyReading g).aac =
    { s.aac with supply := true, recovery := none, window := (s.supplyReading g).aac.window } := by
  unfold State.supplyReading
  simp only [down, reference, if_neg (show ¬ g < r by omega), if_pos (show r + supplyRise ≤ g from risen), Bool.false_eq_true, if_false]
  exact openWindow_aac _ g

end lost

theorem supplyArrival_valid {s : State} {g : Nat} (valid : s.pressure .rsv = some g) :
    s.supplyArrival = s.reportHeadroom.supplyReading g := by
  unfold State.supplyArrival
  dsimp only
  rw [show s.reportHeadroom.pressure .rsv = some g from valid]

theorem supplyArrival_unordered {s : State} (unordered : s.pressure .rsv = none) : s.supplyArrival = s.reportHeadroom := by
  unfold State.supplyArrival
  dsimp only
  rw [show s.reportHeadroom.pressure .rsv = none from unordered]

theorem supplyArrival_reported (s : State) : s.supplyArrival.aac.reported = s.headroom := by
  obtain ⟨_, _, arrived⟩ := supplyArrival_fixed s
  exact congrArg Fixed.reported arrived

/-- Settles O18. -/
theorem rsvArrivalAccounts : Obligations.RsvArrivalAccounts := by
  intro s x run
  refine ⟨_, exec_pressureArrival run .rsv x, ?_⟩
  have closed := close_rounded (s.pressured .rsv x)
  rw [Fixed.rounded_eq] at closed
  have account : (s.pressured .rsv x).st.fixed = (s.takePressure .rsv x).supplyArrival.fixed := pressureReceivers_rsv _
  generalize ((s.pressured .rsv x).on State.endRound).close none = t at closed ⊢
  have reported : t.aac.reported = (s.takePressure .rsv x).headroom :=
    (congrArg Fixed.reported closed).trans ((congrArg Fixed.reported account).trans (supplyArrival_reported _))
  have supply : t.aac.supply = (s.takePressure .rsv x).supplyArrival.aac.supply :=
    (congrArg Fixed.supply closed).trans (congrArg Fixed.supply account)
  have recovery : t.aac.recovery = (s.takePressure .rsv x).supplyArrival.aac.recovery :=
    (congrArg Fixed.recovery closed).trans (congrArg Fixed.recovery account)
  have reading := pressure_takePressure s .rsv x
  rw [reported, supply, recovery]
  unfold State.headroom
  refine ⟨fun valid => ?_, fun invalid => ?_⟩
  · rw [if_pos valid] at reading
    rw [supplyArrival_valid reading, reading]
    refine ⟨rfl, fun ok => ?_, fun r down reference => ⟨fun lower => ?_, fun low high => ?_, fun risen => ?_⟩⟩
    · rw [supplyReading_ok (s := (s.takePressure .rsv x).reportHeadroom) ok]
      exact ⟨ok, rfl⟩
    · rw [supplyReading_lower (s := (s.takePressure .rsv x).reportHeadroom) down reference lower]
      exact ⟨down, rfl⟩
    · rw [supplyReading_between (s := (s.takePressure .rsv x).reportHeadroom) down reference low high]
      exact ⟨down, reference⟩
    · rw [supplyReading_risen (s := (s.takePressure .rsv x).reportHeadroom) down reference risen]
      exact ⟨rfl, rfl⟩
  · rw [if_neg invalid] at reading
    rw [supplyArrival_unordered reading, reading]
    exact ⟨rfl, rfl, rfl⟩

/-! ### The lockout of a height sensor, no transfer live (R114, R115) -/

section alone

variable {e : Ev} (empty : e.st.transfers = [])

include empty

theorem findDesc_of_empty (test : Desc → Bool) : e.st.findDesc test = none := by
  rw [State.findDesc_eq, empty, List.find?_nil]

theorem heightEnd_of_empty (g : Gallery) (sd : Side) : e.heightEnd g sd = e := by
  have idle : e.st.flowing g = none := by
    unfold State.flowing State.served State.descAt
    cases (e.st.glc.galleries.get g).flight with
    | none => rfl
    | some f => simp only [Option.bind_some, findDesc_of_empty empty]
  unfold Ev.heightEnd
  rw [idle]

theorem addCause_of_empty (x : Lockout) : (e.addCause x).st =
    if e.st.hlc.lockout.occupied then { e.st with hlc.lockout := x }
    else { e.st with hlc.lockout := x, hlc.persist := none, hlc.pending := false } := by
  unfold Ev.addCause
  split
  · rfl
  · dsimp only
    split
    · next d live =>
      exact absurd (live.symm.trans (findDesc_of_empty (e := e.on fun s => _) empty _)) (by simp)
    · rfl

end alone

theorem Lockout.setSensor_self {x : Lockout} {sd : Side} (h : x.sensor sd = true) : x.setSensor sd true = x := by
  cases sd with
  | left => rw [Lockout.setSensor, ← h]; rfl
  | right => rw [Lockout.setSensor, ← h]; rfl

theorem Lockout.setSensor_occupied (x : Lockout) (sd : Side) : (x.setSensor sd true).occupied = true := by
  cases sd <;> simp [Lockout.setSensor, Lockout.occupied]

/-- The arrival that brings the invalid run to 10: the cause stands and SENSOR_INVALID is latched. -/
theorem heightSensor_failed {e : Ev} (empty : e.st.transfers = []) (sd : Side) :
    let t := (e.heightSensor sd false true).st
    t.transfers = [] ∧ t.hlc.lockout = e.st.hlc.lockout.setSensor sd true ∧ LatchedAll t .sensorInvalid [sd.bellows.node] ∧
      (e.st.hlc.lockout.occupied = false → t.hlc.persist = none ∧ t.hlc.pending = false) := by
  have latched := latched_latch (e.on fun s => { s with hlc.recovery := s.hlc.recovery.set sd 0 }) .sensorInvalid [sd.bellows.node]
  have state := Ev.latch_st (e.on fun s => { s with hlc.recovery := s.hlc.recovery.set sd 0 }) .sensorInvalid [sd.bellows.node]
  unfold Ev.heightSensor
  rw [if_neg Bool.false_ne_true, if_pos rfl]
  dsimp only
  generalize Ev.latch .sensorInvalid [sd.bellows.node] (e.on fun s => { s with hlc.recovery := s.hlc.recovery.set sd 0 }) = e2 at *
  have records : e2.st.transfers = [] := by rw [state]; exact empty
  have lockout : e2.st.hlc.lockout = e.st.hlc.lockout := by rw [state]; rfl
  split
  · next cause =>
    refine ⟨records, ?_, latched, fun entry => ?_⟩
    · rw [← lockout, Lockout.setSensor_self cause]
    · have stands := Lockout.setSensor_occupied e2.st.hlc.lockout sd
      rw [Lockout.setSensor_self cause, lockout, entry] at stands
      cases stands
  · have grown := grows_addCause false (e2.st.hlc.lockout.setSensor sd true) e2
    refine ⟨?_, ?_, latched.grows grown, fun entry => ?_⟩
    · rw [addCause_of_empty records]
      split <;> exact records
    · rw [addCause_of_empty records, ← lockout]
      split <;> rfl
    · rw [addCause_of_empty records, lockout, entry]
      exact ⟨rfl, rfl⟩

/-- A hand-off without a mark writes the persistence timer alone (R111). -/
theorem heightHandOff_unmarked {e : Ev} (unmarked : e.st.hlc.pending = false) :
    e.heightHandOff = e ∨ e.heightHandOff = e.on State.heightDeadbandTest := by
  unfold Ev.heightHandOff
  rw [unmarked]
  cases e.st.loopState with
  | lockedOut => exact .inl rfl
  | correcting => exact .inl rfl
  | held => exact .inl rfl
  | steady => exact .inr rfl
  | pending => exact .inr rfl

theorem heightHandOff_lockedOut {e : Ev} (locked : e.st.hlc.lockout.occupied = true) : e.heightHandOff = e := by
  have state : e.st.loopState = .lockedOut := by unfold State.loopState; rw [if_pos locked]
  unfold Ev.heightHandOff
  rw [state]

theorem heightDeadbandTest_eq (s : State) : s.heightDeadbandTest = { s with hlc.persist := s.heightDeadbandTest.hlc.persist } := by
  unfold State.heightDeadbandTest
  split
  · rfl
  · split <;> rfl

/-- The end of a round writes the measurement unit, the phase and the period timers. -/
theorem State.endRound_eq (s : State) : s.endRound = { s with
    msu := s.endRound.msu, sts.phase := s.endRound.sts.phase
    evu.stateT := s.endRound.evu.stateT, evu.nodesT := s.endRound.evu.nodesT, evu.loadT := s.endRound.evu.loadT } := by
  unfold State.endRound
  split
  · split <;> rfl
  · rfl

/-- With no transfer live a scan finds nothing to grant: the close of an arrival leaves the height loop and the latches of its event. -/
theorem close_endRound_of_empty {e : Ev} (empty : e.st.transfers = []) :
    ((e.on State.endRound).close none).hlc = e.st.hlc ∧ ((e.on State.endRound).close none).evu.latches = e.st.evu.latches := by
  have rounded := State.endRound_eq e.st
  have records : (e.on State.endRound).st.transfers = [] := by
    rw [Ev.on_st, rounded]
    exact empty
  have queued := close_queued_noGrant none (e.on State.endRound) (fun d live => by rw [records] at live; cases live)
  refine ⟨?_, ?_⟩
  · rw [queued, Ev.on_st, rounded]
  · rw [queued, Ev.on_st, rounded]

/-- With no transfer live the end tests of a height arrival do nothing, and a hand-off that changes no record leaves the rest alone. -/
theorem heightReceivers_of_empty {e : Ev} {sd : Side} {valid failed : Bool} {t : State → State}
    (records : ∀ s, (t s).transfers = s.transfers) (empty : (e.heightSensor sd valid failed).st.transfers = [])
    (handed : (e.heightSensor sd valid failed).heightHandOff = (e.heightSensor sd valid failed) ∨
      (e.heightSensor sd valid failed).heightHandOff = (e.heightSensor sd valid failed).on t) :
    e.heightReceivers sd valid failed = e.heightSensor sd valid failed ∨
      e.heightReceivers sd valid failed = (e.heightSensor sd valid failed).on t := by
  have ends : ∀ e' : Ev, e'.st.transfers = [] → (e'.heightEnd .a sd).heightEnd .b sd = e' := fun e' none => by
    rw [heightEnd_of_empty none, heightEnd_of_empty none]
  have moved : ((e.heightSensor sd valid failed).on t).st.transfers = [] := (records _).trans empty
  unfold Ev.heightReceivers
  dsimp only
  split
  · rcases handed with same | changed
    · rw [same, ends _ empty]
      exact .inl rfl
    · rw [changed, ends _ moved]
      exact .inr rfl
  · rw [ends _ empty]
    exact .inl rfl

theorem heightSensor_uncaused {e : Ev} {sd : Side} (none : ¬ e.st.hlc.lockout.sensor sd = true) (r : Bool) :
    e.heightSensor sd true r = e := by
  unfold Ev.heightSensor
  rw [if_pos rfl, if_neg none]

/-- A valid arrival while the side's cause stands (R115). -/
theorem heightSensor_caused {e : Ev} {sd : Side} (cause : e.st.hlc.lockout.sensor sd = true) (r : Bool) :
    (e.heightSensor sd true r).st = { e.st with
      hlc.recovery := e.st.hlc.recovery.set sd (e.st.hlc.recovery.get sd + 1)
      hlc.lockout := if e.st.hlc.recovery.get sd + 1 < 8 then e.st.hlc.lockout else e.st.hlc.lockout.setSensor sd false } := by
  unfold Ev.heightSensor
  rw [if_pos rfl, if_pos cause]
  have counted : ∀ n : Nat, ∀ x y : Lockout, (if recoveryCount ≤ n then x else y) = if n < 8 then y else x := fun n x y => by
    unfold recoveryCount
    by_cases few : n < 8
    · rw [if_pos few, if_neg (Nat.not_le.mpr few)]
    · rw [if_neg few, if_pos (Nat.not_lt.mp few)]
  dsimp only
  rw [Ev.on_st, counted]

theorem heightSensor_invalid_recounts (sd : Side) (failed : Bool) (e : Ev) :
    (e.heightSensor sd false failed).st.fixed = { e.st.fixed with recounts := e.st.hlc.recovery.set sd 0 } := by
  unfold Ev.heightSensor
  rw [if_neg Bool.false_ne_true]
  dsimp only
  split
  · split
    · rw [Ev.latch_fixed]; rfl
    · rw [Ev.addCause_fixed, Ev.latch_fixed]; rfl
  · rfl

theorem heightReceivers_sensor (sd : Side) (valid failed : Bool) (e : Ev) :
    (e.heightReceivers sd valid failed).st.fixed = (e.heightSensor sd valid failed).st.fixed := by
  unfold Ev.heightReceivers
  dsimp only
  rw [Ev.heightEnd_fixed, Ev.heightEnd_fixed]
  split
  · exact Ev.heightHandOff_fixed _
  · rfl

theorem levelled_invalid_recovery {x : Sample} (invalid : heightValid x = false) (sd : Side) :
    (((s.levelled sd x).on State.endRound).close none).hlc.recovery = s.hlc.recovery.set sd 0 := by
  have closed := close_rounded (s.levelled sd x)
  rw [Fixed.rounded_eq] at closed
  have recounts : (s.levelled sd x).st.fixed.recounts = s.hlc.recovery.set sd 0 := by
    unfold State.levelled
    rw [heightReceivers_sensor, invalid, heightSensor_invalid_recounts]
    rfl
  exact (congrArg Fixed.recounts closed).trans recounts

/-- Settles O49: with no transfer live the end tests and the scans find nothing, so what the lockout and the hand-off leave stands. -/
theorem heightLockoutAndRecovery : Obligations.HeightLockoutAndRecovery := by
  intro s sd x run empty valid cause
  have taken : ((Ev.of s).on fun s => s.takeHeight sd x).st.transfers = [] := empty
  have hlc : ((Ev.of s).on fun s => s.takeHeight sd x).st.hlc = s.hlc := rfl
  refine ⟨_, exec_heightArrival run sd x, fun invalid => ?_, fun isValid unmarked => ?_⟩
  · have failing : heightValid x = false := Bool.eq_false_iff.mpr fun h => invalid ((heightValid_iff x).mp h)
    refine ⟨levelled_invalid_recovery failing sd, fun nine => ?_⟩
    have levelled : s.levelled sd x = ((Ev.of s).on fun s => s.takeHeight sd x).heightReceivers sd false true := by
      unfold State.levelled
      rw [failing, nine]
      rfl
    obtain ⟨records, lockout, latched, entry⟩ := heightSensor_failed taken sd
    have locked : (((Ev.of s).on fun s => s.takeHeight sd x).heightSensor sd false true).st.hlc.lockout.occupied = true := by
      rw [lockout]
      exact Lockout.setSensor_occupied _ sd
    have received : s.levelled sd x = ((Ev.of s).on fun s => s.takeHeight sd x).heightSensor sd false true := by
      rw [levelled]
      exact (heightReceivers_of_empty (t := id) (fun _ => rfl) records (.inl (heightHandOff_lockedOut locked))).elim id id
    obtain ⟨closedHlc, closedLatches⟩ := close_endRound_of_empty (e := s.levelled sd x) (by rw [received]; exact records)
    unfold LatchedAll
    rw [closedHlc, closedLatches, received]
    exact ⟨lockout, latched, entry⟩
  · have passing : heightValid x = true := (heightValid_iff x).mpr isValid
    have finish : ∀ e : Ev, ((Ev.of s).on fun s => s.takeHeight sd x).heightSensor sd true false = e → e.st.transfers = [] →
        e.st.hlc.pending = false →
        (((s.levelled sd x).on State.endRound).close none).hlc.lockout = e.st.hlc.lockout ∧
          (((s.levelled sd x).on State.endRound).close none).hlc.recovery = e.st.hlc.recovery := by
      intro e sensed records mark
      have levelled : s.levelled sd x = ((Ev.of s).on fun s => s.takeHeight sd x).heightReceivers sd true false := by
        unfold State.levelled
        rw [passing]
        rfl
      subst sensed
      have tested : ∀ s : State, s.heightDeadbandTest.transfers = s.transfers := fun s => by rw [heightDeadbandTest_eq]; rfl
      have received := heightReceivers_of_empty tested records (heightHandOff_unmarked mark)
      rw [← levelled] at received
      rcases received with same | tried
      · have closed := close_endRound_of_empty (e := s.levelled sd x) (by rw [same]; exact records)
        rw [closed.1, same]
        exact ⟨rfl, rfl⟩
      · have closed := close_endRound_of_empty (e := s.levelled sd x) (by rw [tried]; exact (tested _).trans records)
        rw [closed.1, tried, Ev.on_st, heightDeadbandTest_eq]
        exact ⟨rfl, rfl⟩
    refine ⟨fun uncaused => ?_, fun caused => ?_⟩
    · exact finish _ (heightSensor_uncaused uncaused false) empty unmarked
    · have sensed := heightSensor_caused (e := (Ev.of s).on fun s => s.takeHeight sd x) caused false
      have kept := finish _ rfl (by rw [sensed]; exact empty) (by rw [sensed]; exact unmarked)
      rw [kept.1, kept.2, sensed]
      exact ⟨rfl, rfl⟩

end arrivals

end Sys2Proof.Machine
end

section
/-! SUPPORT. The expiries of the part's own timers and the record of the vehicle: the frame of an event whose handler starts no scan, and the
table of R34 on a new record. -/

set_option Elab.async false

namespace Sys2Proof.Machine

/-! ### Events that start no scan -/

section events

variable {f : Ev → Ev} {s : State} (run : s.sts.phase ≠ .reset)

include run

/-- An event that changes the state alone, sending nothing. -/
theorem event_eq {t : State} (handled : f (Ev.of s) = Ev.of t) : event f s = t := by
  rw [event_run run, handled, close_noScan none _ rfl rfl]
  rfl

theorem event_same (handled : f (Ev.of s) = Ev.of s) : event f s = s := event_eq run handled

/-- An event that sends messages and starts no scan. -/
theorem event_sends {e : Ev} (handled : f (Ev.of s) = e) (calm : e.scan = PerGallery.fill false) : event f s = e.st.enqueueAll e.out := by
  rw [event_run run, handled, close_noScan none e (by rw [calm]; rfl) (by rw [calm]; rfl)]
  rfl

/-- What an event leaves of its fixed fields, and of the link unit. -/
theorem event_fixed : (event f s).fixed =
    { (f (Ev.of s)).st.fixed with lku := (event f s).lku, freeCount := (event f s).freeCount } := by
  rw [event_run run]
  exact close_fixed none _

theorem event_link (lku : (f (Ev.of s)).st.lku = s.lku) : SameLink s (event f s) := by
  have linked := close_link none (f (Ev.of s))
  unfold SameLink at *
  rw [lku, ← event_run run] at linked
  exact linked

end events

/-- The close after a latch of a calm event: the latches, the transmit queues and the counter change. -/
theorem close_latch {e : Ev} (calm : e.scan = PerGallery.fill false) (k : EventKind) (ns : List Node) :
    let t := (Ev.latch k ns e).close none
    LatchedAll t k ns ∧ t = { e.st with
      evu.latches := t.evu.latches, lku.canTx := t.lku.canTx, lku.panelTx := t.lku.panelTx, freeCount := t.freeCount } := by
  have queued := close_queued none (Ev.latch k ns e) ((Ev.latch_scan e k ns).trans calm)
  have state := Ev.latch_st e k ns
  refine ⟨latched_close none (latched_latch e k ns), ?_⟩
  dsimp only
  generalize (Ev.latch k ns e).close none = t at *
  have latches : t.evu.latches = (Ev.latch k ns e).st.evu.latches := by rw [queued]
  rw [latches]
  unfold Queued at queued
  rw [state] at queued
  exact queued

/-! ### The supply window, height authority and the panel link -/

/-- Settles O20. -/
theorem supplyWindowDecides : Obligations.SupplyWindowDecides := by
  intro s run
  refine ⟨_, rfl, fun stopped => event_same run ?_, fun w running => ⟨fun g valid => ?_, fun unordered => event_eq run ?_⟩⟩
  · rw [Ev.of_st, stopped]
    rfl
  · have handled : (if (Ev.of s).st.aac.window.isSome then (Ev.of s).supplyExpiry else Ev.of s) =
        Ev.latch .supplyLost [] ((Ev.of s).on fun s =>
          State.supplyLow { s with aac.supply := false, aac.window := none, aac.recovery := some g }) := by
      rw [Ev.of_st, running, Option.isSome_some, if_pos rfl, Ev.supplyExpiry, Ev.of_st, valid]
    rw [event_run run, handled]
    exact close_latch rfl .supplyLost []
  · rw [Ev.of_st, running, Option.isSome_some, if_pos rfl, Ev.supplyExpiry, Ev.of_st, unordered]
    rfl

/-- A lapse of height authority while PANEL holds it (R109). -/
theorem Ev.lapse_of_held {e : Ev} (held : e.st.hlc.holder = true) : e.lapse = Ev.latch .authorityLost [] (e.on State.dropAuthority) :=
  if_pos held

theorem Ev.lapse_of_free {e : Ev} (free : e.st.hlc.holder = false) : e.lapse = e := by
  unfold Ev.lapse
  rw [free]
  rfl

theorem Ev.authorityTake_other {value : Byte} (other : value ≠ 1) (e : Ev) : e.authorityTake value = (e, .refused .badFormat) :=
  if_pos fun one => other (BitVec.eq_of_toNat_eq one)

theorem Ev.authorityTake_elsewhere {e : Ev} (mode : e.st.tgu.mode ≠ .loading) : e.authorityTake 1 = (e, .refused .mode) :=
  (if_neg (not_not.mpr rfl)).trans (if_neg mode)

theorem Ev.authorityTake_loading {e : Ev} (mode : e.st.tgu.mode = .loading) : e.authorityTake 1 = (e.on State.takeAuthority, .plain) :=
  (if_neg (not_not.mpr rfl)).trans (if_pos mode)

/-- Settles O47. -/
theorem heightAuthorityHeld : Obligations.HeightAuthorityHeld := by
  refine ⟨fun s h value p => ⟨fun other _ => ?_, fun one mode => ?_, fun one mode => ?_⟩, fun s h p => ⟨fun free => ?_, fun held => ?_⟩,
    fun s run => ⟨fun stopped => ?_, fun running held => ⟨_, rfl, ?_⟩⟩⟩
  · exact congrArg Host.Outcome.next (p.same _ _ rfl (Ev.authorityTake_other other _))
  · subst one
    exact congrArg Host.Outcome.next (p.same _ _ rfl (Ev.authorityTake_elsewhere (by rw [Ev.of_st, heard_tgu]; exact mode)))
  · subst one
    refine congrArg Host.Outcome.next ((p.onto _ _ rfl State.takeAuthority
      (Ev.authorityTake_loading (by rw [Ev.of_st, heard_tgu]; exact mode))).trans ?_)
    unfold State.takeAuthority State.timer
    rw [heard_now]
    rfl
  · refine congrArg Host.Outcome.next (p.same _ _ rfl ?_)
    unfold Ev.authorityRelease
    rw [Ev.of_st, heard_hlc, free]
    rfl
  · refine congrArg Host.Outcome.next (p.onto _ _ rfl State.dropAuthority ?_)
    unfold Ev.authorityRelease
    rw [Ev.of_st, heard_hlc, held]
    rfl
  · refine congrArg Host.Outcome.next (event_same run ?_)
    rw [Ev.of_st, stopped]
    rfl
  · have handled : (if (Ev.of s).st.hlc.authT.isSome then Ev.lapse ((Ev.of s).on fun s => { s with hlc.authT := none }) else Ev.of s) =
        Ev.latch .authorityLost [] (((Ev.of s).on fun s => { s with hlc.authT := none }).on State.dropAuthority) := by
      rw [Ev.of_st, if_pos (Option.isSome_iff_ne_none.mpr running)]
      exact Ev.lapse_of_held held
    rw [event_run run, handled]
    exact close_latch rfl .authorityLost []

/-- Settles O48. -/
theorem panelSilenceLosesLink : Obligations.PanelSilenceLosesLink := by
  intro s run
  refine ⟨_, rfl, fun stopped => event_same run ?_, fun running gone => event_eq run ?_, fun running present => ?_⟩
  · rw [Ev.of_st, stopped]
    rfl
  · rw [Ev.of_st, if_pos (Option.isSome_iff_ne_none.mpr running)]
    exact if_neg (by rw [Ev.on_st, Ev.of_st, gone]; exact Bool.false_ne_true)
  · have handled : ∀ e : Ev, e.st.lku.panelSilence ≠ none → e.st.lku.panelLink = true →
        (if e.st.lku.panelSilence.isSome then
          let e' := e.on fun s => { s with lku.panelSilence := none }
          if e'.st.lku.panelLink then e'.panelLinkLost else e'
        else e) = (e.on fun s => { s with lku.panelSilence := none }).panelLinkLost := fun e r p => by
      rw [if_pos (Option.isSome_iff_ne_none.mpr r)]
      exact if_pos p
    have lost := handled (Ev.of s) running present
    have fixed := Ev.panelLinkLost_fixed ((Ev.of s).on fun s => { s with lku.panelSilence := none })
    rw [event_run run, lost]
    have link := close_link none ((Ev.of s).on fun s => { s with lku.panelSilence := none }).panelLinkLost
    have lku : ((Ev.of s).on fun s => { s with lku.panelSilence := none }).panelLinkLost.st.lku =
        { s.lku with panelSilence := none, panelLink := false } := congrArg Fixed.lku fixed
    refine ⟨?_, ?_, fun held => ?_⟩
    · unfold SameLink at *
      rw [lku] at link
      exact link
    · rw [close_fixed, fixed]
      rfl
    · refine latched_close none ?_
      unfold Ev.panelLinkLost
      rw [Ev.lapse_of_held (by rw [Ev.setStop_st]; exact held)]
      exact latched_latch _ _ _

/-! ### Decay monitors and the beacon (R116, R133, R135) -/

theorem State.snapshot_eq {s : State} {w : Watched} (bound : (s.spu.monitors.get w).ring.length ≤ 4) : s.snapshot w =
    { s with spu.monitors := s.spu.monitors.set w { s.spu.monitors.get w with
      ring := match s.pressure w.node with
        | some g => if (s.spu.monitors.get w).ring.length = 4 then (s.spu.monitors.get w).ring.tail ++ [g]
          else (s.spu.monitors.get w).ring ++ [g]
        | none => (s.spu.monitors.get w).ring
      snapshot := some ⟨s.now, 10000⟩ } } := by
  unfold State.snapshot
  cases s.pressure w.node with
  | none => rfl
  | some g =>
    dsimp only
    rw [snapshotRing, ring_push bound (by decide)]
    rfl

/-- The end of a window without a slow leak (R135). -/
theorem Ev.windowEnd_sound {e : Ev} {w : Watched} {reference : Option Nat}
    (reading : (e.st.pressure w.node = none ∧ reference = (e.st.spu.monitors.get w).reference) ∨
      ∃ g, e.st.pressure w.node = some g ∧ reference = some g ∧ ∀ r, (e.st.spu.monitors.get w).reference = some r → r < g + 20) :
    e.windowEnd w = e.on fun s => { s with
      spu.monitors := s.spu.monitors.set w { e.st.spu.monitors.get w with reference := reference, window := some ⟨s.now, 600000⟩ } } := by
  unfold Ev.windowEnd
  rcases reading with ⟨unordered, rfl⟩ | ⟨g, valid, rfl, sound⟩
  · rw [unordered]
    rfl
  · rw [valid]
    dsimp only
    cases old : (e.st.spu.monitors.get w).reference with
    | none => rfl
    | some r =>
      dsimp only
      rw [if_neg (show ¬ decide (g + slowLeak ≤ r) = true from mt of_decide_eq_true (Nat.not_le.mpr (sound r old)))]
      rfl

/-- The end of a window with one. -/
theorem Ev.windowEnd_leaks {e : Ev} {w : Watched} {g r : Nat} (valid : e.st.pressure w.node = some g)
    (old : (e.st.spu.monitors.get w).reference = some r) (leak : g + 20 ≤ r) :
    e.windowEnd w = (Ev.latch .leakSlow [w.node] e).on fun s => { s with
      spu.monitors := s.spu.monitors.set w { e.st.spu.monitors.get w with reference := some g, window := some ⟨s.now, 600000⟩ } } := by
  unfold Ev.windowEnd
  rw [valid]
  dsimp only
  rw [old]
  dsimp only
  rw [if_pos (show decide (g + slowLeak ≤ r) = true from decide_eq_true leak)]
  rfl

/-- A window whose timer runs ends in one of the two ways of R135, with what each leaves. -/
theorem windowExpiry_cases {s : State} {w : Watched} (run : s.sts.phase ≠ .reset) (running : (s.spu.monitors.get w).window ≠ none) :
    let x := s.spu.monitors.get w
    let ref := match s.pressure w.node with
      | some g => some g
      | none => x.reference
    ∃ t, exec (.windowExpiry w) s = .next t ∧
      t = { s with
        spu.monitors := s.spu.monitors.set w { x with reference := ref, window := some ⟨s.now, 600000⟩ }
        evu.latches := t.evu.latches
        lku := { s.lku with canTx := t.lku.canTx, panelTx := t.lku.panelTx }
        freeCount := t.freeCount } ∧
      (∀ g r, s.pressure w.node = some g → x.reference = some r → g + 20 ≤ r → LatchedAll t .leakSlow [w.node]) ∧
      (∀ g r, s.pressure w.node = some g → x.reference = some r → r < g + 20 → t.evu = s.evu) := by
  intro x ref
  have expires : (if ((Ev.of s).st.spu.monitors.get w).window.isSome then (Ev.of s).windowEnd w else Ev.of s) = (Ev.of s).windowEnd w :=
    if_pos (Option.isSome_iff_ne_none.mpr running)
  by_cases leaks : ∃ g r, s.pressure w.node = some g ∧ x.reference = some r ∧ g + 20 ≤ r
  · obtain ⟨g, r, valid, old, leak⟩ := leaks
    have ended : (Ev.of s).windowEnd w = (Ev.latch .leakSlow [w.node] (Ev.of s)).on fun s => { s with
        spu.monitors := s.spu.monitors.set w { x with reference := some g, window := some ⟨s.now, 600000⟩ } } :=
      Ev.windowEnd_leaks (e := Ev.of s) valid old leak
    have refs : ref = some g := by
      show (match s.pressure w.node with | some g => some g | none => x.reference) = some g
      rw [valid]
    refine ⟨_, congrArg Host.Outcome.next (event_run run), ?_⟩
    rw [expires, ended, refs]
    have queued := close_queued none ((Ev.latch .leakSlow [w.node] (Ev.of s)).on fun s => { s with
        spu.monitors := s.spu.monitors.set w { x with reference := some g, window := some ⟨s.now, 600000⟩ } })
      ((Ev.latch_scan (Ev.of s) .leakSlow [w.node]).trans rfl)
    have state := Ev.latch_st (Ev.of s) .leakSlow [w.node]
    have latched := latched_latch (Ev.of s) .leakSlow [w.node]
    refine ⟨?_, fun _ _ _ _ _ => latched_close none latched, fun g' r' valid' old' sound => ?_⟩
    · generalize Ev.close none _ = t at queued ⊢
      have latches : t.evu.latches = (Ev.latch .leakSlow [w.node] (Ev.of s)).st.evu.latches := by rw [queued]; rfl
      rw [latches]
      unfold Queued at queued
      rw [Ev.on_st, state] at queued
      exact queued
    · cases valid.symm.trans valid'
      cases old.symm.trans old'
      exact absurd leak (Nat.not_le.mpr sound)
  · have reading : (s.pressure w.node = none ∧ ref = x.reference) ∨
        ∃ g, s.pressure w.node = some g ∧ ref = some g ∧ ∀ r, x.reference = some r → r < g + 20 := by
      show (s.pressure w.node = none ∧ (match s.pressure w.node with | some g => some g | none => x.reference) = x.reference) ∨
        ∃ g, s.pressure w.node = some g ∧ (match s.pressure w.node with | some g => some g | none => x.reference) = some g ∧ _
      cases valid : s.pressure w.node with
      | none => exact .inl ⟨rfl, rfl⟩
      | some g => exact .inr ⟨g, rfl, rfl, fun r old => Nat.not_le.mp fun leak => leaks ⟨g, r, valid, old, leak⟩⟩
    have ended := Ev.windowEnd_sound (e := Ev.of s) reading
    refine ⟨_, congrArg Host.Outcome.next (event_eq run (expires.trans ended)), rfl, fun g r valid old leak => ?_, fun _ _ _ _ _ => rfl⟩
    exact absurd ⟨g, r, valid, old, leak⟩ leaks

/-- Settles O53. -/
theorem monitorTimersExpire : Obligations.MonitorTimersExpire := by
  refine ⟨fun s w run => ⟨fun stopped => ?_, fun running bound => ?_, fun stopped => ?_, fun running => windowExpiry_cases run running⟩,
    fun s run => ⟨fun stopped => ?_, fun running stretch => ?_⟩⟩
  · refine congrArg Host.Outcome.next (event_same run ?_)
    rw [Ev.of_st, stopped]
    rfl
  · refine congrArg Host.Outcome.next (event_eq run ?_)
    rw [Ev.of_st, if_pos (Option.isSome_iff_ne_none.mpr running)]
    exact congrArg Ev.of (State.snapshot_eq bound)
  · refine congrArg Host.Outcome.next (event_same run ?_)
    rw [Ev.of_st, stopped]
    rfl
  · refine congrArg Host.Outcome.next (event_same run ?_)
    rw [Ev.on, Ev.of_st, State.stretchEnd, stopped]
    rfl
  · refine congrArg Host.Outcome.next (event_eq run ?_)
    rw [Ev.on, Ev.of_st, State.stretchEnd, if_pos (Option.isSome_iff_ne_none.mpr running), stretch]
    rfl

/-- The axle count and the freshness mark of a LOAD report (R122, R174). -/
theorem loadBytes_eq (s : State) : loadBytes s = field24 s.llu.load.left ++ field24 s.llu.load.right ++
    [if s.llu.lift = LiftState.lifted then (2 : Byte) else 3, if s.llu.fresh.left = none ∨ s.llu.fresh.right = none then 1 else 0] := by
  have axles : byteOf s.llu.axles = if s.llu.lift = LiftState.lifted then (2 : Byte) else 3 := by
    unfold Llu.axles
    split <;> rfl
  have stale : byteOf s.llu.stale.toNat = if s.llu.fresh.left = none ∨ s.llu.fresh.right = none then (1 : Byte) else 0 := by
    unfold Llu.stale
    cases s.llu.fresh.left with
    | none => rfl
    | some l =>
      cases s.llu.fresh.right with
      | none => rfl
      | some r => rfl
  unfold loadBytes
  rw [axles, stale]

/-- Settles O60. -/
theorem periodicReportsSent : Obligations.PeriodicReportsSent := by
  intro s run report
  have expires : ∀ {t : Timer} {e f : Ev}, t ≠ none → (if t.isSome then e else f) = e := fun running =>
    if_pos (Option.isSome_iff_ne_none.mpr running)
  refine ⟨fun stopped => congrArg Host.Outcome.next (event_same run ?_), fun stopped => congrArg Host.Outcome.next (event_same run ?_),
    fun stopped => congrArg Host.Outcome.next (event_same run ?_), fun running => congrArg Host.Outcome.next ?_,
    fun running => congrArg Host.Outcome.next ?_, fun running => congrArg Host.Outcome.next ?_⟩
  · rw [Ev.of_st, stopped]
    rfl
  · rw [Ev.of_st, stopped]
    rfl
  · rw [Ev.of_st, stopped]
    rfl
  · exact event_sends run (expires running) rfl
  · exact event_sends run (expires running) rfl
  · rw [← loadBytes_eq]
    exact event_sends run (expires running) rfl

/-! ### The speed guard and the vehicle record -/

theorem guardOn_latched (e : Ev) : LatchedAll e.guardOn.st .speedForced [] :=
  (latched_latch _ .speedForced []).grows (grows_recomputeAll false .other _)

theorem State.fixed_lku (s : State) : s.fixed.lku = s.lku := rfl

theorem guardOn_lku (e : Ev) : e.guardOn.st.lku = e.st.lku := by
  rw [← State.fixed_lku, guardOn_fixed]
  rfl

theorem guardOff_lku (e : Ev) : e.guardOff.st.lku = e.st.lku := by
  rw [← State.fixed_lku, guardOff_fixed]
  rfl

/-- Settles O30. -/
theorem speedGuardExpires : Obligations.SpeedGuardExpires := by
  intro s run
  refine ⟨⟨_, rfl, fun idle => event_same run (if_neg ?_), fun running off => ?_⟩,
    ⟨_, rfl, fun idle => event_same run (if_neg ?_), fun running on => ?_⟩⟩
  · rintro ⟨running, off⟩
    rcases idle with stopped | on
    · rw [Ev.of_st, stopped] at running
      cases running
    · rw [Ev.of_st, on] at off
      cases off
  · have expires : (if (Ev.of s).st.tgu.guard.overT.isSome ∧ !(Ev.of s).st.tgu.guard.on then (Ev.of s).guardOn else Ev.of s) =
        (Ev.of s).guardOn := if_pos ⟨Option.isSome_iff_ne_none.mpr running, by rw [Ev.of_st, off]; rfl⟩
    refine ⟨?_, event_link run ?_, ?_⟩
    · rw [event_run run, expires]
      exact latched_close none (guardOn_latched _)
    · rw [expires]
      exact guardOn_lku _
    · refine (event_fixed run).trans ?_
      rw [expires, guardOn_fixed]
      rfl
  · rintro ⟨running, on⟩
    rcases idle with stopped | off
    · rw [Ev.of_st, stopped] at running
      cases running
    · rw [Ev.of_st, off] at on
      cases on
  · have expires : (if (Ev.of s).st.tgu.guard.underT.isSome ∧ (Ev.of s).st.tgu.guard.on then (Ev.of s).guardOff else Ev.of s) =
        (Ev.of s).guardOff := if_pos ⟨Option.isSome_iff_ne_none.mpr running, on⟩
    refine ⟨event_link run ?_, ?_⟩
    · rw [expires]
      exact guardOff_lku _
    · refine (event_fixed run).trans ?_
      rw [expires, guardOff_fixed]
      rfl

theorem Fixed.forced_frame (f : Fixed) (x : SpeedState) : f.forced x = { f with
    mode := (f.forced x).mode, basis := (f.forced x).basis, target := (f.forced x).target, holder := (f.forced x).holder
    authT := (f.forced x).authT } := by
  unfold Fixed.forced
  split <;> rfl

theorem Fixed.sped_frame (f : Fixed) (x : SpeedState) : f.sped x = { f with
    target := (f.sped x).target, holder := (f.sped x).holder, authT := (f.sped x).authT } := by
  unfold Fixed.sped
  split <;> rfl

/-- What a new record writes among the fixed fields: itself, the guard, brake priority, and on a speed state change the mode and the height
loop's fields. -/
theorem Fixed.recorded_frame (f : Fixed) (v : Vehicle) : f.recorded v = { f with
    vehicle := v, guard := ({ f with vehicle := v } : Fixed).guarded.guard, priority := priorityOf_ v f.priority f.sts.ws.brakeMin
    mode := (f.recorded v).mode, basis := (f.recorded v).basis, target := (f.recorded v).target, holder := (f.recorded v).holder
    authT := (f.recorded v).authT } := by
  unfold Fixed.recorded
  dsimp only
  split
  · rw [Fixed.sped_frame, Fixed.forced_frame]
    rfl
  · rfl

/-- A record with the speed not available turns the guard on (R34). -/
theorem Fixed.guarded_of_unknown {f : Fixed} (unknown : f.vehicle.speedState = .unknown) : f.guarded.guard.on = true := by
  unfold Fixed.guarded
  dsimp only
  split
  · next on => exact on
  · rfl

theorem brakeLinkLost_latched (e : Ev) : LatchedAll e.brakeLinkLost.st .brakeLinkLost [] :=
  (latched_latch (e.on State.brakeLow) .brakeLinkLost []).grows (grows_vehicleUpdate false _ _)

/-- Settles O31. -/
theorem brakeSilenceLosesLink : Obligations.BrakeSilenceLosesLink := by
  intro s run
  refine ⟨_, rfl, fun stopped => event_same run ?_, fun running gone => event_eq run ?_, fun running present => ?_⟩
  · rw [Ev.of_st, stopped]
    rfl
  · rw [Ev.of_st, if_pos (Option.isSome_iff_ne_none.mpr running)]
    exact if_neg (by rw [Ev.on_st, Ev.of_st, gone]; exact Bool.false_ne_true)
  · have handled : ∀ e : Ev, e.st.lku.brakeSilence ≠ none → e.st.tgu.vehicle.link = true →
        (if e.st.lku.brakeSilence.isSome then
          let e' := e.on fun s => { s with lku.brakeSilence := none }
          if e'.st.tgu.vehicle.link then e'.brakeLinkLost else e'
        else e) = (e.on fun s => { s with lku.brakeSilence := none }).brakeLinkLost := fun e r p => by
      rw [if_pos (Option.isSome_iff_ne_none.mpr r)]
      exact if_pos p
    have lost := handled (Ev.of s) running present
    have recorded := brakeLinkLost_recorded ((Ev.of s).on fun s => { s with lku.brakeSilence := none })
    rw [Fixed.recorded_frame] at recorded
    rw [event_run run, lost]
    have latched := latched_close none (brakeLinkLost_latched ((Ev.of s).on fun s => { s with lku.brakeSilence := none }))
    have fixed := close_fixed none ((Ev.of s).on fun s => { s with lku.brakeSilence := none }).brakeLinkLost
    have link := close_link none ((Ev.of s).on fun s => { s with lku.brakeSilence := none }).brakeLinkLost
    generalize Ev.close none ((Ev.of s).on fun s => { s with lku.brakeSilence := none }).brakeLinkLost = t at *
    have lku : ((Ev.of s).on fun s => { s with lku.brakeSilence := none }).brakeLinkLost.st.lku = { s.lku with brakeSilence := none } :=
      congrArg Fixed.lku recorded
    rw [recorded] at fixed
    have vehicle : t.tgu.vehicle = s.tgu.vehicle.lost := congrArg Fixed.vehicle fixed
    have guard := congrArg (fun f => f.guard.on) fixed
    refine ⟨latched, guard.trans (Fixed.guarded_of_unknown rfl), ?_, ?_, ?_⟩
    · unfold State.speedState
      rw [vehicle]
      rfl
    · unfold SameLink at *
      rw [lku] at link
      exact link
    · show t.fixed = { s.fixed with
        vehicle := s.tgu.vehicle.lost, guard := t.fixed.guard, priority := true, brakeOk := ⟨false, false, false⟩
        mode := t.fixed.mode, basis := t.fixed.basis, target := t.fixed.target, holder := t.fixed.holder, authT := t.fixed.authT
        lku := t.lku, freeCount := t.freeCount }
      have on : priorityOf_ s.tgu.vehicle.lost s.aac.priority s.ws.brakeMin = true := by
        cases s.aac.priority <;> rfl
      rw [fixed]
      exact congrArg (fun p => ({ s.fixed with
        vehicle := s.tgu.vehicle.lost, guard := _, priority := p, brakeOk := ⟨false, false, false⟩
        mode := _, basis := _, target := _, holder := _, authT := _, lku := t.lku, freeCount := t.freeCount } : Fixed)) on

/-! ### VEHICLE_DATA (R22, R23) -/

theorem Fixed.recorded_changed {f : Fixed} {v : Vehicle} (changed : v.speedState ≠ f.vehicle.speedState) :
    f.recorded v = ((({ f with vehicle := v } : Fixed).guarded.forced v.speedState).braked).sped v.speedState := if_pos changed

theorem Fixed.sped_mode (f : Fixed) (x : SpeedState) : (f.sped x).mode = f.mode ∧ (f.sped x).basis = f.basis := by
  rw [Fixed.sped_frame]
  exact ⟨rfl, rfl⟩

theorem Fixed.sped_moving {f : Fixed} {x : SpeedState} (moving : x = .moving) : (f.sped x).target = f.nominal := if_pos moving

theorem Fixed.sped_away {f : Fixed} {x : SpeedState} (away : x ≠ .standstill) :
    (f.sped x).holder = false ∧ (f.sped x).authT = if f.holder then none else f.authT := by
  unfold Fixed.sped
  rw [if_neg away]
  exact ⟨rfl, rfl⟩

theorem Fixed.forced_mode (f : Fixed) (x : SpeedState) :
    (f.forced x).mode = (if f.mode = .loading ∧ x ≠ .standstill then .road else f.mode) ∧
    (f.forced x).basis = (if f.mode = .loading ∧ x ≠ .standstill then .road else f.basis) := by
  unfold Fixed.forced
  split <;> exact ⟨rfl, rfl⟩

/-- Where PANEL held authority, the forcing of a mode leaves it or has lapsed it. -/
theorem Fixed.forced_holder {f : Fixed} (x : SpeedState) (held : f.holder = true) :
    (if (f.forced x).holder then none else (f.forced x).authT) = none := by
  unfold Fixed.forced
  by_cases leaves : f.mode = .loading ∧ x ≠ .standstill
  · rw [if_pos leaves]
    exact if_pos held
  · rw [if_neg leaves]
    exact if_pos held

theorem Fixed.forced_driving (f : Fixed) {x : SpeedState} (away : x ≠ .standstill) : (f.forced x).mode ≠ .loading := by
  rw [(Fixed.forced_mode f x).1]
  split
  · decide
  · next other => exact fun loading => other ⟨loading, away⟩

theorem Fixed.nominal_driving {f : Fixed} (driving : f.mode ≠ .loading) :
    f.nominal = f.sts.ws.nominal (if f.mode = .field then .field else .road) := by
  unfold Fixed.nominal
  cases mode : f.mode with
  | road => rfl
  | field => rfl
  | loading => exact absurd mode driving

theorem Fixed.recorded_mode (f : Fixed) (v : Vehicle) :
    (f.recorded v).mode = (if f.mode = .loading ∧ v.speedState ≠ f.vehicle.speedState ∧ v.speedState ≠ .standstill then .road else f.mode) ∧
    (f.recorded v).basis =
      (if f.mode = .loading ∧ v.speedState ≠ f.vehicle.speedState ∧ v.speedState ≠ .standstill then .road else f.basis) := by
  by_cases changed : v.speedState ≠ f.vehicle.speedState
  · rw [Fixed.recorded_changed changed, (Fixed.sped_mode _ _).1, (Fixed.sped_mode _ _).2]
    have leaves : (f.mode = .loading ∧ v.speedState ≠ f.vehicle.speedState ∧ v.speedState ≠ .standstill) ↔
        (f.mode = .loading ∧ v.speedState ≠ .standstill) := and_congr_right' (and_iff_right changed)
    simp only [leaves]
    exact Fixed.forced_mode _ _
  · have stays : ¬ (f.mode = .loading ∧ v.speedState ≠ f.vehicle.speedState ∧ v.speedState ≠ .standstill) := fun h => changed h.2.1
    rw [if_neg stays, if_neg stays]
    unfold Fixed.recorded
    dsimp only
    rw [if_neg changed]
    exact ⟨rfl, rfl⟩

/-- MOVING takes the nominal target of the mode it leaves, which is not LOADING (R106, R21). -/
theorem Fixed.recorded_moving {f : Fixed} {v : Vehicle} (moving : v.speedState = .moving) (before : f.vehicle.speedState ≠ .moving) :
    (f.recorded v).target = f.sts.ws.nominal (if (f.recorded v).mode = .field then .field else .road) := by
  have changed : v.speedState ≠ f.vehicle.speedState := fun same => before (same.symm.trans moving)
  have away : v.speedState ≠ .standstill := by rw [moving]; decide
  have driving : ((({ f with vehicle := v } : Fixed).guarded.forced v.speedState).braked).mode ≠ .loading :=
    Fixed.forced_driving _ away
  have ws : ((({ f with vehicle := v } : Fixed).guarded.forced v.speedState).braked).sts.ws = f.sts.ws := Fixed.forced_ws _ _
  rw [Fixed.recorded_changed changed, Fixed.sped_moving moving, Fixed.nominal_driving driving, (Fixed.sped_mode _ _).1, ws]

/-- A change of the speed state away from STANDSTILL lapses height authority (R109). -/
theorem Fixed.recorded_lapses {f : Fixed} {v : Vehicle} (changed : v.speedState ≠ f.vehicle.speedState)
    (away : v.speedState ≠ .standstill) :
    (f.recorded v).holder = false ∧ (f.holder = true → (f.recorded v).authT = none) := by
  rw [Fixed.recorded_changed changed]
  obtain ⟨free, stopped⟩ := Fixed.sped_away (f := (({ f with vehicle := v } : Fixed).guarded.forced v.speedState).braked) away
  exact ⟨free, fun held => stopped.trans (Fixed.forced_holder (f := ({ f with vehicle := v } : Fixed).guarded) v.speedState held)⟩

/-- The record that a VEHICLE_DATA of decodable fields spells (R22). -/
def Vehicle.ofFields (old : Nat) (speed braking : Byte) (gB : Half) : Vehicle where
  speed := if speed = 255 then none else some speed.toNat
  braking := braking != 0
  gB := if gB.toNat ≤ 1200 then gB.toNat else old
  gBValid := decide (gB.toNat ≤ 1200)
  link := true

theorem byte_eq_iff (b : Byte) (n : Nat) (small : n < 256) : b = BitVec.ofNat 8 n ↔ b.toNat = n := by
  rw [← BitVec.toNat_inj, BitVec.toNat_ofNat, Nat.mod_eq_of_lt small]

theorem decodeVehicle_good {old : Nat} {speed braking : Byte} {gB : Half} (s : speed.toNat ≤ 250 ∨ speed = 255)
    (b : braking.toNat ≤ 1 ∨ braking = 255) : decodeVehicle old speed braking gB = some (Vehicle.ofFields old speed braking gB) := by
  have spd : (if speed.toNat ≤ speedMax then some (some speed.toNat) else if speed.toNat = 255 then some none else none) =
      some (if speed = 255 then none else some speed.toNat) := by
    rcases s with low | rfl
    · have other : speed ≠ 255 := fun top => by rw [top] at low; exact absurd low (by decide)
      rw [if_pos (show speed.toNat ≤ speedMax from low), if_neg other]
    · rfl
  have brk : (if braking.toNat = 0 then some false else if braking.toNat = 1 ∨ braking.toNat = 255 then some true else none) =
      some (braking != 0) := by
    by_cases zero : braking.toNat = 0
    · rw [if_pos zero, show braking = 0 from (byte_eq_iff braking 0 (by decide)).mpr zero]
      rfl
    · have set : braking.toNat = 1 ∨ braking.toNat = 255 := by
        rcases b with low | rfl
        · exact .inl (by omega)
        · exact .inr rfl
      have differs : (braking != 0) = true := bne_iff_ne.mpr fun same => zero (by rw [same]; rfl)
      rw [if_neg zero, if_pos set, differs]
  unfold decodeVehicle
  rw [spd, brk]
  unfold Vehicle.ofFields pressureMax
  simp only [decide_eq_true_eq]

theorem decodeVehicle_bad {old : Nat} {speed braking : Byte} {gB : Half}
    (bad : 250 < speed.toNat ∧ speed.toNat < 255 ∨ 1 < braking.toNat ∧ braking.toNat < 255) : decodeVehicle old speed braking gB = none := by
  unfold decodeVehicle speedMax
  rcases bad with ⟨low, high⟩ | ⟨low, high⟩
  · rw [if_neg (Nat.not_le.mpr low), if_neg (Nat.ne_of_lt high)]
  · have brk : (if braking.toNat = 0 then some false else if braking.toNat = 1 ∨ braking.toNat = 255 then some true else none) = none := by
      rw [if_neg (by omega), if_neg (by omega)]
    rw [brk]
    dsimp only
    generalize (if speed.toNat ≤ 250 then some (some speed.toNat) else if speed.toNat = 255 then some none else none) = spd
    cases spd <;> rfl

theorem Vehicle.ofFields_unknown (old : Nat) (speed braking : Byte) (gB : Half) :
    (Vehicle.ofFields old speed braking gB).speedState = .unknown ↔ speed = 255 := by
  unfold Vehicle.speedState Vehicle.ofFields
  by_cases none : speed = 255
  · rw [if_pos rfl, if_pos none]
    exact ⟨fun _ => none, fun _ => rfl⟩
  · rw [if_pos rfl, if_neg none]
    dsimp only
    refine ⟨fun unknown => ?_, fun top => absurd top none⟩
    split at unknown
    · cases unknown
    · split at unknown <;> cases unknown

/-- A speed that is given is above the limit exactly where its figure is. -/
theorem Vehicle.ofFields_above {old : Nat} {speed braking : Byte} {gB : Half} (given : speed ≠ 255) (limit : Nat) :
    (Vehicle.ofFields old speed braking gB).above limit = true ↔ limit < speed.toNat := by
  unfold Vehicle.above Vehicle.ofFields
  rw [if_neg given]
  exact decide_eq_true_iff

/-- The guard on a record of decodable fields (R34). -/
theorem Fixed.guarded_ofFields (f : Fixed) {old : Nat} {speed braking : Byte} {gB : Half}
    (vehicle : f.vehicle = Vehicle.ofFields old speed braking gB) :
    let keep (t : Timer) (ms : Nat) : Timer := if t.isSome then t else some ⟨f.now, ms⟩
    f.guarded.guard =
      if f.guard.on = true then
        { f.guard with underT := if speed = 255 ∨ f.sts.ws.guardSpeed < speed.toNat then none else keep f.guard.underT 60000 }
      else if speed = 255 then ⟨true, none, none⟩
      else { f.guard with overT := if f.sts.ws.guardSpeed < speed.toNat then keep f.guard.overT 10000 else none } := by
  unfold Fixed.guarded
  rw [vehicle]
  simp only [Vehicle.ofFields_unknown]
  by_cases given : speed = 255
  · simp only [given, true_or, if_true]
  · simp only [given, false_or, if_false, Vehicle.ofFields_above given]
    rfl

/-- Brake priority on a record of decodable fields (R49). -/
theorem priorityOf_ofFields (old : Nat) (speed braking : Byte) (gB : Half) (flag : Bool) (brakeMin : Nat) :
    priorityOf_ (Vehicle.ofFields old speed braking gB) flag brakeMin =
      if flag = true then !(decide (brakeMin + 30 ≤ gB.toNat ∧ gB.toNat ≤ 1200) && speed != 255)
      else !decide (brakeMin ≤ gB.toNat ∧ gB.toNat ≤ 1200) || speed == 255 := by
  have holds : ∀ least : Nat, holdsOf (Vehicle.ofFields old speed braking gB).brakePressure (fun g => decide (least ≤ g)) =
      decide (least ≤ gB.toNat ∧ gB.toNat ≤ 1200) := fun least => by
    unfold Vehicle.brakePressure Vehicle.ofFields
    by_cases valid : gB.toNat ≤ 1200
    · simp only [valid, decide_true, if_true, and_true, holdsOf]
    · simp only [valid, decide_false, Bool.false_eq_true, if_false, and_false, holdsOf]
  have known : ((Vehicle.ofFields old speed braking gB).speedState == .unknown) = (speed == 255) := by
    rw [Bool.eq_iff_iff, beq_iff_eq, beq_iff_eq]
    exact Vehicle.ofFields_unknown ..
  unfold priorityOf_
  rw [holds, holds, bne, known]
  rfl

/-- Settles O29. -/
theorem vehicleDataWritesRecord : Obligations.VehicleDataWritesRecord := by
  intro s h speed braking gB p c r
  have taken : exec c s = .next (((Ev.vehicleData speed braking gB) (Ev.of r)).1.close none) :=
    congrArg Host.Outcome.next (p.silent c (Ev.vehicleData speed braking gB) rfl)
  refine ⟨fun bad => ?_, fun goodSpeed goodBraking => ?_⟩
  · rw [taken]
    unfold Ev.vehicleData
    rw [decodeVehicle_bad bad]
    exact congrArg Host.Outcome.next (close_noScan none (Ev.of r) rfl rfl)
  · intro v fast forced
    refine ⟨_, taken, ?_⟩
    have old : r.tgu.vehicle.gB = s.tgu.vehicle.gB := congrArg (fun x => x.vehicle.gB) (heard_tgu s h c)
    have handled : ((Ev.vehicleData speed braking gB) (Ev.of r)).1 =
        ((Ev.of r).on fun s => { s with lku.brakeSilence := s.timer brakeSilenceTime }).vehicleUpdate v := by
      unfold Ev.vehicleData
      rw [decodeVehicle_good goodSpeed goodBraking]
      exact congrArg (fun g => (((Ev.of r).on fun s => { s with lku.brakeSilence := s.timer brakeSilenceTime }).vehicleUpdate
        (Vehicle.ofFields g speed braking gB))) old
    have base : ((Ev.of r).on fun s => { s with lku := { s.lku with brakeSilence := s.timer brakeSilenceTime } }).st.fixed =
        { s.fixed with lku := { r.lku with brakeSilence := some ⟨s.now, 500⟩ } } :=
      (congrArg (fun f : Fixed => { f with lku := { r.lku with brakeSilence := some ⟨f.now, 500⟩ } }) (heard_fixed s h c)).trans rfl
    have recorded := (vehicleUpdate_recorded v _).trans (congrArg (fun f : Fixed => f.recorded v) base)
    rw [handled]
    have closed := close_fixed none (((Ev.of r).on fun s => { s with lku.brakeSilence := s.timer brakeSilenceTime }).vehicleUpdate v)
    have link := close_link none (((Ev.of r).on fun s => { s with lku.brakeSilence := s.timer brakeSilenceTime }).vehicleUpdate v)
    rw [recorded] at closed
    have lku : (((Ev.of r).on fun s => { s with lku.brakeSilence := s.timer brakeSilenceTime }).vehicleUpdate v).st.lku =
        { r.lku with brakeSilence := some ⟨s.now, 500⟩ } := by
      rw [← State.fixed_lku, recorded, Fixed.recorded_frame]
    generalize Ev.close none (((Ev.of r).on fun s => { s with lku.brakeSilence := s.timer brakeSilenceTime }).vehicleUpdate v) = t at *
    have mode := Fixed.recorded_mode ({ s.fixed with lku := { r.lku with brakeSilence := some ⟨s.now, 500⟩ } } : Fixed) v
    have moved := fun moving before =>
      Fixed.recorded_moving (f := { s.fixed with lku := { r.lku with brakeSilence := some ⟨s.now, 500⟩ } }) (v := v) moving before
    have lapses := fun changed away =>
      Fixed.recorded_lapses (f := { s.fixed with lku := { r.lku with brakeSilence := some ⟨s.now, 500⟩ } }) (v := v) changed away
    have frame := Fixed.recorded_frame ({ s.fixed with lku := { r.lku with brakeSilence := some ⟨s.now, 500⟩ } } : Fixed) v
    have guard := Fixed.guarded_ofFields
      { s.fixed with lku := { r.lku with brakeSilence := some ⟨s.now, 500⟩ }, vehicle := v } (vehicle := rfl)
    have priority := priorityOf_ofFields s.tgu.vehicle.gB speed braking gB s.aac.priority s.ws.brakeMin
    generalize ({ s.fixed with lku := { r.lku with brakeSilence := some ⟨s.now, 500⟩ } } : Fixed).recorded v = g at *
    refine ⟨?_, ?_, fun moving before => ?_, fun changed away => ?_⟩
    · have fields := closed.trans (congrArg (fun f : Fixed => { f with lku := t.lku, freeCount := t.freeCount }) frame)
      rw [guard, mode.1, mode.2, show priorityOf_ v s.fixed.priority s.fixed.sts.ws.brakeMin = _ from priority] at fields
      have target : g.target = t.hlc.target := (congrArg Fixed.target closed).symm
      have holder : g.holder = t.hlc.holder := (congrArg Fixed.holder closed).symm
      have authT : g.authT = t.hlc.authT := (congrArg Fixed.authT closed).symm
      rw [target, holder, authT] at fields
      simp only [State.timerKeep_eq]
      rw [heard_fixed]
      exact fields
    · unfold SameLink at *
      rw [lku] at link
      exact link
    · have target : t.hlc.target = g.target := congrArg Fixed.target closed
      have tmode : t.tgu.mode = g.mode := congrArg Fixed.mode closed
      rw [target, tmode, moved moving before]
      split <;> rfl
    · have lapsed := lapses changed away
      exact ⟨(congrArg Fixed.holder closed).trans lapsed.1, fun held => (congrArg Fixed.authT closed).trans (lapsed.2 held)⟩

end Sys2Proof.Machine
end

section
/-! SUPPORT. The links: the CAN port and the panel line event by event, the common checks of a request, and the requests of the event unit. -/

set_option Elab.async false

namespace Sys2Proof.Machine

/-! ### The CAN port (R143, R144, R148) -/

section ports

variable {s : State} (run : s.sts.phase ≠ .reset)

include run

/-- A port's event is its change of the state. -/
theorem portEvent_eq {f : State → State} {t : State} (changed : f s = t) : (Host.Outcome.next (portEvent f s) : Outcome) = .next t := by
  rw [portEvent_run run, changed]

end ports

/-- The address filter on a data frame with a 29-bit identifier to the part (R144). -/
theorem Settings.filter_eq (w : Settings) (f : CanFrame) : w.filter f =
    if f.extended = true ∧ f.remote = false ∧ f.ident.toNat % 256 = w.ownAddr then
      (w.canMaster (f.ident.toNat / 256 % 256)).map fun m => {
        sender := m, address := byteOf (f.ident.toNat / 256 % 256), kind := byteOf (f.ident.toNat / 4194304 % 32)
        groupIndex := f.ident.toNat / 524288 % 8, groupCount := f.ident.toNat / 65536 % 8, data := f.data }
    else none := by
  have own : identField f.ident 0 8 = f.ident.toNat % 256 := by rw [identField, Nat.pow_zero, Nat.div_one]; rfl
  have passes : (f.extended && !f.remote && identField f.ident 0 8 == w.ownAddr) = true ↔
      f.extended = true ∧ f.remote = false ∧ f.ident.toNat % 256 = w.ownAddr := by
    rw [own, Bool.and_eq_true, Bool.and_eq_true, Bool.not_eq_true', beq_iff_eq, and_assoc]
  unfold Settings.filter
  simp only [passes]
  rfl

/-- A frame that completes while ON_BUS (R144): taken, or ignored. -/
theorem State.canReceive_on {s : State} (on : s.lku.port = .onBus) (f : CanFrame) : s.canReceive f =
    match s.ws.filter f with
    | some r => if s.lku.fifo.length < fifoSize then { s with lku.fifo := s.lku.fifo ++ [r] } else s
    | none => s := if_pos on

theorem State.canReceive_of_master {s : State} {f : CanFrame} {m : Master} (on : s.lku.port = .onBus)
    (master : s.ws.canMaster (f.ident.toNat / 256 % 256) = some m)
    (taken : f.extended = true ∧ f.remote = false ∧ f.ident.toNat % 256 = s.ws.ownAddr ∧ s.lku.fifo.length < 8) :
    s.canReceive f = { s with lku.fifo := s.lku.fifo ++ [{
      sender := m, address := byteOf (f.ident.toNat / 256 % 256), kind := byteOf (f.ident.toNat / 4194304 % 32)
      groupIndex := f.ident.toNat / 524288 % 8, groupCount := f.ident.toNat / 65536 % 8, data := f.data }] } := by
  obtain ⟨extended, data, own, room⟩ := taken
  rw [State.canReceive_on on, Settings.filter_eq, if_pos ⟨extended, data, own⟩, master]
  exact if_pos room

theorem State.canReceive_ignored {s : State} {f : CanFrame} (on : s.lku.port = .onBus)
    (ignored : ¬ (f.extended = true ∧ f.remote = false ∧ f.ident.toNat % 256 = s.ws.ownAddr ∧ s.lku.fifo.length < 8) ∨
      s.ws.canMaster (f.ident.toNat / 256 % 256) = none) : s.canReceive f = s := by
  rw [State.canReceive_on on, Settings.filter_eq]
  by_cases passes : f.extended = true ∧ f.remote = false ∧ f.ident.toNat % 256 = s.ws.ownAddr
  · rw [if_pos passes]
    cases master : s.ws.canMaster (f.ident.toNat / 256 % 256) with
    | none => rfl
    | some m =>
      rcases ignored with untaken | unknown
      · exact if_neg fun room => untaken ⟨passes.1, passes.2.1, passes.2.2, room⟩
      · rw [master] at unknown
        cases unknown
  · rw [if_neg passes]

/-- Settles O54. -/
theorem canPortEvents : Obligations.CanPortEvents := by
  intro s run
  refine ⟨portEvent_eq run ?_, fun on => portEvent_eq run ?_, fun off => ⟨portEvent_eq run ?_, portEvent_eq run (if_neg off),
    portEvent_eq run (if_neg off), fun f => portEvent_eq run (if_neg off)⟩, ?_, fun i q on queue => ?_⟩
  · unfold State.busIdle
    cases port : s.lku.port with
    | offSinceStart => rfl
    | offAfterBusOff n => rfl
    | onBus =>
      show s = { s with lku.port := .onBus }
      rw [← port]
  · unfold State.busOff
    rw [on]
  · unfold State.busOff
    cases port : s.lku.port with
    | offSinceStart => rfl
    | offAfterBusOff n => rfl
    | onBus => exact absurd port off
  · intro f taken frame on
    refine ⟨fun ok cab => portEvent_eq run (State.canReceive_of_master on (if_pos cab) ok),
      fun ok brake other => portEvent_eq run (State.canReceive_of_master on ?_ ok),
      fun ignored => portEvent_eq run (State.canReceive_ignored on (ignored.imp id fun unknown => ?_))⟩
    · rw [Settings.canMaster, brake, if_neg other, if_pos rfl]
    · rw [Settings.canMaster, if_neg unknown.1, if_neg unknown.2]
  · refine ⟨portEvent_eq run ?_, fun f one => portEvent_eq run ?_, fun f g rest more => portEvent_eq run ?_⟩
    · rw [State.canRetry, if_pos on, queue]
      rfl
    · rw [State.canSent, if_pos on, queue, sentHead, one]
    · rw [State.canSent, if_pos on, queue, sentHead, more]

/-! ### The panel line (R146, R147) -/

/-- A byte while the part is not sending goes to the receiver. -/
theorem State.panelByte_idle {s : State} (idle : s.lku.sending = false) (b : Byte) (e : Bool) : s.panelByte b e =
    { s with lku.rx := (s.lku.rx.take b e).1, lku.good := s.lku.good ++ (s.lku.rx.take b e).2.toList } := by
  unfold State.panelByte
  rw [idle]
  rfl

/-- A byte that completes no frame. -/
theorem State.panelByte_within {s : State} (idle : s.lku.sending = false) {b : Byte} {e : Bool} {x : PanelRx}
    (taken : s.lku.rx.take b e = (x, none)) : s.panelByte b e = { s with lku.rx := x } := by
  rw [State.panelByte_idle idle, taken]
  simp only [Option.toList_none, List.append_nil]

/-- The check byte of a frame (R146). -/
theorem PanelRx.take_check (n : Nat) (got : List Byte) (b : Byte) : (PanelRx.check n got).take b false =
    (.hunt, if (167 + n + (got.map BitVec.toNat).sum + b.toNat) % 256 = 0 then some { kind := got.headD 0, payload := got.drop 1 }
      else none) := by
  unfold PanelRx.take
  rw [if_neg Bool.false_ne_true]
  simp only [panelGood, beq_iff_eq]
  rfl

/-- Settles O55. -/
theorem panelLineEvents : Obligations.PanelLineEvents := by
  intro s run
  refine ⟨fun b e sending => portEvent_eq run (if_pos sending), fun b idle => ⟨portEvent_eq run (State.panelByte_within idle rfl), fun hunt => ?_,
    fun length => ?_, fun n got check => ?_⟩, portEvent_eq run rfl, fun still => portEvent_eq run (if_neg ?_), fun i q hunt idle queue => ?_,
    fun idle => portEvent_eq run (if_neg ?_), fun i q sending queue => ⟨fun f one => ?_, fun f g rest more => ?_⟩⟩
  · exact portEvent_eq run (State.panelByte_within idle (by rw [hunt]; rfl))
  · exact portEvent_eq run (State.panelByte_within idle (by rw [length]; rfl))
  · refine portEvent_eq run ?_
    rw [State.panelByte_idle idle, check, PanelRx.take_check]
    split
    · rfl
    · simp only [Option.toList_none, List.append_nil]
  · rintro ⟨hunt, idle, queue⟩
    rcases still with busy | sending | empty
    · exact busy hunt
    · rw [sending] at idle
      cases idle
    · rw [empty] at queue
      cases queue
  · refine portEvent_eq run ?_
    rw [State.panelSend, if_pos ⟨hunt, by rw [idle]; rfl, by rw [queue]; rfl⟩, queue]
    rfl
  · rw [idle]
    exact Bool.false_ne_true
  · refine portEvent_eq run ?_
    rw [State.panelSent, if_pos sending, queue, sentHead, one]
  · refine portEvent_eq run ?_
    rw [State.panelSent, if_pos sending, queue, sentHead, more]

/-! ### The common checks (R149, R150, R152, R156) -/

/-- A refusal by a common check, whatever the kind: nothing but the receipt and the reply. -/
theorem exec_refused {c : Instr} {h : Hdr} {code : Nat} {s : State} {r : Reason} (header : headerOf c = some (h, code))
    (run : s.sts.phase ≠ .reset) (no : (s.heard h c).commonRefusal h code = some r) :
    exec c s = .next ((s.heard h c).enqueueAll (if repliesToRefusal h code r = true then
      [(s.heard h c).reply h (byteOf code) (s.ws.address h.sender) (.refused r)] else [])) := by
  have closed : (Ev.of (s.heard h c)).close (if repliesToRefusal h code r then
        some ((s.heard h c).reply h (byteOf code) ((s.heard h c).ws.address h.sender) (.refused r)) else none) =
      (s.heard h c).enqueueAll (if repliesToRefusal h code r = true then
        [(s.heard h c).reply h (byteOf code) (s.ws.address h.sender) (.refused r)] else []) := by
    rw [close_noScan _ _ rfl rfl, heard_ws]
    split <;> rfl
  have refused : ∀ {f : Ev → Ev × Answer} {ff : Answer → Bool}, Machine.request c h code f ff s = _ := fun {_ _} =>
    (request_refused run no).trans closed
  cases c with
  | statusRead h' =>
    cases header
    refine congrArg Host.Outcome.next ((if_neg run).trans ?_)
    dsimp only
    rw [show ((s.receive h (.statusRead h)).1).commonRefusal h codeStatusRead = some r from no]
    exact closed
  | _ => cases header <;> exact congrArg Host.Outcome.next refused

section checks

variable {s : State} {h : Hdr} {code : Nat}

theorem commonRefusal_role (role : roleAllows code h.sender = false) : s.commonRefusal h code = some .notPermitted := by
  unfold State.commonRefusal
  rw [role]
  rfl

theorem commonRefusal_shape (role : roleAllows code h.sender = true) (shape : h.wellShaped = false) :
    s.commonRefusal h code = some .badFormat := by
  unfold State.commonRefusal
  rw [role, shape]
  rfl

theorem commonRefusal_starting (role : roleAllows code h.sender = true) (shape : h.wellShaped = true) (starting : s.sts.phase = .starting)
    (other : code ≠ codeStatusRead) : s.commonRefusal h code = some .notReady := by
  unfold State.commonRefusal
  rw [role, shape, Bool.not_true, if_neg Bool.false_ne_true, if_neg Bool.false_ne_true, if_pos ⟨by rw [starting]; decide, other⟩]

theorem silentKind_iff : silentKind code = true ↔ code = codeVehicleData ∨ code = codePanelAlive := by
  unfold silentKind
  rw [Bool.or_eq_true, beq_iff_eq, beq_iff_eq]

end checks

/-- Settles O56. -/
theorem commonChecksRefuse : Obligations.CommonChecksRefuse := by
  intro c h code s header run r silent refusal
  refine ⟨fun role => ?_, fun role shape => ?_, fun role shape starting other => ?_⟩
  · rw [exec_refused header run (commonRefusal_role role)]
    unfold repliesToRefusal
    cases h.noReply <;> rfl
  · rw [exec_refused header run (commonRefusal_shape role shape)]
    by_cases quiet : silent
    · rw [if_pos quiet, if_neg]
      show ¬ (!silentKind code) = true
      rw [silentKind_iff.mpr quiet]
      exact Bool.false_ne_true
    · rw [if_neg quiet, if_pos]
      show (!silentKind code) = true
      rw [Bool.eq_false_iff.mpr (mt silentKind_iff.mp quiet)]
      rfl
  · rw [exec_refused header run (commonRefusal_starting role shape (by rw [heard_sts]; exact starting) other)]
    have replies : repliesToRefusal h code .notReady = true ↔ ¬ (h.noReply = true ∨ silent) := by
      show (!h.noReply && !silentKind code) = true ↔ _
      rw [Bool.and_eq_true, Bool.not_eq_true', Bool.not_eq_true', ← Bool.not_eq_true, ← Bool.not_eq_true, silentKind_iff]
      exact not_or.symm
    by_cases withheld : h.noReply = true ∨ silent
    · rw [if_pos withheld, if_neg fun h => replies.mp h withheld]
    · rw [if_neg withheld, if_pos (replies.mpr withheld)]

/-! ### PANEL_ALIVE and frames of no request kind (R149, R155) -/

/-- A panel frame taken in RUN is heard (R155). -/
theorem heard_panel {s : State} {h : Hdr} (panel : h.sender = .panel) (run : s.sts.phase = .run) (c : Instr) :
    (s.heard h c).lku.panelSilence = some ⟨s.now, 2000⟩ ∧ (s.heard h c).lku.panelLink = true := by
  have now : (s.takeFrame h.sender c).1.now = s.now := by
    unfold State.takeFrame
    rw [if_pos panel]
    split
    · split <;> rfl
    · rfl
  unfold State.heard State.receive
  dsimp only
  rw [if_pos ⟨panel, run⟩, State.panelHeard_lku, ← now]
  exact ⟨rfl, rfl⟩

/-- Settles O57. -/
theorem panelAliveAndUnknown : Obligations.PanelAliveAndUnknown := by
  refine ⟨fun s h p => ?_, fun s h kind run => ⟨?_, fun panel run => heard_panel panel run _⟩⟩
  · have panel : h.sender = .panel := by
      cases sender : h.sender with
      | panel => rfl
      | cab => exact absurd p.role (by rw [sender]; decide)
      | brake => exact absurd p.role (by rw [sender]; decide)
    obtain ⟨silence, link⟩ := heard_panel panel p.run (.panelAlive h)
    refine ⟨?_, silence, link, heard_st s h _⟩
    exact congrArg Host.Outcome.next ((p.silent _ (fun e => (e, .plain)) rfl).trans (close_noScan none _ rfl rfl))
  · refine congrArg Host.Outcome.next ((if_neg run).trans ((close_noScan _ _ rfl rfl).trans ?_))
    show (s.heard h _).enqueueAll [_] = (s.heard h _).enqueueAll [_]
    unfold State.reply
    rw [show (s.receive h (.unknownRequest h kind)).1.ws = s.ws from heard_ws s h _]
    rfl

/-! ### STATUS_READ, MASK_SET and TEST_EVENT (R158, R159, R161) -/

/-- A STATUS_READ of a defined shape passes the common checks in STARTING and RUN. -/
theorem exec_statusRead {s : State} {h : Hdr} (run : s.sts.phase ≠ .reset) (shape : h.wellShaped = true) :
    exec (.statusRead h) s = .next ((s.heard h (.statusRead h)).readStatus h) := by
  have passes : (s.receive h (.statusRead h)).1.commonRefusal h codeStatusRead = none := by
    unfold State.commonRefusal
    rw [show roleAllows codeStatusRead h.sender = true from rfl, shape, Bool.not_true, if_neg Bool.false_ne_true,
      if_neg Bool.false_ne_true, if_neg fun other => other.2 rfl]
  refine congrArg Host.Outcome.next ((if_neg run).trans ?_)
  dsimp only
  rw [passes]
  rfl

/-- The receipt of a STATUS_READ leaves the reply that the state gives. -/
theorem heard_statusReply (s : State) (h : Hdr) (c : Instr) : (s.heard h c).statusReply h = s.statusReply h := by
  rw [heard_st]
  rfl

/-- Queueing the reply leaves what a rearm reads. -/
theorem rearm_of_queued {s t : State} (queued : Queued s t) (m : Master) : t.rearm m = { t with evu := (s.rearm m).evu } := by
  rw [queued]
  rfl

/-- Settles O58. -/
theorem statusReadClearsOwnSet : Obligations.StatusReadClearsOwnSet := by
  intro s h run shape c r cleared offered
  have evu : (r.rearm h.sender).evu = cleared := by
    show ((s.heard h c).rearm h.sender).evu = _
    rw [heard_st]
    rfl
  have reply : r.enqueue (r.statusReply h) = offered := congrArg r.enqueue (heard_statusReply s h c)
  have queued : Queued r offered.1 := queued_enqueue r _
  refine ⟨fun silent => ?_, fun loud room => ?_, fun loud full => ⟨?_, ?_⟩, fun can off => ?_⟩
  · rw [exec_statusRead run shape, ← evu]
    exact congrArg Host.Outcome.next (if_pos silent)
  · rw [exec_statusRead run shape, ← evu, ← rearm_of_queued queued]
    unfold State.readStatus
    rw [loud]
    refine congrArg Host.Outcome.next ((if_neg Bool.false_ne_true).trans ?_)
    show (if (r.enqueue (r.statusReply h)).2 = true then (r.enqueue (r.statusReply h)).1.rearm h.sender else _) = _
    rw [reply]
    exact if_pos room
  · rw [exec_statusRead run shape]
    unfold State.readStatus
    rw [loud]
    refine congrArg Host.Outcome.next ((if_neg Bool.false_ne_true).trans ?_)
    show (if (r.enqueue (r.statusReply h)).2 = true then _ else (r.enqueue (r.statusReply h)).1) = _
    rw [reply]
    exact if_neg (by rw [full]; exact Bool.false_ne_true)
  · rw [queued]
    exact heard_evu s h c
  · have port : r.lku.port ≠ .onBus := by
      show (s.heard h c).lku.port ≠ _
      rw [heard_st]
      exact off
    show (r.enqueue _).2 = false
    unfold State.enqueue
    rw [if_neg (show ¬ h.sender = .panel from can), if_neg port]

theorem maskOf_get (x : Half) (k : EventKind) : (maskOf x).get k = x.getLsbD k.code := by cases k <;> rfl

/-- The kind that is latched stands in the set after it. -/
theorem latchInto_holds (x : LatchSet) (k : EventKind) : LatchSet.holds (latchInto x k []).1 k [] := by
  unfold LatchSet.holds latchInto
  cases old : x.get k with
  | none => exact ⟨_, PerKind.get_set _ _ _, fun _ h => absurd h List.not_mem_nil⟩
  | some p => exact ⟨p, old, fun _ h => absurd h List.not_mem_nil⟩

/-- Settles O59. -/
theorem maskAndTestOwnSet : Obligations.MaskAndTestOwnSet := by
  refine ⟨fun s h mask p => ⟨fun undefined => ?_, fun test rest => ?_⟩, fun s h p => ?_⟩
  · refine congrArg Host.Outcome.next (p.same _ _ rfl (if_pos ?_))
    rw [Bool.or_eq_true]
    exact undefined
  · refine ⟨maskOf mask, maskOf_get mask, congrArg Host.Outcome.next ((p.onto _ _ rfl
      (fun s => { s with evu.masks := s.evu.masks.set h.sender (maskOf mask) }) (if_neg ?_)).trans ?_)⟩
    · rw [test, rest]
      exact Bool.false_ne_true
    · dsimp only
      rw [heard_evu]
  · refine ⟨(latchInto (s.evu.latches.get h.sender) .test []).1, latchInto_holds _ .test, fun k other => latchInto_other _ _ _ _ other, ?_⟩
    rw [← heard_evu s h (.testEvent h), ← heard_ws s h (.testEvent h)]
    refine congrArg Host.Outcome.next ((p.request _ (fun e => (e.latchTest h.sender, .plain)) rfl).trans ?_)
    rw [scans_none _ _ rfl rfl]
    rfl

/-! ### Frames (R146, R172) -/

theorem canIdent_toNat {priority kind index count source dest : Nat} (p : priority < 4) (k : kind < 32) (i : index < 8) (c : 1 ≤ count)
    (c' : count ≤ 8) (s : source < 256) (d : dest < 256) : (canIdent priority kind index count source dest).toNat =
      priority * 2 ^ 27 + kind * 2 ^ 22 + index * 2 ^ 19 + (count - 1) * 2 ^ 16 + source * 2 ^ 8 + dest := by
  unfold canIdent
  rw [BitVec.toNat_ofNat, Nat.mod_eq_of_lt]
  omega

/-- The receiver over two runs of bytes. -/
theorem PanelRx.takeAll_append (x : PanelRx) (bs cs : List Byte) : x.takeAll (bs ++ cs) =
    (((x.takeAll bs).1.takeAll cs).1, (x.takeAll bs).2 ++ ((x.takeAll bs).1.takeAll cs).2) := by
  induction bs generalizing x with
  | nil => rfl
  | cons b bs ih =>
    simp only [List.cons_append, PanelRx.takeAll, ih, List.append_assoc]

/-- The body of a frame up to its last byte: the bytes are kept in order. -/
theorem PanelRx.takeAll_body (len : Nat) (bs got : List Byte) (short : got.length + bs.length ≤ len) :
    (PanelRx.body len got).takeAll bs = (.body len (got ++ bs), []) := by
  induction bs generalizing got with
  | nil => rw [List.append_nil]; rfl
  | cons b bs ih =>
    rw [List.length_cons] at short
    have taken : (PanelRx.body len got).take b false = (.body len (got ++ [b]), none) := by
      unfold PanelRx.take
      rw [if_neg Bool.false_ne_true]
      dsimp only
      rw [if_pos (by rw [List.length_append, List.length_singleton]; omega)]
    rw [PanelRx.takeAll, taken]
    dsimp only
    rw [ih (got ++ [b]) (by rw [List.length_append, List.length_singleton]; omega), List.append_assoc]
    rfl

/-- The last byte before the check byte. -/
theorem PanelRx.takeAll_bodyEnd (len : Nat) (bs : List Byte) (whole : bs.length = len + 1) :
    (PanelRx.body len []).takeAll bs = (.check len bs, []) := by
  obtain ⟨front, last, rfl⟩ := List.eq_nil_or_concat bs |>.resolve_left (fun empty => by rw [empty] at whole; cases whole)
  rw [List.length_concat] at whole
  have rest : front.length = len := Nat.succ.inj whole
  have taken : (PanelRx.body len front).take last false = (.check len (front ++ [last]), none) := by
    unfold PanelRx.take
    rw [if_neg Bool.false_ne_true]
    dsimp only
    rw [if_neg (by rw [List.length_append, List.length_singleton]; omega)]
  rw [List.concat_eq_append, PanelRx.takeAll_append, PanelRx.takeAll_body len front [] (by rw [List.length_nil]; omega), List.nil_append]
  dsimp only
  rw [PanelRx.takeAll, taken]
  rfl

/-- The check byte makes the sum of a frame's bytes 0 modulo 256. -/
theorem checkByte_sum (bs : List Byte) : ((bs.map BitVec.toNat).sum + (checkByte bs).toNat) % 256 = 0 := by
  unfold checkByte byteOf
  rw [BitVec.toNat_ofNat]
  omega

theorem panelFrame_taken (code : Nat) (payload : List Byte) (fits : payload.length ≤ 40) :
    PanelRx.takeAll .hunt (panelFrame code payload) = (.hunt, [{ kind := byteOf code, payload := payload }]) := by
  have length : (byteOf payload.length).toNat = payload.length := by
    unfold byteOf
    rw [BitVec.toNat_ofNat]
    omega
  have check := checkByte_sum ([startByte, byteOf payload.length, byteOf code] ++ payload)
  have laid : panelFrame code payload = startByte :: byteOf payload.length ::
      ((byteOf code :: payload) ++ [checkByte ([startByte, byteOf payload.length, byteOf code] ++ payload)]) := rfl
  have begun : PanelRx.length.take (byteOf payload.length) false = (.body payload.length [], none) := by
    unfold PanelRx.take
    rw [if_neg Bool.false_ne_true]
    dsimp only
    rw [length, if_pos (show payload.length ≤ payloadMax from fits)]
  rw [laid, PanelRx.takeAll, show PanelRx.hunt.take startByte false = (.length, none) from rfl]
  dsimp only
  rw [PanelRx.takeAll, begun]
  dsimp only
  rw [PanelRx.takeAll_append, PanelRx.takeAll_bodyEnd payload.length (byteOf code :: payload) rfl]
  dsimp only
  rw [PanelRx.takeAll, PanelRx.take_check, if_pos]
  · rfl
  · simp only [List.cons_append, List.nil_append, List.map_cons, List.sum_cons, length] at check
    rw [← check, List.map_cons, List.sum_cons, show startByte.toNat = 167 from rfl]
    rw [show [startByte, byteOf payload.length, byteOf code] ++ payload =
      startByte :: byteOf payload.length :: byteOf code :: payload from rfl]
    congr 1
    omega

/-- Settles O13. -/
theorem framesRoundTrip : Obligations.FramesRoundTrip := by
  refine ⟨panelFrame_taken, fun priority kind index count source dest p k i c c' s d => ?_⟩
  unfold identField
  rw [canIdent_toNat p k i c c' s d]
  refine ⟨?_, ?_, ?_, ?_, ?_, ?_⟩ <;> omega

end Sys2Proof.Machine
end

section
/-! SUPPORT. The settings and the arithmetic: usable fill steps, the active target, profile and parameter writes, the settings store, the
sequence points, and RESUME. -/

set_option Elab.async false

namespace Sys2Proof.Machine

/-! ### Fill steps (R43, R44) -/

/-- Settles O19: the two computations, with the least of the three bounds taken apart. -/
theorem fillGoalsBounded : Obligations.FillGoalsBounded := by
  refine ⟨fun h vR vN gR gN goal stepGoal cost node _ usable => ?_, fun h hc sides low target stepGoal cost drive pump side usable => ?_⟩
  · simp only [pressureFill] at usable
    split at usable
    · next gains =>
      obtain ⟨rfl, rfl⟩ := FillAnswer.step.inj usable
      have total : 0 < vR + vN := by omega
      have gainBound := Nat.div_mul_le_self (h * 100) vN
      have ceilingBound := Nat.div_mul_le_self (vR * (gR - driveMargin) + vN * gN) (vR + vN)
      have gainTight : h * 100 < (h * 100 / vN + 1) * vN := (Nat.div_lt_iff_lt_mul node).1 (Nat.lt_succ_self _)
      have ceilingTight := (Nat.div_lt_iff_lt_mul total).1 (Nat.lt_succ_self ((vR * (gR - driveMargin) + vN * gN) / (vR + vN)))
      rw [show driveMargin = 30 from rfl] at *
      generalize h * 100 / vN = gain at *
      generalize (vR * (gR - 30) + vN * gN) / (vR + vN) = ceiling at *
      generalize goal_ : min goal (min (gN + gain) ceiling) = x at *
      have step : gN + 10 ≤ x := gains
      have ofGain : (x - gN) * vN ≤ h * 100 := (Nat.mul_le_mul_right vN (by omega)).trans gainBound
      have paid : vN * (x - gN) ≤ h * 100 := by rwa [Nat.mul_comm]
      refine ⟨step, by omega, ofGain, (Nat.mul_le_mul_right _ (by omega)).trans ceilingBound, ?_, ?_, ?_, ?_⟩
      · by_cases atGoal : x = goal
        · exact .inl atGoal
        · by_cases atGain : x = gN + gain
          · rw [atGain, show gN + gain + 1 - gN = gain + 1 by omega]
            exact .inr (.inl gainTight)
          · rw [show x = ceiling by omega]
            exact .inr (.inr ceilingTight)
      all_goals
        unfold ceilDiv
        omega
    · cases usable
  · simp only [heightFill] at usable
    split at usable
    · next gains =>
      obtain ⟨rfl, rfl⟩ := FillAnswer.step.inj usable
      rw [Bool.and_eq_true, decide_eq_true_eq] at gains
      obtain ⟨gains, driven⟩ := gains
      have pumped : 0 < hc * sides := Nat.mul_pos pump side
      have bound := Nat.mul_div_le h (hc * sides)
      have tight := (Nat.div_lt_iff_lt_mul pumped).1 (Nat.lt_succ_self (h / (hc * sides)))
      generalize h / (hc * sides) = rise at *
      generalize goal_ : min target (low + rise) = x at *
      have step : low + 3 ≤ x := gains
      refine ⟨driven, step, by omega, rfl, (Nat.mul_le_mul_left _ (by omega)).trans bound, ?_⟩
      by_cases atGoal : x = target
      · exact .inl atGoal
      · rw [show x + 1 - low = rise + 1 by omega, Nat.mul_comm]
        exact .inr tight
    · cases usable

/-! ### The active target (R29, R30) -/

theorem le_ceilDiv_mul {b : Nat} (pos : 0 < b) (a : Nat) : a ≤ ceilDiv a b * b := by
  have tight := (Nat.div_lt_iff_lt_mul pos).1 (Nat.lt_succ_self ((a + b - 1) / b))
  rw [Nat.succ_mul] at tight
  unfold ceilDiv
  omega

theorem pred_mul_lt_of_le_ceilDiv {a b n : Nat} (pos : 0 < n) (le : n ≤ ceilDiv a b) : (n - 1) * b < a := by
  have bound := (Nat.mul_le_mul_right b le).trans (Nat.div_mul_le_self (a + b - 1) b)
  obtain ⟨m, rfl⟩ := Nat.exists_eq_add_of_lt pos
  rw [Nat.zero_add, Nat.succ_mul] at bound
  rw [Nat.zero_add, Nat.add_sub_cancel]
  by_cases zero : b = 0
  · rw [zero, ceilDiv, Nat.div_zero] at le
    omega
  · omega

theorem onLifted_iff (s : State) (u : Tyre) : s.onLifted u = true ↔ (u = .t1l ∨ u = .t1r) ∧ s.llu.lift = .lifted := by
  unfold State.onLifted
  rw [Bool.and_eq_true, beq_iff_eq]
  cases u <;> simp [Tyre.onLiftAxle]

/-- Settles O21: the first stage line by line, and the load-follow result between its bounds. -/
theorem activeTargetFormed : Obligations.ActiveTargetFormed := by
  intro s u o p lifted base
  refine ⟨rfl, ?_, ?_, ?_, fun plain basis follow grounded => ?_⟩
  · rintro v rfl
    rfl
  · rintro rfl basis
    exact if_pos basis
  · rintro rfl basis off
    have field : ¬ s.tgu.basis = .field := by rw [basis]; exact fun h => nomatch h
    refine (if_neg field).trans (if_neg ?_)
    rw [Bool.and_eq_true, Bool.not_eq_true', ← Bool.not_eq_true, onLifted_iff]
    rintro ⟨on, ground⟩
    cases off with
    | inl off => rw [off] at on; cases on
    | inr up => exact ground up
  · have field : ¬ s.tgu.basis = .field := by rw [basis]; exact fun h => nomatch h
    have formed : base = loadFollowResult (s.llu.load.get u.side) s.llu.axles p s.ws.rated s.ws.guardFloor := by
      rw [show base = s.baseTarget u none from plain ▸ rfl]
      refine (if_neg field).trans (if_pos ?_)
      rw [Bool.and_eq_true, Bool.not_eq_true', ← Bool.not_eq_true, onLifted_iff]
      exact ⟨follow, grounded⟩
    generalize base = base at *
    rw [formed]
    refine ⟨fun unset => ?_, fun low => ?_, fun l load high rated => ?_⟩
    · rw [unset]; rfl
    · cases s.llu.load.get u.side with
      | none => rfl
      | some l => exact if_pos low
    · rw [load, show loadFollowResult (some l) s.llu.axles p s.ws.rated s.ws.guardFloor =
        max s.ws.guardFloor (min p (ceilDiv (p * (l / s.llu.axles)) s.ws.rated)) from if_neg (by omega)]
      have cover := le_ceilDiv_mul rated (p * (l / s.llu.axles))
      show _ ∧ _ ∧ (_ → p * (l / s.llu.axles) ≤ _) ∧ (_ → _ < p * (l / s.llu.axles))
      refine ⟨by omega, by omega, fun less => cover.trans (Nat.mul_le_mul_right _ (by omega)), fun above => ?_⟩
      exact pred_mul_lt_of_le_ceilDiv (by omega) (by omega)

/-! ### PROFILE_WRITE (R26) -/

theorem clamp_tyre (v : Nat) : clamp tyreMin tyreMax v =
    (if v < 300 then 300 else if 820 < v then 820 else v, decide (v < 300 ∨ 820 < v)) := by
  unfold clamp
  rw [show tyreMin = 300 from rfl, show tyreMax = 820 from rfl]
  by_cases low : v < 300
  · rw [if_pos (by omega), if_pos low, decide_eq_true (.inl low)]
  · by_cases high : 820 < v
    · rw [if_neg (by omega), if_pos (by omega), if_neg low, if_pos high, decide_eq_true (.inr high)]
    · rw [if_neg (by omega), if_neg (by omega), if_neg low, if_neg high, decide_eq_false (by omega), Int.toNat_natCast]

theorem basisOfByte_none {profile : Byte} : Basis.ofByte profile = none ↔ 2 ≤ profile.toNat := by
  unfold Basis.ofByte
  rcases profile.toNat with _ | _ | n
  · exact iff_of_false (fun h => nomatch h) (by omega)
  · exact iff_of_false (fun h => nomatch h) (by omega)
  · exact iff_of_true rfl (by omega)

theorem basisOfByte_some {profile : Byte} (small : profile.toNat < 2) :
    Basis.ofByte profile = some (if profile.toNat = 0 then .road else .field) := by
  have cases_ : profile.toNat = 0 ∨ profile.toNat = 1 := by omega
  unfold Basis.ofByte
  cases cases_ with
  | inl zero => rw [zero]; rfl
  | inr one => rw [one]; rfl

theorem Sts.busy_false {x : Sts} : x.busy = false ↔ x.writing = none := Option.isSome_eq_false_iff.trans Option.isNone_iff_eq_none

theorem Sts.busy_true {x : Sts} : x.busy = true ↔ x.writing ≠ none := by
  rw [Ne, ← Sts.busy_false, Bool.not_eq_false]

theorem profileWrite_taken {e : Ev} {node profile : Byte} {u : Tyre} {b : Basis} (named : Tyre.ofNumber node.toNat = some u)
    (coded : Basis.ofByte profile = some b) (idle : e.st.sts.busy = false) (value : Half) :
    e.profileWrite node profile value =
      (if b = e.st.tgu.basis ∧ (e.st.tgu.tyres.get u).override.isNone then
        (e.on fun s => s.setHolding u b (clamp tyreMin tyreMax value.toNat).1).recompute .other u
       else e.on fun s => s.setHolding u b (clamp tyreMin tyreMax value.toNat).1,
       .accepted (clamp tyreMin tyreMax value.toNat).2 false none []) := by
  unfold Ev.profileWrite
  rw [named, coded]
  dsimp only
  rw [if_neg (by rw [idle]; exact Bool.false_ne_true), Ev.on_st, show ∀ v, (e.st.setHolding u b v).tgu = e.st.tgu from fun v => by cases b <;> rfl]
  split <;> rfl

theorem profileWrite_badFormat {e : Ev} {node profile : Byte} (bad : Tyre.ofNumber node.toNat = none ∨ Basis.ofByte profile = none) (value : Half) :
    e.profileWrite node profile value = (e, .refused .badFormat) := by
  unfold Ev.profileWrite
  cases named : Tyre.ofNumber node.toNat with
  | none => rfl
  | some u =>
    rw [bad.resolve_left (by rw [named]; exact Option.some_ne_none u)]

theorem profileWrite_busy {e : Ev} {node profile : Byte} {u : Tyre} {b : Basis} (named : Tyre.ofNumber node.toNat = some u)
    (coded : Basis.ofByte profile = some b) (busy : e.st.sts.busy = true) (value : Half) :
    e.profileWrite node profile value = (e, .refused .storeBusy) := by
  unfold Ev.profileWrite
  rw [named, coded]
  exact if_pos busy

theorem recompute_loading {e : Ev} (mode : e.st.tgu.mode = .loading) (c : Cause) (u : Tyre) : e.recompute c u = e := if_pos (.inl mode)

/-- Settles O24: the handler's branches, a write that asks for nothing changing the state alone. -/
theorem profileWriteWritesHolding : Obligations.ProfileWriteWritesHolding := by
  intro s h node profile value p c r v
  refine ⟨fun bad => ?_, fun u named small busy => ?_, fun u named small idle => ?_⟩
  · refine congrArg Host.Outcome.next (p.same _ _ rfl (profileWrite_badFormat ?_ value))
    exact bad.imp_right basisOfByte_none.2
  · refine congrArg Host.Outcome.next (p.same _ _ rfl (profileWrite_busy named (basisOfByte_some small) ?_ value))
    rw [Ev.of_st, heard_sts]
    exact Sts.busy_true.2 busy
  · intro w r'
    have free : (Ev.of (s.heard h c)).st.sts.busy = false := by
      rw [Ev.of_st, heard_sts]
      exact Sts.busy_false.2 idle
    have taken := profileWrite_taken named (basisOfByte_some small) free value
    rw [clamp_tyre] at taken
    have value_ : v = if value.toNat < 300 then 300 else if 820 < value.toNat then 820 else value.toNat := rfl
    rw [← value_] at taken
    have same : (s.heard h c).setHolding u (if profile.toNat = 0 then .road else .field) v = r' := by
      by_cases road : profile.toNat = 0
      · rw [if_pos road, show r' = { r with sts.ws := { s.ws with road := s.ws.road.set u v } } from
          congrArg (fun w => { r with sts.ws := w }) (if_pos ((byte_eq_iff profile 0 (by omega)).2 road)), ← heard_ws s h c]
        rfl
      · rw [if_neg road, show r' = { r with sts.ws := { s.ws with field := s.ws.field.set u v } } from
          congrArg (fun w => { r with sts.ws := w }) (if_neg (mt (byte_eq_iff profile 0 (by omega)).1 road)), ← heard_ws s h c]
        rfl
    have coded : ∀ b, (if profile.toNat = 0 then Basis.road else Basis.field) = b →
        ((profile.toNat = 0 ↔ b = .field) → False) := by
      rintro b rfl other
      split at other
      · next zero => exact absurd (other.1 zero) (fun h => nomatch h)
      · next zero => exact absurd (other.2 rfl) zero
    generalize (if profile.toNat = 0 then Basis.road else Basis.field) = b at *
    clear_value v
    have fixed : (Ev.profileWrite node profile value (Ev.of (s.heard h c))).1.st.fixed = r'.fixed := by
      rw [taken]
      dsimp only
      split
      · rw [Ev.recompute_fixed, Ev.on_st, Ev.of_st, same]
      · rw [Ev.on_st, Ev.of_st, same]
    refine ⟨_, rfl, ?_, ?_, fun apart => ?_⟩
    · rw [← fixed]
      exact p.fixed c (Ev.profileWrite node profile value) noFrame
    · have link := p.link c (Ev.profileWrite node profile value) noFrame
      unfold SameLink at link ⊢
      rw [← State.fixed_lku (Ev.profileWrite node profile value (Ev.of (s.heard h c))).1.st, fixed] at link
      exact link
    · have alone : Ev.profileWrite node profile value (Ev.of (s.heard h c)) =
          ((Ev.of (s.heard h c)).on fun s => s.setHolding u b v,
            .accepted (decide (v ≠ value.toNat)) false none []) := by
        rw [taken]
        refine Prod.ext ?_ (congrArg (fun b => Answer.accepted b false none []) ?_)
        · dsimp only
          split
          · next asks =>
            obtain ⟨basis, override⟩ := asks
            rw [Ev.of_st, heard_tgu] at basis override
            have mode : s.tgu.mode = .loading := by
              rcases apart with other | loading | given
              · exact absurd other (coded _ basis)
              · exact loading
              · exact absurd (Option.isNone_iff_eq_none.1 override) given
            refine recompute_loading ?_ _ _
            rw [Ev.on_st, Ev.of_st, same]
            show (s.heard h c).tgu.mode = .loading
            rw [heard_tgu]
            exact mode
          · rfl
        · refine decide_eq_decide.2 ?_
          rw [value_]
          split <;> [skip; split] <;> omega
      have exact_ := p.onto c (Ev.profileWrite node profile value) rfl (fun s => s.setHolding u b v) alone
      rw [same] at exact_
      exact exact_

end Sys2Proof.Machine
end

section
/-! SUPPORT. The requests of the settings store, RESUME and the sequence points. -/

set_option Elab.async false

namespace Sys2Proof.Machine

/-! ### CONFIG_WRITE (R165) -/

/-- Where the answer's reply does not go to the frame's own address, the request is one with `noFrame`. -/
theorem request_noFrame {c : Instr} {h : Hdr} {code : Nat} {f : Ev → Ev × Answer} {ff : Answer → Bool} {s : State} {a : Answer}
    (answer : (f (Ev.of (s.heard h c))).2 = a) (home : ff a = false) : request c h code f ff s = request c h code f noFrame s := by
  unfold request
  split
  · rfl
  · dsimp only
    split
    · rfl
    · rw [show (f (Ev.of (s.receive h c).1)).2 = a from answer, home]
      rfl

theorem configRefusal_badFormat {s : State} {n v : Nat} (enc : paramEncodes n v = false) : s.configRefusal n v = some .badFormat :=
  if_pos (by rw [enc]; rfl)

section checks

variable {s : State} {n v : Nat} (enc : paramEncodes n v = true)

include enc

theorem configRefusal_busy (busy : s.sts.busy = true) : s.configRefusal n v = some .storeBusy := by
  unfold State.configRefusal
  rw [if_neg (by rw [enc]; exact Bool.false_ne_true), if_pos busy]

variable (idle : s.sts.busy = false)

include idle

theorem configRefusal_speed (moves : s.speedState ≠ .standstill) : s.configRefusal n v = some .speed := by
  unfold State.configRefusal
  rw [if_neg (by rw [enc]; exact Bool.false_ne_true), if_neg (by rw [idle]; exact Bool.false_ne_true), if_pos moves]

variable (still : s.speedState = .standstill)

include still

theorem configRefusal_badValue (bad : s.ws.accepts n v = false) : s.configRefusal n v = some .badValue := by
  unfold State.configRefusal
  rw [if_neg (by rw [enc]; exact Bool.false_ne_true), if_neg (by rw [idle]; exact Bool.false_ne_true), if_neg (fun no => no still),
    if_pos (by rw [bad]; rfl)]

theorem configRefusal_accepts (good : s.ws.accepts n v = true) : s.configRefusal n v = none := by
  unfold State.configRefusal
  rw [if_neg (by rw [enc]; exact Bool.false_ne_true), if_neg (by rw [idle]; exact Bool.false_ne_true), if_neg (fun no => no still),
    if_neg (by rw [good]; exact Bool.false_ne_true)]

end checks

theorem configWrite_refused {e : Ev} {number : Byte} {value : Half} {x : Reason}
    (refused : e.st.configRefusal number.toNat value.toNat = some x) : e.configWrite number value = (e, .refused x) := by
  unfold Ev.configWrite
  rw [refused]

theorem configWrite_accepted {e : Ev} {number : Byte} {value : Half} (accepted : e.st.configRefusal number.toNat value.toNat = none) :
    e.configWrite number value = ((e.on fun s => s.writeParam number.toNat value.toNat).paramWritten number.toNat, .plain) := by
  unfold Ev.configWrite
  rw [accepted]

/-- A refused CONFIG_WRITE is answered and changes nothing. -/
theorem Passes.configRefused {s : State} {h : Hdr} {number : Byte} {value : Half} {x : Reason} (p : Passes s h codeConfigWrite)
    (refused : s.configRefusal number.toNat value.toNat = some x) :
    exec (.configWrite h number value) s = .next ((s.heard h (.configWrite h number value)).answered
      (s.heard h (.configWrite h number value)) h codeConfigWrite (.refused x)) := by
  have handled : Ev.configWrite number value (Ev.of (s.heard h (.configWrite h number value))) =
      (Ev.of (s.heard h (.configWrite h number value)), .refused x) := by
    refine configWrite_refused ?_
    rw [Ev.of_st]
    unfold State.configRefusal at refused ⊢
    rwa [heard_sts, heard_speedState, heard_ws]
  exact congrArg Host.Outcome.next ((request_noFrame (congrArg Prod.snd handled) rfl).trans (p.same _ _ rfl handled))

/-- Settles O26: the checks in order, and the written parameter read back. -/
theorem configWriteWritesParameter : Obligations.ConfigWriteWritesParameter := by
  intro s h number value p c r n v
  refine ⟨fun bad => p.configRefused (configRefusal_badFormat bad),
    fun enc busy => p.configRefused (configRefusal_busy enc (Sts.busy_true.2 busy)),
    fun enc idle moves => p.configRefused (configRefusal_speed enc (Sts.busy_false.2 idle) moves),
    fun enc idle still bad => p.configRefused (configRefusal_badValue enc (Sts.busy_false.2 idle) still bad),
    fun enc idle still good full => ?_⟩
  have accepted : r.configRefusal n v = none := by
    have own := configRefusal_accepts enc (Sts.busy_false.2 idle) still good
    unfold State.configRefusal at own ⊢
    rwa [show r.sts = s.sts from heard_sts s h c, show r.speedState = s.speedState from heard_speedState s h c,
      show r.ws = s.ws from heard_ws s h c]
  have handled := configWrite_accepted (e := Ev.of r) accepted
  have fixed : (Ev.configWrite number value (Ev.of r)).1.st.fixed = { r.fixed with
      sts.ws := s.ws.setParam n v
      priority := if n = 15 then (r.writeParam n v).nextPriority else s.aac.priority } := by
    rw [handled]
    refine (Ev.paramWritten_fixed n _).trans ?_
    rw [Ev.on_st, Ev.of_st, show s.ws = r.ws from (heard_ws s h c).symm, show s.aac = r.aac from (heard_aac s h c).symm]
    rfl
  have closed := p.fixed c (Ev.configWrite number value) (writesAddress number)
  have link := p.link c (Ev.configWrite number value) (writesAddress number)
  rw [show Ev.of (s.heard h c) = Ev.of r from rfl] at closed link
  rw [fixed] at closed
  have written : (request c h codeConfigWrite (Ev.configWrite number value) (writesAddress number) s).ws = s.ws.setParam n v :=
    congrArg (fun f => f.sts.ws) closed
  refine ⟨_, rfl, ?_⟩
  show (request c h codeConfigWrite (Ev.configWrite number value) (writesAddress number) s).ws.param n = some v ∧ _
  generalize request c h codeConfigWrite (Ev.configWrite number value) (writesAddress number) s = t at *
  have holding := Settings.setParam_holding s.ws enc
  rw [written]
  refine ⟨Settings.param_setParam_same _ enc full, fun k ne => Settings.param_setParam_ne _ enc ne, holding.1, holding.2, ?_, ?_⟩
  · have priority : t.aac.priority = if n = 15 then (r.writeParam n v).nextPriority else s.aac.priority :=
      congrArg Fixed.priority closed
    rw [closed, priority]
    split <;> rfl
  · unfold SameLink at link ⊢
    rw [← State.fixed_lku (Ev.configWrite number value (Ev.of r)).1.st, fixed] at link
    exact link

/-! ### STORE and the start after it (R168, R169) -/

theorem State.endWrite_of_writing {s : State} {w : StoreWrite} (writing : s.sts.writing = some w) :
    s.endWrite = { s with sts.image := some w.image, sts.writing := none } := by
  unfold State.endWrite
  rw [writing]

theorem Queued.sts {s t : State} (q : Queued s t) : t.sts = s.sts := by
  rw [show t = _ from q]

/-- Settles O27: the store write, its end and the two starts. -/
theorem storeAndReload : Obligations.StoreAndReload := by
  intro s h p c r
  refine ⟨fun busy => ?_, fun idle => ?_⟩
  · refine congrArg Host.Outcome.next (p.same _ _ rfl (if_pos ?_))
    rw [Ev.of_st, heard_sts]
    exact Sts.busy_true.2 busy
  · have begun := p.onto c Ev.storeSettings rfl State.beginWrite (a := .plain) (if_neg (by
      rw [Ev.of_st, heard_sts, Sts.busy_false.2 idle]
      exact Bool.false_ne_true))
    have sts : ((s.heard h c).beginWrite.answered r h codeStore .plain).sts =
        { s.sts with image := none, writing := some { image := s.ws.image, timer := ⟨s.now, 60⟩ } } := by
      refine (queued_enqueueAll _ _).sts.trans ?_
      rw [State.beginWrite_sts, heard_sts, heard_now]
      rfl
    have same : (s.heard h c).beginWrite =
        { r with sts := { r.sts with image := none, writing := some { image := s.ws.image, timer := ⟨s.now, 60⟩ } } } := by
      rw [← heard_ws s h c, ← heard_now s h c]
      rfl
    rw [same] at begun sts
    refine ⟨_, _, congrArg Host.Outcome.next begun, ?_, rfl, rfl, fun legal => ?_, ?_⟩
    · generalize State.answered _ r h codeStore .plain = t at sts ⊢
      refine congrArg Host.Outcome.next ((event_on ?_ State.endWrite).trans (State.endWrite_of_writing (w := { image := s.ws.image, timer := ⟨s.now, 60⟩ }) ?_))
      · rw [sts, p.run]
        exact fun h => nomatch h
      · rw [sts]
    · refine ⟨_, congrArg Host.Outcome.next (start_of_good rfl (Settings.imageGood_image legal)), ?_, rfl⟩
      exact Settings.ofWords_image legal
    · generalize State.answered _ r h codeStore .plain = t at sts ⊢
      have absent : t.sts.image = none := by rw [sts]
      refine ⟨_, _, rfl, rfl, ?_⟩
      have start := start_of_bad (s := State.startValues .reset Settings.default Settings.default.road t.sts.image t.now t.freeCount t.pending)
        (fun w image => by rw [show _ = t.sts.image from rfl, absent] at image; cases image)
      exact ⟨by rw [start.2]; rfl, start.1⟩

/-! ### RESUME (R97) -/

/-- What a grant scan could grant depends on the records and the galleries alone. -/
theorem NoGrant.same {s t : State} (n : NoGrant s) (transfers : t.transfers = s.transfers) (galleries : t.glc.galleries = s.glc.galleries) :
    NoGrant t := fun d live queued => by
  rw [transfers] at live
  unfold State.idle
  rw [galleries]
  exact n d live queued

theorem StopSet.put_false (x : StopSet) (m : Master) : x.put m false = ⟨x.cab && m != .cab, x.panel && m != .panel⟩ := by
  obtain ⟨cab, panel⟩ := x
  cases m <;> cases cab <;> cases panel <;> rfl

theorem Ev.setStop_out (x : StopSet) (e : Ev) : (e.setStop x).out = e.out := by
  unfold Ev.setStop
  dsimp only
  split
  · exact Ev.triggerBoth_out _
  · rfl

theorem Ev.setStop_quiet {x : StopSet} {e : Ev} (h : x.occupied = true ∨ e.st.glc.stop.occupied = false) :
    e.setStop x = e.on fun s => { s with glc.stop := x } := by
  refine if_neg ?_
  cases h with
  | inl stays => rw [stays, Bool.not_true, Bool.and_false]; exact Bool.false_ne_true
  | inr free => rw [free, Bool.false_and]; exact Bool.false_ne_true

/-- Settles O42: the handler changes the stop set, and where it triggers a scan there is nothing to grant. -/
theorem resumeLeavesStopSet : Obligations.ResumeLeavesStopSet := by
  intro s h p c r x
  have handled : Ev.resume h.sender (Ev.of r) = ((Ev.of r).setStop x, .plain) := by
    unfold Ev.resume
    rw [StopSet.put_false, Ev.of_st, show r.glc = s.glc from heard_glc s h c]
  have set : (Ev.resume h.sender (Ev.of r)).1.st = { r with glc.stop := x } := by
    rw [handled]
    exact Ev.setStop_st _ _
  refine ⟨⟨_, rfl, ?_, ?_⟩, fun calm => ?_⟩
  · have fixed := p.fixed c (Ev.resume h.sender) noFrame
    rw [show Ev.of (s.heard h c) = Ev.of r from rfl, set] at fixed
    exact fixed
  · have link := p.link c (Ev.resume h.sender) noFrame
    rw [show Ev.of (s.heard h c) = Ev.of r from rfl, set] at link
    exact link
  · rcases calm with still | rest
    · have none : NoGrant (Ev.resume h.sender (Ev.of r)).1.st := by
        rw [set]
        exact (still.same (heard_transfers s h c) (congrArg Glc.galleries (heard_glc s h c))).same rfl rfl
      have quiet := p.noGrant c (Ev.resume h.sender) rfl none
      rw [show Ev.of (s.heard h c) = Ev.of r from rfl, set, handled] at quiet
      dsimp only at quiet
      rw [Ev.setStop_out, Ev.of_out, List.append_nil] at quiet
      exact congrArg Host.Outcome.next quiet
    · refine congrArg Host.Outcome.next (p.onto c (Ev.resume h.sender) rfl (fun s => { s with glc.stop := x }) ?_)
      refine handled.trans (congrArg (·, Answer.plain) (Ev.setStop_quiet ?_))
      rwa [Ev.of_st, show r.glc = s.glc from heard_glc s h c]

/-! ### Sequence points (R68) -/

/-- Some transfer of a list has the family given. -/
def standsOn (fill : Bool) (l : List LiveRec) : Bool := l.any fun r => match r with
  | .transfer d => d.kind.isFill == fill
  | .point _ => false

theorem standsOn_iff (fill : Bool) (l : List LiveRec) : standsOn fill l = true ↔ ∃ d, LiveRec.transfer d ∈ l ∧ d.kind.isFill = fill := by
  unfold standsOn
  rw [List.any_eq_true]
  constructor
  · rintro ⟨r, mem, stands⟩
    cases r with
    | transfer d => exact ⟨d, mem, beq_iff_eq.1 stands⟩
    | point p => cases stands
  · rintro ⟨d, mem, stands⟩
    exact ⟨_, mem, beq_iff_eq.2 stands⟩

/-- The retirement test walks a list in two parts, the second with the families of the first behind it. -/
theorem retireWalk_append (fills vents : Bool) (older younger : List LiveRec) : retireWalk fills vents (older ++ younger) =
    ((retireWalk fills vents older).1 ++ (retireWalk (fills || standsOn true older) (vents || standsOn false older) younger).1,
     (retireWalk fills vents older).2 ++ (retireWalk (fills || standsOn true older) (vents || standsOn false older) younger).2) := by
  induction older generalizing fills vents with
  | nil => simp [retireWalk, standsOn]
  | cons r older ih =>
    cases r with
    | transfer d =>
      have fill : standsOn true (.transfer d :: older) = (d.kind.isFill || standsOn true older) := by simp [standsOn]
      have vent : standsOn false (.transfer d :: older) = (!d.kind.isFill || standsOn false older) := by simp [standsOn]
      simp only [List.cons_append, retireWalk, ih, fill, vent, Bool.or_assoc]
    | point p =>
      have same : ∀ b, standsOn b (.point p :: older) = standsOn b older := fun b => rfl
      simp only [List.cons_append, retireWalk, ih, same]
      split <;> rfl

theorem retireWalk_point (fills vents : Bool) (p : Point) (r : List LiveRec) : retireWalk fills vents (.point p :: r) =
    if (p.pred.fill && fills || p.pred.vent && vents) = true then (.point p :: (retireWalk fills vents r).1, (retireWalk fills vents r).2)
    else ((retireWalk fills vents r).1, p.id :: (retireWalk fills vents r).2) := rfl

/-- A point is held by an older transfer whose family is in its pred set. -/
theorem heldBy_iff (older : List LiveRec) (p : Point) :
    (p.pred.fill && (false || standsOn true older) || p.pred.vent && (false || standsOn false older)) = true ↔
      ∃ d, LiveRec.transfer d ∈ older ∧ (if d.kind.isFill = true then p.pred.fill = true else p.pred.vent = true) := by
  rw [Bool.false_or, Bool.false_or, Bool.or_eq_true, Bool.and_eq_true, Bool.and_eq_true, standsOn_iff, standsOn_iff]
  constructor
  · rintro (⟨fill, d, live, kind⟩ | ⟨vent, d, live, kind⟩)
    · exact ⟨d, live, by rwa [if_pos kind]⟩
    · exact ⟨d, live, by rwa [if_neg (by rw [kind]; exact Bool.false_ne_true)]⟩
  · rintro ⟨d, live, family⟩
    split at family
    · next kind => exact .inl ⟨family, d, live, kind⟩
    · next kind => exact .inr ⟨family, d, live, Bool.not_eq_true _ ▸ kind⟩

/-- Settles O35: the walk is cut at the point. -/
theorem pointsRetire : Obligations.PointsRetire := by
  intro older younger p held
  refine ⟨(retireWalk (false || standsOn true older) (false || standsOn false older) younger).1,
    (retireWalk (false || standsOn true older) (false || standsOn false older) younger).2, ⟨fun stays => ?_, fun goes => ?_⟩, retireWalk_transfers _ _ _⟩
  · rw [retireWalk_append, retireWalk_point, if_pos ((heldBy_iff older p).2 stays)]
  · rw [retireWalk_append, retireWalk_point, if_neg (mt (heldBy_iff older p).1 goes)]

end Sys2Proof.Machine
end

section
/-! SUPPORT. The descriptor manager's asks: what an ask does by what it meets, and the requests that meet a refusal. -/

set_option Elab.async false

namespace Sys2Proof.Machine

/-! ### Refusals (R60) -/

/-- The starvation counters after the refusal of an ask of a class. -/
def Starve.up (x : Starve) : Cls → Starve
  | .height => { x with height := starveUp x.height }
  | .lift => { x with lift := starveUp x.lift }
  | .tyre => { x with tyre := starveUp x.tyre }

/-- The state with the counter of a class moved. -/
def State.starved (s : State) (c : Cls) : State := { s with dqm.starve := s.dqm.starve.up c }

theorem refuse_eq (c : Cls) (ns : List Managed) (e : Ev) :
    e.refuse c ns = Ev.latch .starved (ns.map Managed.node) (e.on fun s => s.starved c) := by
  cases c <;> rfl

theorem refuse_st (c : Cls) (ns : List Managed) (e : Ev) :
    (e.refuse c ns).st = { e.st.starved c with evu.latches := (e.refuse c ns).st.evu.latches } := by
  rw [refuse_eq]
  exact Ev.latch_st _ _ _

@[simp] theorem refuse_scan (c : Cls) (ns : List Managed) (e : Ev) : (e.refuse c ns).scan = e.scan := by
  rw [refuse_eq, Ev.latch_scan, Ev.on_scan]

theorem refuse_latched (c : Cls) (ns : List Managed) (e : Ev) : LatchedAll (e.refuse c ns).st .starved (ns.map Managed.node) := by
  rw [refuse_eq]
  exact latched_latch _ _ _

/-! ### Allocation (R58) -/

/-- The state in which the head of the free list has become the youngest live record. -/
def State.allocated (s : State) (a : Ask) (id : Nat) (rest : List Nat) : State :=
  State.becameLive { s with dqm.free := rest, dqm.live := s.dqm.live ++ [.transfer (a.record id (s.ws.maxSteps.get a.cls))] } a

theorem tyresServed_frame (ms : List Managed) (s : State) : s.tyresServed ms = { s with tgu.tyres := (s.tyresServed ms).tgu.tyres } := by
  induction ms generalizing s with
  | nil => rfl
  | cons m ms ih =>
    unfold State.tyresServed
    split
    · next t _ => exact (ih (s.tyreServed t)).trans rfl
    · exact ih s

theorem becameLive_frame (s : State) (a : Ask) :
    s.becameLive a = { s with
      tgu.tyres := (s.becameLive a).tgu.tyres
      hlc.persist := (s.becameLive a).hlc.persist, hlc.pending := (s.becameLive a).hlc.pending } := by
  unfold State.becameLive
  split
  · have hlc : (s.tyresServed a.nodes).hlc = s.hlc := by rw [tyresServed_frame]
    rw [hlc]
    exact tyresServed_frame _ s
  · rfl
  · rfl

theorem becameLive_dqm (s : State) (a : Ask) : (s.becameLive a).dqm = s.dqm := by rw [becameLive_frame]

theorem allocated_dqm (s : State) (a : Ask) (id : Nat) (rest : List Nat) : (s.allocated a id rest).dqm =
    { s.dqm with free := rest, live := s.dqm.live ++ [.transfer (a.record id (s.ws.maxSteps.get a.cls))] } := becameLive_dqm _ a

section asks

variable {a : Ask} {e : Ev}

theorem allocate_taken {id : Nat} {rest : List Nat} (free : e.st.dqm.free = id :: rest) (room : rest ≠ [] ∨ a.cls = .height) :
    e.allocate a = ((e.on fun s => s.allocated a id rest).triggerBoth, .allocated id) := by
  unfold Ev.allocate
  rw [free]
  dsimp only
  rw [if_neg]
  · rfl
  · rw [Bool.and_eq_true, List.isEmpty_iff, bne_iff_ne]
    rintro ⟨empty, cls⟩
    exact room.elim (fun some => some empty) cls

theorem allocate_refused (none : e.st.dqm.free = [] ∨ (e.st.dqm.free.length = 1 ∧ a.cls ≠ .height)) :
    e.allocate a = (e.refuse a.cls a.nodes, .refused) := by
  unfold Ev.allocate
  rcases none with empty | ⟨one, cls⟩
  · rw [empty]
  · obtain ⟨id, free⟩ := List.length_eq_one_iff.1 one
    rw [free]
    exact if_pos (by rw [Bool.and_eq_true, bne_iff_ne]; exact ⟨rfl, cls⟩)

/-- An ask that shares no node with a live transfer is decided against the free list. -/
theorem ask_new (new : e.st.descSharing a.nodes = none) : e.ask a = e.allocate a := by
  unfold Ev.ask
  rw [new]

theorem ask_taken {id : Nat} {rest : List Nat} (new : e.st.descSharing a.nodes = none) (free : e.st.dqm.free = id :: rest)
    (room : rest ≠ [] ∨ a.cls = .height) : e.ask a = ((e.on fun s => s.allocated a id rest).triggerBoth, .allocated id) :=
  (ask_new new).trans (allocate_taken free room)

variable {d : Desc} (live : e.st.descSharing a.nodes = some d)

include live

theorem ask_torn (torn : d.torn ≠ none) : e.ask a = (e.refuse a.cls a.nodes, .refused) := by
  unfold Ev.ask
  rw [live]
  exact if_pos (Option.isSome_iff_ne_none.2 torn)

variable (whole : d.torn = none)

include whole

theorem ask_queued (queued : d.state = .queued) : e.ask a = (e.mergeQueued d a, .merged d.id) := by
  unfold Ev.ask
  rw [live]
  dsimp only
  rw [if_neg (by rw [whole]; exact Bool.false_ne_true), if_pos queued]

theorem ask_inFlight (flight : d.state ≠ .queued) : e.ask a = (e.mergePending d a, .merged d.id) := by
  unfold Ev.ask
  rw [live]
  dsimp only
  rw [if_neg (by rw [whole]; exact Bool.false_ne_true), if_neg flight]

theorem ask_merged : (e.ask a).2 = .merged d.id := by
  by_cases queued : d.state = .queued
  · rw [ask_queued live whole queued]
  · rw [ask_inFlight live whole queued]

end asks

/-- An ask that is refused: by a torn descriptor, or for want of a record. -/
theorem ask_refused {a : Ask} {e : Ev} (no : (∃ d, e.st.descSharing a.nodes = some d ∧ d.torn ≠ none) ∨
    (e.st.descSharing a.nodes = none ∧ (e.st.dqm.free = [] ∨ (e.st.dqm.free.length = 1 ∧ a.cls ≠ .height)))) :
    e.ask a = (e.refuse a.cls a.nodes, .refused) := by
  rcases no with ⟨d, live, torn⟩ | ⟨new, none⟩
  · exact ask_torn live torn
  · exact (ask_new new).trans (allocate_refused none)

/-- At most one free record is none for a class other than HEIGHT. -/
theorem free_short {l : List Nat} (short : l.length ≤ 1) : l = [] ∨ l.length = 1 := by
  cases l with
  | nil => exact .inl rfl
  | cons a l => rw [List.length_cons] at short ⊢; exact .inr (by omega)

/-- Settles O34. -/
theorem allocationKeepsReserve : Obligations.AllocationKeepsReserve := by
  intro a e new
  refine ⟨fun id rest free room => ?_, fun none => ?_⟩
  · rw [ask_taken new free room]
    dsimp only
    rw [Ev.triggerBoth_st, Ev.on_st, allocated_dqm]
    exact ⟨rfl, rfl, rfl, rfl⟩
  · rw [(ask_new new).trans (allocate_refused none)]
    have latched := refuse_latched a.cls a.nodes e
    dsimp only
    rw [refuse_st] at latched ⊢
    refine ⟨rfl, rfl, rfl, latched, ?_⟩
    show e.st.dqm.starve.up a.cls = _
    cases a.cls <;> rfl

/-! ### SEQUENCE (R66) -/

theorem retireWalk_kept {fills vents : Bool} {l : List LiveRec} (none : (retireWalk fills vents l).2 = []) : (retireWalk fills vents l).1 = l := by
  induction l generalizing fills vents with
  | nil => rfl
  | cons r l ih =>
    cases r with
    | transfer d => exact congrArg (LiveRec.transfer d :: ·) (ih none)
    | point p =>
      rw [retireWalk_point] at none ⊢
      split at none
      · next held => rw [if_pos held, ih none]
      · cases none

/-- The test of the points, with nothing retired too: the list that stays, and the ids that retire behind the free list. -/
theorem testPoints_st (e : Ev) : e.testPoints.st = { e.st with
    dqm.live := (retireWalk false false e.st.dqm.live).1, dqm.free := e.st.dqm.free ++ (retireWalk false false e.st.dqm.live).2 } := by
  unfold Ev.testPoints
  dsimp only
  split
  · next empty =>
    have none := List.isEmpty_iff.1 empty
    rw [none, retireWalk_kept none, List.append_nil]
  · rw [Ev.triggerBoth_st]
    rfl

@[simp] theorem testPoints_out (e : Ev) : e.testPoints.out = e.out := by
  unfold Ev.testPoints
  dsimp only
  split
  · rfl
  · rw [Ev.triggerBoth_out, Ev.on_out]

theorem testPoints_transfers (e : Ev) : e.testPoints.st.transfers = e.st.transfers := by
  rw [testPoints_st]
  exact retireWalk_transfers _ _ _

theorem familySet_ofByte {b : Byte} (valid : 1 ≤ b.toNat ∧ b.toNat ≤ 3) : FamilySet.ofByte b = some ⟨b.getLsbD 0, b.getLsbD 1⟩ := by
  have codes : b.toNat = 1 ∨ b.toNat = 2 ∨ b.toNat = 3 := by omega
  rcases codes with code | code | code <;> rw [(byte_eq_iff b _ (by decide)).2 code] <;> rfl

theorem familySet_ofByte_none {b : Byte} (bad : ¬ (1 ≤ b.toNat ∧ b.toNat ≤ 3)) : FamilySet.ofByte b = none := by
  refine Option.eq_none_iff_forall_ne_some.mpr fun x named => ?_
  unfold FamilySet.ofByte at named
  split at named <;> cases named <;> omega

theorem sequence_badFormat {e : Ev} {pred succ : Byte} (bad : FamilySet.ofByte pred = none ∨ FamilySet.ofByte succ = none) :
    e.sequence pred succ = (e, .refused .badFormat) := by
  unfold Ev.sequence
  cases first : FamilySet.ofByte pred with
  | none => rfl
  | some x => rw [bad.resolve_left (by rw [first]; exact Option.some_ne_none x)]

theorem sequence_placed {e : Ev} {pred succ : Byte} {x y : FamilySet} (first : FamilySet.ofByte pred = some x)
    (second_ : FamilySet.ofByte succ = some y) {id second : Nat} {rest : List Nat} (free : e.st.dqm.free = id :: second :: rest) :
    e.sequence pred succ = ((e.on fun s => { s with
        dqm.free := second :: rest
        dqm.live := s.dqm.live ++ [.point { id := id, pred := x, succ := y, origin := .master .cab }] }).testPoints,
      .accepted false false (some id) []) := by
  unfold Ev.sequence Ev.placePoint
  rw [first, second_]
  dsimp only
  rw [free]

theorem sequence_refused {e : Ev} {pred succ : Byte} {x y : FamilySet} (first : FamilySet.ofByte pred = some x)
    (second : FamilySet.ofByte succ = some y) (short : e.st.dqm.free.length ≤ 1) :
    e.sequence pred succ = (e.refusePoint, .refused .noDescriptor) := by
  unfold Ev.sequence Ev.placePoint
  rw [first, second]
  dsimp only
  rcases free : e.st.dqm.free with _ | ⟨id, _ | ⟨id', rest⟩⟩
  · rfl
  · rfl
  · rw [free, List.length_cons, List.length_cons] at short
    omega

/-- Settles O36. -/
theorem sequencePlacesPoint : Obligations.SequencePlacesPoint := by
  intro s h pred succ p c r valid
  have sets (ok : valid) := (⟨familySet_ofByte ok.1, familySet_ofByte ok.2⟩ : _ ∧ _)
  have dqm : r.dqm = s.dqm := heard_dqm s h c
  refine ⟨fun bad => ?_, fun id second rest ok free still => ?_, fun id second rest ok free => ?_, fun ok short => ?_⟩
  · refine congrArg Host.Outcome.next (p.same _ _ rfl (sequence_badFormat ?_))
    rcases Classical.not_and_iff_not_or_not.1 bad with first | second
    · exact .inl (familySet_ofByte_none first)
    · exact .inr (familySet_ofByte_none second)
  · intro q k
    obtain ⟨first, second_⟩ := sets ok
    have handled := sequence_placed (e := Ev.of r) first second_ (dqm ▸ free)
    have st : (Ev.sequence pred succ (Ev.of r)).1.st = { r with dqm := { s.dqm with live := k.1, free := second :: rest ++ k.2 } } := by
      rw [handled]
      dsimp only
      rw [testPoints_st, Ev.on_st, Ev.of_st]
      dsimp only
      rw [dqm]
    have none : NoGrant (Ev.sequence pred succ (Ev.of r)).1.st := by
      refine still.same ?_ ?_
      · rw [st]
        show k.1.filterMap LiveRec.desc = s.dqm.live.filterMap LiveRec.desc
        rw [show k = retireWalk false false (s.dqm.live ++ [.point q]) from rfl, retireWalk_transfers, List.filterMap_append]
        exact List.append_nil _
      · rw [st]
        exact congrArg Glc.galleries (heard_glc s h c)
    have quiet := p.noGrant c (Ev.sequence pred succ) rfl none
    rw [show Ev.of (s.heard h c) = Ev.of r from rfl, st, handled] at quiet
    dsimp only at quiet
    rw [testPoints_out, Ev.on_out, Ev.of_out, List.append_nil] at quiet
    exact congrArg Host.Outcome.next quiet
  · obtain ⟨first, second_⟩ := sets ok
    have handled := sequence_placed (e := Ev.of r) first second_ (dqm ▸ free)
    have answers := p.answers c (Ev.sequence pred succ) rfl
    rw [show Ev.of (s.heard h c) = Ev.of r from rfl, handled] at answers
    dsimp only at answers
    rw [testPoints_st] at answers
    exact ⟨_, rfl, answers rfl rfl⟩
  · obtain ⟨first, second⟩ := sets ok
    have handled := sequence_refused (e := Ev.of r) first second (dqm ▸ short)
    refine ⟨_, rfl, p.starved c (Ev.sequence pred succ) rfl
      ((Ev.of r).on fun s => { s with dqm.starve.point := starveUp s.dqm.starve.point }) rfl rfl rfl rfl ?_ ?_ ?_ ?_⟩
    all_goals rw [show Ev.of (s.heard h c) = Ev.of r from rfl, handled]
    · refine (Ev.latch_st _ _ _).trans ?_
      rw [Ev.on_st, Ev.of_st, dqm]
      rfl
    · rfl
    · rfl

/-! ### TYRE_SET refused (R27, R28) -/

theorem descSharing_single (s : State) (m : Managed) : s.descSharing [m] = s.descOf m := by
  unfold State.descSharing State.descOf
  congr 1
  funext d
  rw [Bool.eq_iff_iff, List.any_eq_true, List.contains_iff_mem]
  simp

/-- A reading within tolerance is one that is not off it. -/
theorem holds_tolerance (s : State) (u : Tyre) (goal : Nat) :
    holdsOf (s.pressure u.node) (fun g => decide (absDiff g goal ≤ tyreTolerance)) = !s.offTolerance u goal := by
  unfold State.offTolerance
  cases s.pressure u.node with
  | none => rfl
  | some g =>
    show decide _ = !decide _
    rw [← decide_not]
    exact decide_eq_decide.2 Nat.not_lt.symm

section tyre

variable {e : Ev} {u : Tyre} {o : Option Nat} {k : Bool}

theorem applyTyre_within (new : e.st.descOf u.managed = none) (within : e.st.offTolerance u (e.st.formTarget u o) = false) :
    e.applyTyre u o k = (e.on fun s => s.setTyre u o (s.formTarget u o), .accepted k false none []) := by
  unfold Ev.applyTyre
  dsimp only
  rw [holds_tolerance, if_pos (by rw [new, within]; rfl)]
  rfl

variable (asks : (e.st.descOf u.managed).isNone = true → e.st.offTolerance u (e.st.formTarget u o) = true)

include asks

theorem applyTyre_asks {r : Ev × AskResult} (result : e.ask (e.st.tyreAsk u (e.st.formTarget u o) (.master .cab)) = r) :
    e.applyTyre u o k = match r.2 with
      | .refused => (r.1, .refused .noDescriptor)
      | x => (r.1.on fun s => (s.tyreServed u).setTyre u o (e.st.formTarget u o), x.answer k) := by
  unfold Ev.applyTyre
  dsimp only
  have asked : ¬ ((e.st.descOf u.managed).isNone && !e.st.offTolerance u (e.st.formTarget u o)) = true := by
    rw [Bool.and_eq_true, Bool.not_eq_true']
    rintro ⟨new, within⟩
    rw [asks new] at within
    cases within
  rw [holds_tolerance, result, if_neg asked] <;> rfl

theorem applyTyre_refused (no : (∃ d, e.st.descOf u.managed = some d ∧ d.torn ≠ none) ∨
    (e.st.descOf u.managed = none ∧ e.st.dqm.free.length ≤ 1)) :
    e.applyTyre u o k = (e.refuse .tyre [u.managed], .refused .noDescriptor) := by
  refine applyTyre_asks asks (r := (e.refuse .tyre [u.managed], .refused)) (ask_refused ?_)
  show (∃ d, e.st.descSharing [u.managed] = some d ∧ _) ∨ (e.st.descSharing [u.managed] = none ∧ _)
  rw [descSharing_single]
  exact no.imp_right fun ⟨new, short⟩ => ⟨new, (free_short short).imp_right fun one => ⟨one, fun h => nomatch h⟩⟩

end tyre

theorem heard_tyreRefusal (s : State) (h : Hdr) (c : Instr) (u : Tyre) : (s.heard h c).tyreRefusal u = s.tyreRefusal u := by
  unfold State.tyreRefusal
  rw [heard_tgu, heard_faulted, heard_glc]

theorem tyreRefusal_mode {s : State} (mode : s.tgu.mode = .loading) (u : Tyre) : s.tyreRefusal u = some .mode := if_pos mode

section refusals

variable {s : State} {u : Tyre} (mode : s.tgu.mode ≠ .loading)

include mode

theorem tyreRefusal_fault (fault : s.faulted u.node = true) : s.tyreRefusal u = some .nodeFault :=
  (if_neg mode).trans (if_pos fault)

variable (sound : s.faulted u.node = false)

include sound

theorem tyreRefusal_stopped (stop : s.glc.stop.occupied = true) : s.tyreRefusal u = some .stopped :=
  (if_neg mode).trans ((if_neg (by rw [sound]; exact Bool.false_ne_true)).trans (if_pos stop))

theorem tyreRefusal_none (free : s.glc.stop.occupied = false) : s.tyreRefusal u = none :=
  (if_neg mode).trans ((if_neg (by rw [sound]; exact Bool.false_ne_true)).trans (if_neg (by rw [free]; exact Bool.false_ne_true)))

end refusals

/-- A TYRE_SET command with the override it would write and whether its value was clamped (R27, R28). -/
inductive TyreSetting (h : Hdr) (node : Byte) : Instr → Option Nat → Bool → Prop where
  | value (value : Half) : TyreSetting h node (.tyreSet h node 0 value)
      (some (if value.toNat < 300 then 300 else if 820 < value.toNat then 820 else value.toNat))
      (decide (value.toNat < 300 ∨ 820 < value.toNat))
  | clear : TyreSetting h node (.tyreSetClear h node 0) none false

/-- The handler of a TYRE_SET command. -/
def tyreHandler : Instr → Ev → Ev × Answer
  | .tyreSet _ node form value => Ev.tyreSet node form value
  | .tyreSetClear _ node value => Ev.tyreSetClear node value
  | _ => fun e => (e, .plain)

section setting

variable {h : Hdr} {node : Byte} {c : Instr} {o : Option Nat} {k : Bool} (set : TyreSetting h node c o k)

include set

theorem TyreSetting.exec (s : State) : Machine.exec c s = .next (request c h codeTyreSet (tyreHandler c) noFrame s) := by
  cases set <;> rfl

variable {e : Ev} {u : Tyre} (named : Tyre.ofNumber node.toNat = some u)

include named

theorem TyreSetting.refused {x : Reason} (refused : e.st.tyreRefusal u = some x) : tyreHandler c e = (e, .refused x) := by
  cases set with
  | value value =>
    show Ev.tyreSet node 0 value e = _
    unfold Ev.tyreSet
    rw [named]
    dsimp only
    rw [if_neg (fun no => no rfl), refused]
  | clear =>
    show Ev.tyreSetClear node 0 e = _
    unfold Ev.tyreSetClear
    rw [named]
    dsimp only
    rw [if_neg (fun no => no rfl), refused]

theorem TyreSetting.applied (free : e.st.tyreRefusal u = none) (given : o = none → (e.st.tgu.tyres.get u).override ≠ none) :
    tyreHandler c e = e.applyTyre u o k := by
  cases set with
  | value value =>
    show Ev.tyreSet node 0 value e = _
    unfold Ev.tyreSet
    rw [named]
    dsimp only
    rw [if_neg (fun no => no rfl), free]
    dsimp only
    rw [clamp_tyre]
  | clear =>
    show Ev.tyreSetClear node 0 e = _
    unfold Ev.tyreSetClear
    rw [named]
    dsimp only
    rw [if_neg (fun no => no rfl), free]
    dsimp only
    rw [if_neg (fun no => given rfl (Option.isNone_iff_eq_none.1 no))]

end setting

/-- Settles O23: the checks in order, and the ask that is refused. -/
theorem tyreSetRefusedUnchanged : Obligations.TyreSetRefusedUnchanged := by
  intro s h node form value p
  refine ⟨?_, ?_, fun u c o named setting => ?_⟩
  · intro c r bad
    refine congrArg Host.Outcome.next (p.same c (Ev.tyreSet node form value) rfl ?_)
    unfold Ev.tyreSet
    split
    · rfl
    · next t named =>
      rcases bad with none | ⟨other, other'⟩
      · rw [none] at named; cases named
      · exact if_pos (fun zero => other ((byte_eq_iff form 0 (by decide)).2 zero))
  · intro c r bad
    refine congrArg Host.Outcome.next (p.same c (Ev.tyreSetClear node value) rfl ?_)
    unfold Ev.tyreSetClear
    split
    · rfl
    · next t named =>
      rcases bad with none | given
      · rw [none] at named; cases named
      · exact if_pos (fun zero => given (BitVec.eq_of_toNat_eq zero))
  · obtain ⟨k, set⟩ : ∃ k, TyreSetting h node c o k := by
      rcases setting with ⟨rfl, rfl⟩ | ⟨rfl, rfl⟩
      · exact ⟨_, .value value⟩
      · exact ⟨_, .clear⟩
    intro r
    have refused (x : Reason) (no : s.tyreRefusal u = some x) : exec c s = .next (r.answered r h codeTyreSet (.refused x)) := by
      refine (set.exec s).trans (congrArg Host.Outcome.next (p.same c (tyreHandler c) rfl (set.refused named ?_)))
      rw [Ev.of_st, heard_tyreRefusal]
      exact no
    refine ⟨fun mode => refused _ (tyreRefusal_mode mode u), fun mode fault => refused _ (tyreRefusal_fault mode fault),
      fun mode sound stop => refused _ (tyreRefusal_stopped mode sound stop), fun mode sound free given no => ⟨_, set.exec s, ?_⟩⟩
    have applied : tyreHandler c (Ev.of r) = (Ev.of r).applyTyre u o k := by
      refine set.applied named ?_ ?_
      · rw [Ev.of_st, show r = s.heard h c from rfl, heard_tyreRefusal]
        exact tyreRefusal_none mode sound free
      · rw [Ev.of_st, show r.tgu = s.tgu from heard_tgu s h c]
        exact given
    have handled : tyreHandler c (Ev.of r) = ((Ev.of r).refuse .tyre [u.managed], .refused .noDescriptor) := by
      refine applied.trans (applyTyre_refused ?_ ?_)
      · rw [Ev.of_st, show r = s.heard h c from rfl, heard_descOf, heard_formTarget, heard_offTolerance]
        intro new
        rcases no with ⟨d, live, torn⟩ | ⟨new, off, short⟩
        · rw [live] at new; cases new
        · exact off
      · rw [Ev.of_st, show r.dqm = s.dqm from heard_dqm s h c, show r = s.heard h c from rfl, heard_descOf]
        exact no.imp_right fun ⟨new, _, short⟩ => ⟨new, short⟩
    refine p.starved c (tyreHandler c) rfl ((Ev.of r).on fun s => s.starved .tyre) rfl rfl rfl rfl ?_ ?_ ?_ ?_
    all_goals rw [show Ev.of (s.heard h c) = Ev.of r from rfl, handled]
    · rw [refuse_eq]
      refine (Ev.latch_st _ _ _).trans ?_
      rw [Ev.on_st, Ev.of_st, show s.dqm = r.dqm from (heard_dqm s h c).symm]
      rfl
    · rw [refuse_eq]; rfl
    · rw [refuse_eq]; rfl

end Sys2Proof.Machine
end

section
/-! SUPPORT. What an ask leaves alone, the asks of the two persistence timers and those of the lift decision. -/

set_option Elab.async false

namespace Sys2Proof.Machine

/-! ### What an ask leaves alone -/

/-- A change that asks make: the descriptor manager, the tyre records, the height loop's timer and mark, and the latches. -/
def Asked (s t : State) : Prop :=
  t = { s with
    dqm := t.dqm, tgu.tyres := t.tgu.tyres, tgu.followed := t.tgu.followed
    hlc.persist := t.hlc.persist, hlc.pending := t.hlc.pending, evu.latches := t.evu.latches }

theorem Asked.refl (s : State) : Asked s s := rfl

theorem Asked.trans {s t u : State} (h : Asked s t) (k : Asked t u) : Asked s u := by
  unfold Asked at *
  rw [h] at k
  exact k

section asked

variable {s t : State} (h : Asked s t)

include h

theorem Asked.glc : t.glc = s.glc := by rw [h]
theorem Asked.llu : t.llu = s.llu := by rw [h]
theorem Asked.spu : t.spu = s.spu := by rw [h]
theorem Asked.msu : t.msu = s.msu := by rw [h]
theorem Asked.sts : t.sts = s.sts := by rw [h]
theorem Asked.idle (g : Gallery) : t.idle g = s.idle g := by unfold State.idle; rw [h.glc]

end asked

theorem Busy.noGrant {s : State} (busy : Busy s) : NoGrant s := by
  intro d _ _
  cases d.kind.gallery with
  | a => exact busy.1
  | b => exact busy.2

theorem Busy.galleries {s t : State} (busy : Busy s) (same : t.glc.galleries = s.glc.galleries) : Busy t := by
  unfold Busy State.idle at *
  rw [same]
  exact busy

theorem asked_latch (k : EventKind) (ns : List Node) (e : Ev) : Asked e.st (Ev.latch k ns e).st := by
  rw [Ev.latch_st]
  rfl

theorem asked_testPoints (e : Ev) : Asked e.st e.testPoints.st := by
  rw [testPoints_st]
  rfl

theorem asked_refuse (c : Cls) (ns : List Managed) (e : Ev) : Asked e.st (e.refuse c ns).st := by
  rw [refuse_st]
  rfl

theorem asked_allocated (s : State) (a : Ask) (id : Nat) (rest : List Nat) : Asked s (s.allocated a id rest) := by
  unfold State.allocated
  rw [becameLive_frame]
  rfl

theorem asked_allocate (a : Ask) (e : Ev) : Asked e.st (e.allocate a).1.st := by
  unfold Ev.allocate
  split
  · exact asked_refuse _ _ e
  · split
    · exact asked_refuse _ _ e
    · dsimp only
      rw [Ev.triggerBoth_st]
      exact asked_allocated _ _ _ _

theorem asked_putDesc (s : State) (d : Desc) : Asked s (s.putDesc d) := rfl

theorem asked_mergeQueued (d : Desc) (a : Ask) (e : Ev) : Asked e.st (e.mergeQueued d a).st := by
  unfold Ev.mergeQueued
  dsimp only
  rw [Ev.triggerBoth_st]
  split
  · rw [Ev.on_st, Ev.completion_st]
    exact asked_putDesc _ _
  · refine Asked.trans ?_ (asked_testPoints _)
    rw [Ev.on_st, Ev.completion_st]
    exact asked_putDesc _ _

theorem mergePending_st (d : Desc) (a : Ask) (e : Ev) :
    (e.mergePending d a).st = e.st.putDesc { d with pending := some ⟨a.goal, a.origin, e.st.ws.maxSteps.get d.cls⟩ } := by
  unfold Ev.mergePending
  dsimp only
  split
  · rw [Ev.on_st, Ev.completion_st]
  · rfl

theorem asked_ask (a : Ask) (e : Ev) : Asked e.st (e.ask a).1.st := by
  unfold Ev.ask
  split
  · split
    · exact asked_refuse _ _ e
    · split
      · exact asked_mergeQueued _ _ e
      · dsimp only
        rw [mergePending_st]
        exact asked_putDesc _ _
  · exact asked_allocate a e

theorem asked_askTyre (u : Tyre) (e : Ev) : Asked e.st (e.askTyre u).st := by
  unfold Ev.askTyre
  dsimp only
  split
  · exact (asked_ask _ e).trans rfl
  · exact asked_ask _ e

/-! ### The tyre loop's timer (R37, R38) -/

theorem tyresServed_single (s : State) (u : Tyre) : s.tyresServed [u.managed] = s.tyreServed u := by
  cases u <;> rfl

theorem allocated_tyre (s : State) (a : Ask) (u : Tyre) (cls : a.cls = .tyre) (nodes : a.nodes = [u.managed]) (id : Nat) (rest : List Nat) :
    s.allocated a id rest =
      State.tyreServed { s with dqm.free := rest, dqm.live := s.dqm.live ++ [.transfer (a.record id s.ws.maxSteps.tyre)] } u := by
  unfold State.allocated State.becameLive
  rw [cls, nodes]
  exact tyresServed_single _ u

theorem askTyre_taken {e : Ev} {u : Tyre} {id second : Nat} {rest : List Nat} (new : e.st.descOf u.managed = none)
    (free : e.st.dqm.free = id :: second :: rest) :
    (e.askTyre u).st = (e.st.allocated (e.st.tyreAsk u (e.st.tgu.tyres.get u).target .auto) id (second :: rest)) := by
  unfold Ev.askTyre
  rw [ask_taken ((descSharing_single _ _).trans new) free (.inl (List.cons_ne_nil _ _))]
  dsimp only
  rw [Ev.triggerBoth_st, Ev.on_st]

theorem askTyre_refused {e : Ev} {u : Tyre} (new : e.st.descOf u.managed = none) (short : e.st.dqm.free.length ≤ 1) :
    e.askTyre u = (e.refuse .tyre [u.managed]).on fun s => s.setTyrePending u true := by
  have no := ask_refused (a := e.st.tyreAsk u (e.st.tgu.tyres.get u).target .auto) (e := e)
    (.inr ⟨(descSharing_single _ _).trans new, (free_short short).imp_right fun one => ⟨one, Cls.noConfusion⟩⟩)
  unfold Ev.askTyre
  rw [no]
  rfl

/-- When the expiry of a tyre's persistence timer asks (R37). -/
def State.tyreAsks (s : State) (u : Tyre) : Prop :=
  (∃ g, s.pressure u.node = some g ∧ (g + 20 < (s.tgu.tyres.get u).target ∨ (s.tgu.tyres.get u).target + 20 < g)) ∧
    s.descOf u.managed = none ∧ s.faulted u.node = false ∧ s.tgu.mode ≠ .loading

theorem tyreAsks_iff (s : State) (u : Tyre) : s.tyreAsks u ↔
    (holdsOf (s.pressure u.node) (fun g => decide (tyreDeadband < absDiff g (s.tgu.tyres.get u).target))
      && (s.descOf u.managed).isNone && !s.faulted u.node && s.tgu.mode != .loading) = true := by
  unfold State.tyreAsks
  rw [Bool.and_eq_true, Bool.and_eq_true, Bool.and_eq_true, Option.isNone_iff_eq_none, Bool.not_eq_true', bne_iff_ne, and_assoc, and_assoc]
  refine and_congr_left fun _ => ?_
  cases s.pressure u.node with
  | none => exact ⟨fun ⟨_, same, _⟩ => (nomatch same), fun off => (nomatch off)⟩
  | some g =>
    rw [show holdsOf (some g) (fun g => decide (tyreDeadband < absDiff g (s.tgu.tyres.get u).target)) =
      decide (20 < absDiff g (s.tgu.tyres.get u).target) from rfl, decide_eq_true_eq]
    unfold absDiff
    refine ⟨fun ⟨x, same, off⟩ => ?_, fun off => ⟨g, rfl, ?_⟩⟩
    · obtain rfl := Option.some.inj same
      omega
    · omega

theorem setTyreTimer_tyreAsks (s : State) (u : Tyre) (x : Timer) : (s.setTyreTimer u x).tyreAsks u ↔ s.tyreAsks u := by
  unfold State.tyreAsks
  have target : ((s.setTyreTimer u x).tgu.tyres.get u).target = (s.tgu.tyres.get u).target := by
    unfold State.setTyreTimer
    rw [PerTyre.get_modify]
  rw [target]
  rfl

theorem tyreExpiry_asks {s : State} {u : Tyre} (asks : s.tyreAsks u) :
    Ev.tyreExpiry u (Ev.of s) = (Ev.of (s.setTyreTimer u none)).askTyre u := by
  unfold Ev.tyreExpiry
  exact if_pos ((tyreAsks_iff _ u).1 ((setTyreTimer_tyreAsks s u none).2 asks))

theorem tyreExpiry_quiet {s : State} {u : Tyre} (no : ¬ s.tyreAsks u) : Ev.tyreExpiry u (Ev.of s) = Ev.of (s.setTyreTimer u none) := by
  unfold Ev.tyreExpiry
  exact if_neg fun asks => no ((setTyreTimer_tyreAsks s u none).1 ((tyreAsks_iff _ u).2 asks))

/-- Settles O32. -/
theorem tyrePersistenceAsks : Obligations.TyrePersistenceAsks := by
  intro s u run
  let f : Ev → Ev := fun e => if (e.st.tgu.tyres.get u).timer.isSome then e.tyreExpiry u else e
  have kept : (f (Ev.of s)).st.fixed = s.fixed := by
    show (Ev.st (if _ then _ else _)).fixed = _
    split
    · exact Ev.tyreExpiry_fixed u _
    · rfl
  refine ⟨event f s, rfl, ?_, event_link run (congrArg Fixed.lku kept), fun stopped => ?_, fun runs => ?_⟩
  · rw [event_fixed run, kept]
  · exact event_same run (if_neg (by rw [Ev.of_st, stopped]; exact Bool.false_ne_true))
  · have expires : f (Ev.of s) = (Ev.of s).tyreExpiry u := if_pos (Option.isSome_iff_ne_none.2 runs)
    intro goal asks
    have target : ((s.setTyreTimer u none).tgu.tyres.get u) = { s.tgu.tyres.get u with timer := none } := PerTyre.get_modify _ _ _
    refine ⟨fun no => event_eq run (expires.trans (tyreExpiry_quiet no)), fun yes busy id second rest free => ?_, fun yes short => ?_⟩
    · have asked := expires.trans (tyreExpiry_asks yes)
      have taken := askTyre_taken (e := Ev.of (s.setTyreTimer u none)) yes.2.1 free
      have queued : Queued (f (Ev.of s)).st (event f s) := by
        rw [event_run run]
        refine close_queued_noGrant none _ (Busy.noGrant (busy.galleries ?_))
        rw [asked]
        exact congrArg Glc.galleries (asked_askTyre u _).glc
      rw [asked, taken, Ev.of_st, allocated_tyre _ _ u rfl rfl, target] at queued
      rw [queued]
      refine ⟨rfl, ?_, rfl⟩
      exact (PerTyre.get_modify _ _ _).trans (congrArg (fun r : TyreRec => { r with timer := none, pending := false }) target)
    · have asked := expires.trans (tyreExpiry_asks yes)
      rw [askTyre_refused yes.2.1 short] at asked
      have queued : Queued (f (Ev.of s)).st (event f s) := by
        rw [event_run run]
        refine close_queued none _ ?_
        rw [asked, Ev.on_scan, refuse_scan, Ev.of_scan]
      have latched := refuse_latched .tyre [u.managed] (Ev.of (s.setTyreTimer u none))
      rw [asked, Ev.on_st] at queued
      rw [refuse_st] at queued latched
      rw [queued]
      exact ⟨(PerTyre.get_modify _ _ _).trans (congrArg (fun r : TyreRec => { r with pending := true }) target), rfl, rfl, latched, rfl⟩

/-! ### The height loop's timer (R112) -/

theorem heightChoice_some {s : State} {l r : Nat} (left : s.height .left = some l) (right : s.height .right = some r) (goal : Nat) :
    s.heightChoice goal = some (chooseKind goal l r (s.pressure .bll) (s.pressure .blr)) := by
  unfold State.heightChoice
  rw [left, right]

theorem heightChoice_none {s : State} (unordered : s.height .left = none ∨ s.height .right = none) (goal : Nat) :
    s.heightChoice goal = none := by
  unfold State.heightChoice
  rcases unordered with none | none
  · rw [none]
  · rw [none]
    cases s.height .left <;> rfl

theorem allocated_height (s : State) (goal : Nat) (o : Origin) (k : StepKind) (id : Nat) (rest : List Nat) :
    s.allocated (heightAsk goal o k) id rest = { s with
      dqm.free := rest, dqm.live := s.dqm.live ++ [.transfer ((heightAsk goal o k).record id s.ws.maxSteps.height)]
      hlc.persist := none, hlc.pending := false } := rfl

theorem heightExpiry_quiet {s : State} (no : s.loopState ≠ .pending ∨ ¬ (s.sideOut .left = true ∨ s.sideOut .right = true) ∨
    s.height .left = none ∨ s.height .right = none) : Ev.heightExpiry (Ev.of s) = Ev.of s.stopPersist := by
  unfold Ev.heightExpiry
  dsimp only
  split
  · next asks =>
    rw [Ev.of_st, heightChoice_none ((no.resolve_left fun off => off asks.1).resolve_left fun inside => inside asks.2)]
    rfl
  · rfl

theorem heightExpiry_asks {s : State} (pending : s.loopState = .pending) (out : s.sideOut .left = true ∨ s.sideOut .right = true) {k : StepKind}
    (choice : s.heightChoice s.hlc.target = some (some k)) :
    Ev.heightExpiry (Ev.of s) = ((Ev.of s.stopPersist).ask (heightAsk s.hlc.target .auto k)).1 := by
  unfold Ev.heightExpiry
  dsimp only
  rw [Ev.of_st, if_pos ⟨pending, out⟩, choice]
  rfl

/-- Settles O33. -/
theorem heightPersistenceAsks : Obligations.HeightPersistenceAsks := by
  intro s run
  let f : Ev → Ev := fun e => if e.st.hlc.persist.isSome then e.heightExpiry else e
  have kept : (f (Ev.of s)).st.fixed = s.fixed := by
    show (Ev.st (if _ then _ else _)).fixed = _
    split
    · exact Ev.heightExpiry_fixed _
    · rfl
  refine ⟨event f s, rfl, ?_, event_link run (congrArg Fixed.lku kept), fun stopped => ?_, fun runs => ?_⟩
  · rw [event_fixed run, kept]
  · exact event_same run (if_neg (by rw [Ev.of_st, stopped]; exact Bool.false_ne_true))
  · have expires : f (Ev.of s) = (Ev.of s).heightExpiry := if_pos (Option.isSome_iff_ne_none.2 runs)
    intro goal out
    refine ⟨fun no => event_eq run (expires.trans (heightExpiry_quiet no)), ?_⟩
    intro l r k id rest pending out left right choice new free busy
    have asked := expires.trans (heightExpiry_asks pending out (by rw [heightChoice_some left right, choice]))
    rw [ask_taken (e := Ev.of s.stopPersist) (a := heightAsk goal .auto k) new free (.inr rfl)] at asked
    have queued : Queued (f (Ev.of s)).st (event f s) := by
      rw [event_run run]
      refine close_queued_noGrant none _ (Busy.noGrant (busy.galleries ?_))
      rw [asked, Ev.triggerBoth_st]
      rfl
    rw [asked, Ev.triggerBoth_st, Ev.on_st, Ev.of_st, allocated_height] at queued
    rw [queued]
    exact ⟨rfl, rfl, rfl, rfl⟩

end Sys2Proof.Machine
end

section
/-! SUPPORT. The lift decision: its ask, the lift state that follows, and the two commands that make it. -/

set_option Elab.async false

namespace Sys2Proof.Machine

/-! ### Transfers that a recomputation spares -/

/-- A change that moves tyre descriptors alone: every other transfer of a whole pool stays as it is. -/
def Spares (s t : State) : Prop := Whole none s → Whole none t ∧ ∀ d ∈ s.transfers, d.cls ≠ .tyre → d ∈ t.transfers

theorem Spares.trans {s t u : State} (h : Spares s t) (k : Spares t u) : Spares s u := fun w =>
  have ⟨w', first⟩ := h w
  have ⟨w'', second⟩ := k w'
  ⟨w'', fun d live other => second d (first d live other) other⟩

theorem Spares.of_quiet {s t : State} (q : Quiet none none s t) (kept : Whole none s → ∀ d ∈ s.transfers, d.cls ≠ .tyre → d ∈ t.transfers) :
    Spares s t := fun w => ⟨(q w).1, kept w⟩

theorem Spares.of_same {s t : State} (same : SameRecords s t) : Spares s t :=
  .of_quiet (same.quiet none) fun _ _ live _ => by rw [same.transfers]; exact live

theorem Spares.refl (s : State) : Spares s s := .of_same (.refl s)

theorem mem_putDesc {s : State} {d' x : Desc} (live : x ∈ s.transfers) (other : x.id ≠ d'.id) : x ∈ (s.putDesc d').transfers := by
  unfold State.putDesc
  rw [State.modDesc_transfers]
  exact List.mem_map.2 ⟨x, live, if_neg other⟩

theorem putDesc_mem {s : State} {d d' : Desc} (live : d ∈ s.transfers) (id : d'.id = d.id) : d' ∈ (s.putDesc d').transfers := by
  unfold State.putDesc
  rw [State.modDesc_transfers]
  exact List.mem_map.2 ⟨d, live, if_pos id.symm⟩

/-- The record that a merge into a queued descriptor leaves (R61). -/
def Desc.merged (d : Desc) (a : Ask) (steps : Nat) : Desc :=
  { d with goal := a.goal, origin := a.origin, kind := a.kind, stepsLeft := steps, noProgress := 0, wait := .clear }

theorem mergeQueued_transfers (d : Desc) (a : Ask) (e : Ev) :
    (e.mergeQueued d a).st.transfers = (e.st.putDesc (d.merged a (e.st.ws.maxSteps.get d.cls))).transfers := by
  unfold Ev.mergeQueued
  dsimp only
  rw [Ev.triggerBoth_st]
  split
  · rw [Ev.on_st, Ev.completion_st]
    rfl
  · rw [testPoints_transfers, Ev.on_st, Ev.completion_st]
    rfl

theorem refuse_transfers (c : Cls) (ns : List Managed) (e : Ev) : (e.refuse c ns).st.transfers = e.st.transfers := by
  rw [refuse_st]
  rfl

/-- An ask for a tyre leaves the other transfers alone. -/
theorem spares_ask {a : Ask} (e : Ev) (shaped : a.Shaped) (tyre : a.cls = .tyre) : Spares e.st (e.ask a).1.st := by
  refine .of_quiet (quiet_ask a e none shaped) fun w x live other => ?_
  have apart {d : Desc} (shares : e.st.descSharing a.nodes = some d) : x.id ≠ d.id := fun same => by
    obtain ⟨member, m, named, asked⟩ := State.descSharing_some shares
    have cls := (Cls.names_share (w.shaped d member).names shaped.names named asked).1
    rw [w.unique live member same, cls] at other
    exact other tyre
  unfold Ev.ask
  split
  · next d shares =>
    split
    · dsimp only
      rw [refuse_transfers]
      exact live
    · split
      · dsimp only
        rw [mergeQueued_transfers]
        exact mem_putDesc live (show x.id ≠ d.id from apart shares)
      · dsimp only
        rw [mergePending_st]
        exact mem_putDesc live (show x.id ≠ d.id from apart shares)
  · unfold Ev.allocate
    split
    · dsimp only
      rw [refuse_transfers]
      exact live
    · split
      · dsimp only
        rw [refuse_transfers]
        exact live
      · dsimp only
        rw [Ev.triggerBoth_st, Ev.on_st]
        unfold State.transfers
        rw [becameLive_dqm, List.filterMap_append]
        exact List.mem_append_left _ live

theorem spares_askTyre (u : Tyre) (e : Ev) : Spares e.st (e.askTyre u).st := by
  have asked := spares_ask (a := e.st.tyreAsk u (e.st.tgu.tyres.get u).target .auto) e (tyreAsk_shaped _ _ _ _) rfl
  unfold Ev.askTyre
  dsimp only
  split
  · exact asked.trans (.of_same (.aside))
  · exact asked

theorem spares_retargeted (c : Cause) (u : Tyre) (old new : Nat) (e : Ev) : Spares e.st (e.retargeted c u old new).st := by
  unfold Ev.retargeted
  split
  · exact spares_askTyre u e
  · split
    · exact Spares.trans (.of_same (.aside)) (spares_askTyre u _)
    · exact .refl _

theorem asked_retargeted (c : Cause) (u : Tyre) (old new : Nat) (e : Ev) : Asked e.st (e.retargeted c u old new).st := by
  unfold Ev.retargeted
  split
  · exact asked_askTyre u e
  · split
    · exact Asked.trans (t := e.st.setTyreTimer u none) rfl (asked_askTyre u _)
    · exact .refl _

theorem recompute_law (c : Cause) (u : Tyre) (e : Ev) : Spares e.st (e.recompute c u).st ∧ Asked e.st (e.recompute c u).st := by
  unfold Ev.recompute
  split
  · exact ⟨.refl _, .refl _⟩
  · dsimp only
    split
    · exact ⟨Spares.trans (.of_same (.aside)) (spares_retargeted c u _ _ _),
        Asked.trans (t := e.st.setTarget u _) rfl (asked_retargeted c u _ _ _)⟩
    · exact ⟨.refl _, .refl _⟩

theorem recomputeList_law (c : Cause) (us : List Tyre) (e : Ev) :
    Spares e.st (e.recomputeList c us).st ∧ Asked e.st (e.recomputeList c us).st := by
  induction us generalizing e with
  | nil => exact ⟨.refl _, .refl _⟩
  | cons u us ih =>
    have ⟨spares, asked⟩ := recompute_law c u e
    have ⟨spares', asked'⟩ := ih (e.recompute c u)
    exact ⟨spares.trans spares', asked.trans asked'⟩

theorem loadFollow_law (us : List Tyre) (e : Ev) : Spares e.st (e.loadFollow us).st ∧ Asked e.st (e.loadFollow us).st := by
  unfold Ev.loadFollow
  split
  · exact ⟨.refl _, .refl _⟩
  · have ⟨spares, asked⟩ := recomputeList_law .loadFollow (if e.st.tgu.followed then us else Tyre.list)
      (e.on fun s => { s with tgu.followed := true })
    exact ⟨Spares.trans (.of_same (.aside)) spares, Asked.trans (t := { e.st with tgu.followed := true }) rfl asked⟩

/-! ### The lift state (R123) -/

theorem setLift_spares (x : LiftState) (e : Ev) : Spares e.st (e.setLift x).st := by
  unfold Ev.setLift
  dsimp only
  split
  · exact .refl _
  · refine Spares.trans (.of_same ?_) (loadFollow_law _ _).1
    rw [Ev.on_st]
    split
    · exact .aside
    · exact .aside

theorem setLift_glc (x : LiftState) (e : Ev) : (e.setLift x).st.glc = e.st.glc := by
  unfold Ev.setLift
  dsimp only
  split
  · rfl
  · rw [(loadFollow_law _ _).2.glc, Ev.on_st]
    split <;> rfl

theorem setLift_llu (x : LiftState) (e : Ev) : (e.setLift x).st.llu = { e.st.llu with lift := x } := by
  unfold Ev.setLift
  dsimp only
  split
  · next same => rw [same]
  · rw [(loadFollow_law _ _).2.llu, Ev.on_st]
    split <;> rfl

/-! ### The lift decision (R127) -/

/-- The ask of the lift decision. -/
def liftAsk (goal : Nat) (o : Origin) : Ask where
  cls := .lift
  nodes := [.lft]
  goal := goal
  origin := o
  kind := liftKind goal

theorem liftAsk_shaped (goal : Nat) (o : Origin) : (liftAsk goal o).Shaped := ⟨rfl, liftKind_takes goal⟩

section decide

variable {e : Ev} {o : Origin}

theorem liftDecide_quiet (no : e.st.faulted .lft = true ∨ e.st.sts.phase ≠ .run ∨ e.st.liftTable e.st.llu.aim = none) :
    e.liftDecide o = (e, none) := by
  unfold Ev.liftDecide
  split
  · rfl
  · next can =>
    rw [liftWants_eq, (no.resolve_left fun f => can (.inl f)).resolve_left fun p => can (.inr p)]

variable (sound : e.st.faulted .lft = false) (run : e.st.sts.phase = .run) {goal : Nat} {next : LiftState}
  (wants : e.st.liftTable e.st.llu.aim = some (goal, next))

include sound run wants

theorem liftDecide_asks {r : Ev × AskResult} (result : e.ask (liftAsk goal o) = r) :
    e.liftDecide o = match r.2 with
      | .refused => (r.1, some .refused)
      | x => (r.1.setLift next, some x) := by
  unfold Ev.liftDecide
  rw [if_neg (not_or_intro (by rw [sound]; exact Bool.false_ne_true) fun no => no run), liftWants_eq, wants]
  subst result
  rfl

theorem liftDecide_refused (no : (∃ d, e.st.descSharing [.lft] = some d ∧ d.torn ≠ none) ∨
    (e.st.descSharing [.lft] = none ∧ e.st.dqm.free.length ≤ 1)) : e.liftDecide o = (e.refuse .lift [.lft], some .refused) :=
  liftDecide_asks sound run wants (r := (e.refuse .lift [.lft], .refused)) (ask_refused (a := liftAsk goal o)
    (no.imp_right fun ⟨new, short⟩ => ⟨new, (free_short short).imp_right fun one => ⟨one, Cls.noConfusion⟩⟩))

theorem liftDecide_taken {id second : Nat} {rest : List Nat} (new : e.st.descSharing [.lft] = none)
    (free : e.st.dqm.free = id :: second :: rest) : e.liftDecide o =
      ((((e.on fun s => s.allocated (liftAsk goal o) id (second :: rest)).triggerBoth).setLift next), some (.allocated id)) :=
  liftDecide_asks sound run wants (ask_taken (a := liftAsk goal o) new free (.inl (List.cons_ne_nil _ _)))

theorem liftDecide_merged {d : Desc} (live : e.st.descSharing [.lft] = some d) (whole : d.torn = none) :
    e.liftDecide o = ((e.ask (liftAsk goal o)).1.setLift next, some (.merged d.id)) := by
  have merged := ask_merged (a := liftAsk goal o) live whole
  rw [liftDecide_asks sound run wants rfl]
  split
  · next refused => rw [merged] at refused; cases refused
  · rw [merged]

end decide

/-- What a merge leaves of the descriptor that an ask meets: replaced while QUEUED (R61), else with a pending goal (R62). -/
def Desc.met (d : Desc) (a : Ask) (steps : Nat) : Desc :=
  if d.state = .queued then d.merged a steps else { d with pending := some ⟨a.goal, a.origin, steps⟩ }

theorem ask_meets {e : Ev} {a : Ask} {d : Desc} (live : e.st.descSharing a.nodes = some d) (whole : d.torn = none) :
    d.met a (e.st.ws.maxSteps.get d.cls) ∈ (e.ask a).1.st.transfers := by
  have member := (State.descSharing_some live).1
  unfold Desc.met
  split
  · next queued =>
    rw [ask_queued live whole queued]
    dsimp only
    rw [mergeQueued_transfers]
    exact putDesc_mem member rfl
  · next flight =>
    rw [ask_inFlight live whole flight]
    dsimp only
    rw [mergePending_st]
    exact putDesc_mem member rfl

theorem allocated_mem (s : State) (a : Ask) (id : Nat) (rest : List Nat) :
    a.record id (s.ws.maxSteps.get a.cls) ∈ (s.allocated a id rest).transfers := by
  rw [State.mem_transfers, allocated_dqm]
  exact List.mem_append_right _ (List.mem_singleton_self _)

theorem ask_whole {e : Ev} (w : Whole none e.st) {a : Ask} (shaped : a.Shaped) : Whole none (e.ask a).1.st := (quiet_ask a e none shaped w).1

theorem lift_of_shares {e : Ev} (w : Whole none e.st) {d : Desc} (live : e.st.descSharing [.lft] = some d) : d.cls = .lift := by
  obtain ⟨member, m, named, asked⟩ := State.descSharing_some live
  exact (Cls.names_share (w.shaped d member).names (show Cls.lift.names [.lft] from rfl) named asked).1

theorem liftDecide_glc (o : Origin) (e : Ev) : (e.liftDecide o).1.st.glc = e.st.glc := by
  unfold Ev.liftDecide
  split
  · rfl
  · split
    · rfl
    · dsimp only
      split
      · exact (asked_ask _ e).glc
      · rw [setLift_glc]
        exact (asked_ask _ e).glc

theorem liftDecide_llu (o : Origin) (e : Ev) : (e.liftDecide o).1.st.llu = { e.st.llu with lift := (e.liftDecide o).1.st.llu.lift } := by
  unfold Ev.liftDecide
  split
  · rfl
  · split
    · rfl
    · dsimp only
      split
      · rw [(asked_ask _ e).llu]
      · rw [setLift_llu, (asked_ask _ e).llu]

section decided

variable {e : Ev} {o : Origin} (sound : e.st.faulted .lft = false) (run : e.st.sts.phase = .run) {goal : Nat} {next : LiftState}
  (wants : e.st.liftTable e.st.llu.aim = some (goal, next))

include sound run wants

/-- A lift ask that finds a record: the lift state, and the new record in its place on the live list. -/
theorem liftDecide_new {id second : Nat} {rest : List Nat} (new : e.st.descSharing [.lft] = none)
    (free : e.st.dqm.free = id :: second :: rest) :
    (e.liftDecide o).1.st.llu = { e.st.llu with lift := next } ∧
      (Whole none e.st → (liftAsk goal o).record id e.st.ws.maxSteps.lift ∈ (e.liftDecide o).1.st.transfers) := by
  have taken := ask_taken (a := liftAsk goal o) new free (.inl (List.cons_ne_nil _ _))
  rw [liftDecide_taken sound run wants new free]
  dsimp only
  refine ⟨by rw [setLift_llu, Ev.triggerBoth_st, Ev.on_st, (asked_allocated _ _ _ _).llu], fun w => ?_⟩
  have whole := ask_whole w (liftAsk_shaped goal o)
  rw [taken] at whole
  refine (setLift_spares next _ whole).2 _ ?_ Cls.noConfusion
  rw [Ev.triggerBoth_st, Ev.on_st]
  exact allocated_mem e.st (liftAsk goal o) id _

/-- A lift ask that merges: the lift state, and the descriptor met as the merge leaves it. -/
theorem liftDecide_met {d : Desc} (live : e.st.descSharing [.lft] = some d) (whole : d.torn = none) :
    (e.liftDecide o).1.st.llu = { e.st.llu with lift := next } ∧
      (Whole none e.st → d.met (liftAsk goal o) (e.st.ws.maxSteps.get d.cls) ∈ (e.liftDecide o).1.st.transfers) := by
  rw [liftDecide_merged sound run wants live whole]
  dsimp only
  refine ⟨by rw [setLift_llu, (asked_ask _ e).llu], fun w => ?_⟩
  refine (setLift_spares next _ (ask_whole w (liftAsk_shaped goal o))).2 _ (ask_meets live whole) ?_
  have cls := lift_of_shares w live
  unfold Desc.met
  split
  · exact fun tyre => Cls.noConfusion (cls.symm.trans tyre)
  · exact fun tyre => Cls.noConfusion (cls.symm.trans tyre)

end decided

/-! ### The lift timer (R125) -/

theorem setAim_true (s : State) : s.setAim true = { s with llu.aim := true, llu.liftT := none } := by
  unfold State.setAim State.liftTimerTest State.autoLift
  dsimp only
  rw [if_neg]
  simp

theorem liftTable_goal {s : State} {goal : Nat} {next : LiftState} (wants : s.liftTable true = some (goal, next)) : goal = 450 := by
  unfold State.liftTable at wants
  dsimp only at wants
  generalize s.pressure .lft = bag at wants
  cases lift : s.llu.lift with
  | lowered => rw [lift] at wants; cases wants; rfl
  | lowering => rw [lift] at wants; cases wants; rfl
  | lifting => rw [lift] at wants; cases bag <;> cases wants
  | lifted =>
    rw [lift] at wants
    cases bag with
    | none => cases wants
    | some g =>
      dsimp only at wants
      split at wants
      · cases wants
        rfl
      · cases wants

/-- The handler of LIFT_TIMER_EXPIRY. -/
def liftExpiry (e : Ev) : Ev := if e.st.llu.liftT.isSome then Ev.aimTo true (e.on fun s => { s with llu := { s.llu with liftT := none } }) else e

/-- The state in which the lift timer has raised the aim. -/
def State.aimRaised (s : State) : State := { s with llu := { s.llu with aim := true, liftT := none } }

section expiry

variable {s : State}

theorem liftExpiry_fixed : (liftExpiry (Ev.of s)).st.fixed = s.fixed := by
  unfold liftExpiry
  split
  · exact Ev.aimTo_fixed _ _
  · rfl

variable (runs : s.llu.liftT ≠ none)

include runs

theorem liftExpiry_runs : liftExpiry (Ev.of s) = Ev.aimTo true (Ev.of { s with llu := { s.llu with liftT := none } }) :=
  if_pos (Option.isSome_iff_ne_none.2 runs)

theorem liftExpiry_raises (low : s.llu.aim = false) : liftExpiry (Ev.of s) = (Ev.of s.aimRaised).liftAuto := by
  rw [liftExpiry_runs runs]
  unfold Ev.aimTo
  refine (if_neg fun same => Bool.false_ne_true (low.symm.trans same)).trans ?_
  exact congrArg (fun x => (Ev.of x).liftAuto) (setAim_true _)

theorem liftExpiry_up (up : s.llu.aim = true) : liftExpiry (Ev.of s) = Ev.of s.aimRaised := by
  rw [liftExpiry_runs runs]
  unfold Ev.aimTo
  refine (if_pos up).trans ?_
  show Ev.of { s with llu := { s.llu with liftT := none } } = Ev.of { s with llu := { s.llu with aim := true, liftT := none } }
  rw [← up]

theorem liftExpiry_llu : (liftExpiry (Ev.of s)).st.llu = { s.aimRaised.llu with lift := (liftExpiry (Ev.of s)).st.llu.lift } ∧
    (liftExpiry (Ev.of s)).st.glc = s.glc := by
  cases aim : s.llu.aim with
  | true =>
    rw [liftExpiry_up runs aim]
    exact ⟨rfl, rfl⟩
  | false =>
    rw [liftExpiry_raises runs aim]
    exact ⟨liftDecide_llu _ _, liftDecide_glc _ _⟩

end expiry

/-- Settles O52. -/
theorem liftTimerRaisesAim : Obligations.LiftTimerRaisesAim := by
  intro s run
  refine ⟨event liftExpiry s, rfl, ?_, event_link run (congrArg Fixed.lku liftExpiry_fixed), fun stopped => ?_, fun runs busy => ?_, fun runs low => ?_⟩
  · rw [event_fixed run, liftExpiry_fixed]
  · exact event_same run (if_neg (by rw [Ev.of_st, stopped]; exact Bool.false_ne_true))
  · have queued : Queued (liftExpiry (Ev.of s)).st (event liftExpiry s) := by
      rw [event_run run]
      exact close_queued_noGrant none _ (Busy.noGrant (busy.galleries (congrArg Glc.galleries (liftExpiry_llu runs).2)))
    rw [queued]
    show (liftExpiry (Ev.of s)).st.llu.aim = true ∧ (liftExpiry (Ev.of s)).st.llu.liftT = none
    rw [(liftExpiry_llu runs).1]
    exact ⟨rfl, rfl⟩
  · have raised : liftExpiry (Ev.of s) = ((Ev.of s.aimRaised).liftDecide .auto).1 := liftExpiry_raises runs low
    have raises (safe : Safe s) : Whole none s.aimRaised := (Quiet.of_eq (s := s) (t := s.aimRaised) rfl rfl none ((good_iff s).2 safe).1).1
    have table : s.aimRaised.liftTable s.aimRaised.llu.aim = s.liftTable true := rfl
    refine ⟨fun no => ?_, fun goal next running sound wants => ?_⟩
    · refine event_eq run (raised.trans (congrArg Prod.fst (liftDecide_quiet ?_)))
      rcases no with starting | faulted | none
      · exact .inr (.inl (by rw [Ev.of_st]; exact fun running => Phase.noConfusion (starting.symm.trans running)))
      · exact .inl faulted
      · exact .inr (.inr (table.trans none))
    · have queued (busy : Busy s) : Queued (liftExpiry (Ev.of s)).st (event liftExpiry s) := by
        rw [event_run run]
        exact close_queued_noGrant none _ (Busy.noGrant (busy.galleries (congrArg Glc.galleries (liftExpiry_llu runs).2)))
      refine ⟨fun no => ?_, fun d live whole safe busy => ?_, fun new safe busy id second rest free => ?_⟩
      · have refused := raised.trans (congrArg Prod.fst (liftDecide_refused sound running (table.trans wants) no))
        have latched := refuse_latched .lift [.lft] (Ev.of s.aimRaised)
        rw [event_run run, refused]
        refine ⟨latched_close none latched, ?_⟩
        have calm : (Ev.refuse .lift [.lft] (Ev.of s.aimRaised)).scan = PerGallery.fill false := by rw [refuse_scan]; rfl
        rw [close_queued none _ calm]
        exact congrArg State.llu (refuse_st _ _ _)
      · have met := liftDecide_met (e := Ev.of s.aimRaised) (o := .auto) sound running (table.trans wants) live whole
        rw [← raised] at met
        rw [queued busy]
        refine ⟨congrArg Llu.lift met.1, ?_⟩
        have w := ((good_iff s).2 safe).1
        obtain rfl := liftTable_goal wants
        rw [show s.ws.maxSteps.lift = s.ws.maxSteps.get d.cls by rw [lift_of_shares (e := Ev.of s) w live]; rfl]
        exact met.2 (raises safe)
      · have taken := liftDecide_new (e := Ev.of s.aimRaised) (o := .auto) sound running (table.trans wants) new free
        rw [← raised] at taken
        rw [queued busy]
        refine ⟨congrArg Llu.lift taken.1, ?_⟩
        obtain rfl := liftTable_goal wants
        exact State.mem_transfers.1 (taken.2 (raises safe))

end Sys2Proof.Machine
end

section
/-! SUPPORT. LIFT_SET: the setting taken, the ask it makes, and its answers. -/

set_option Elab.async false

namespace Sys2Proof.Machine

/-! ### The setting taken (R124, R125) -/

/-- The aim under a new setting (R124). -/
def State.aimUnder (s : State) (x : LiftSetting) : Bool :=
  match x, s.llu.load.left, s.llu.load.right with
  | .up, _, _ => true
  | .down, _, _ => false
  | .auto, some a, some b => if s.ws.lowerAbove < a + b then false else s.llu.aim
  | .auto, _, _ => s.llu.aim

/-- The total lies below LIFT_BELOW (R125). -/
def State.light (s : State) : Bool :=
  match s.llu.load.left, s.llu.load.right with
  | some a, some b => decide (a + b < s.ws.liftBelow)
  | _, _ => false

/-- The lift timer under a new setting and aim (R125). -/
def State.liftTimerUnder (s : State) (x : LiftSetting) (aim : Bool) : Timer :=
  if x = .auto ∧ s.tgu.mode = .road ∧ s.speedState ≠ .unknown ∧ s.light = true ∧ aim = false then s.timerKeep s.llu.liftT 10000 else none

/-- The state in which a setting has been taken. -/
def State.liftTaken (s : State) (x : LiftSetting) : State :=
  { s with llu := { s.llu with setting := x, aim := s.aimUnder x, liftT := s.liftTimerUnder x (s.aimUnder x) } }

theorem holds_light (s : State) : holdsOf s.llu.total (fun t => decide (t < s.ws.liftBelow)) = s.light := by
  unfold Llu.total State.light
  cases s.llu.load.left <;> cases s.llu.load.right <;> rfl

theorem liftTimerTest_under {s : State} (sound : s.faulted .lft = false) :
    s.liftTimerTest = { s with llu := { s.llu with liftT := s.liftTimerUnder s.llu.setting s.llu.aim } } := by
  unfold State.liftTimerTest State.liftTimerUnder State.autoLift
  rw [holds_light, sound]
  simp only [Bool.and_eq_true, beq_iff_eq, bne_iff_ne, Bool.not_eq_true', Bool.not_false, and_true, and_assoc]
  rfl

theorem aimUnder_auto (s : State) : s.aimUnder .auto =
    if State.overloaded { s with llu := { s.llu with setting := .auto } } = true then false else s.llu.aim := by
  unfold State.aimUnder State.overloaded Llu.total
  cases s.llu.load.left with
  | none => rfl
  | some a =>
    cases s.llu.load.right with
    | none => rfl
    | some b =>
      show (if s.ws.lowerAbove < a + b then false else s.llu.aim) = if decide (s.ws.lowerAbove < a + b) = true then false else s.llu.aim
      simp only [decide_eq_true_eq]

theorem setLiftSetting_taken {s : State} (sound : s.faulted .lft = false) (x : LiftSetting) : s.setLiftSetting x = s.liftTaken x := by
  have test (aim : Bool) : State.liftTimerTest { s with llu := { s.llu with setting := x, aim := aim } } =
      { s with llu := { s.llu with setting := x, aim := aim, liftT := s.liftTimerUnder x aim } } :=
    liftTimerTest_under (s := { s with llu := { s.llu with setting := x, aim := aim } }) sound
  unfold State.liftTaken
  cases x with
  | up => exact test true
  | down => exact test false
  | auto =>
    refine Eq.trans ?_ (test (s.aimUnder .auto))
    rw [aimUnder_auto]
    show (if State.overloaded { s with llu := { s.llu with setting := .auto } } = true then
        State.liftTimerTest { s with llu := { s.llu with setting := .auto, aim := false } }
      else State.liftTimerTest { s with llu := { s.llu with setting := .auto } }) = _
    split <;> rfl

/-! ### The checks (R129) -/

/-- UP is asked for over a total that is unset or above LOWER_ABOVE. -/
def State.heavy (s : State) (x : LiftSetting) : Prop :=
  x = .up ∧ ∀ a b, s.llu.load.left = some a → s.llu.load.right = some b → s.ws.lowerAbove < a + b

theorem heavy_iff (s : State) (x : LiftSetting) :
    s.heavy x ↔ x = .up ∧ (!holdsOf s.llu.total (fun t => decide (t ≤ s.ws.lowerAbove))) = true := by
  unfold State.heavy Llu.total
  refine and_congr_right fun _ => ?_
  cases s.llu.load.left with
  | none => exact iff_of_true (fun _ _ same => nomatch same) rfl
  | some a =>
    cases s.llu.load.right with
    | none => exact iff_of_true (fun _ _ _ same => nomatch same) rfl
    | some b =>
      show _ ↔ (!decide (a + b ≤ s.ws.lowerAbove)) = true
      rw [Bool.not_eq_true', decide_eq_false_iff_not, Nat.not_le]
      exact ⟨fun all => all a b rfl rfl, fun above _ _ left right => Option.some.inj left ▸ Option.some.inj right ▸ above⟩

theorem liftSettingOfByte_none {b : Byte} (bad : b = 0 ∨ 3 < b.toNat) : LiftSetting.ofByte b = none := by
  unfold LiftSetting.ofByte
  rcases bad with rfl | large
  · rfl
  · rcases code : b.toNat with _ | _ | _ | _ | n
    · omega
    · omega
    · omega
    · omega
    · rfl

theorem liftSettingOfByte_code {b : Byte} {x : LiftSetting} (code : x.code = b.toNat) : LiftSetting.ofByte b = some x := by
  unfold LiftSetting.ofByte
  rw [← code]
  cases x <;> rfl

section checks

variable {s : State} {x : LiftSetting}

theorem liftRefusal_mode (off : x = .up ∧ s.tgu.mode ≠ .road) : s.liftRefusal x = some .mode := if_pos off

variable (on : ¬ (x = .up ∧ s.tgu.mode ≠ .road))

include on

theorem liftRefusal_fault (faulted : s.faulted .lft = true) : s.liftRefusal x = some .nodeFault := (if_neg on).trans (if_pos faulted)

variable (sound : s.faulted .lft = false)

include sound

theorem liftRefusal_stopped (stop : s.glc.stop.occupied = true) : s.liftRefusal x = some .stopped :=
  (if_neg on).trans ((if_neg (by rw [sound]; exact Bool.false_ne_true)).trans (if_pos stop))

variable (free : ¬ s.glc.stop.occupied = true)

include free

theorem liftRefusal_overload (heavy : s.heavy x) : s.liftRefusal x = some .overload :=
  (if_neg on).trans ((if_neg (by rw [sound]; exact Bool.false_ne_true)).trans ((if_neg free).trans (if_pos ((heavy_iff s x).1 heavy))))

theorem liftRefusal_none (light : ¬ s.heavy x) : s.liftRefusal x = none :=
  (if_neg on).trans ((if_neg (by rw [sound]; exact Bool.false_ne_true)).trans
    ((if_neg free).trans (if_neg fun heavy => light ((heavy_iff s x).2 heavy))))

end checks

/-! ### The request -/

section handler

variable {e : Ev} {setting : Byte} {x : LiftSetting} (named : LiftSetting.ofByte setting = some x)

include named

theorem liftSet_refused {r : Reason} (refused : e.st.liftRefusal x = some r) : e.liftSet setting = (e, .refused r) := by
  unfold Ev.liftSet
  rw [named]
  dsimp only
  rw [refused]

variable (can : e.st.liftRefusal x = none) (sound : e.st.faulted .lft = false)

include can sound

theorem liftSet_decides : e.liftSet setting =
    let r := (e.on fun s => s.liftTaken x).liftDecide (.master .cab)
    match r.2 with
    | none => (r.1, .plain)
    | some .refused => (r.1.on fun s => { s with
        llu.setting := e.st.llu.setting, llu.aim := e.st.llu.aim, llu.liftT := e.st.llu.liftT }, .refused .noDescriptor)
    | some y => (r.1, y.answer false) := by
  unfold Ev.liftSet
  rw [named]
  dsimp only
  rw [can]
  dsimp only
  rw [show (e.on fun s => s.setLiftSetting x) = e.on fun s => s.liftTaken x from
    congrArg (fun t => Ev.on e fun _ => t) (setLiftSetting_taken sound x)] <;> rfl

/-- A LIFT_SET whose ask is not refused ends in what the decision left, with the answer of what became of it. -/
theorem liftSet_taken {e' : Ev} {q : Option AskResult} (decides : (e.on fun s => s.liftTaken x).liftDecide (.master .cab) = (e', q))
    (took : q ≠ some .refused) : e.liftSet setting = (e', q.elim .plain (AskResult.answer false)) := by
  rw [liftSet_decides named can sound, decides]
  rcases q with _ | _ | _ | _
  · rfl
  · rfl
  · rfl
  · exact absurd rfl took

theorem liftSet_noRecord {e' : Ev} (decides : (e.on fun s => s.liftTaken x).liftDecide (.master .cab) = (e', some .refused)) :
    e.liftSet setting = (e'.on fun s => { s with
      llu.setting := e.st.llu.setting, llu.aim := e.st.llu.aim, llu.liftT := e.st.llu.liftT }, .refused .noDescriptor) := by
  rw [liftSet_decides named can sound, decides]

end handler

section heard

variable (s : State) (h : Hdr) (c : Instr)

theorem heard_aimUnder (x : LiftSetting) : (s.heard h c).aimUnder x = s.aimUnder x := by
  unfold State.aimUnder
  rw [heard_llu, heard_ws]

theorem heard_liftTimerUnder (x : LiftSetting) (aim : Bool) : (s.heard h c).liftTimerUnder x aim = s.liftTimerUnder x aim := by
  unfold State.liftTimerUnder State.light State.timerKeep State.timer
  rw [heard_llu, heard_ws, heard_tgu, heard_speedState, heard_now]

theorem heard_liftRefusal (x : LiftSetting) : (s.heard h c).liftRefusal x = s.liftRefusal x := by
  unfold State.liftRefusal
  rw [heard_llu, heard_ws, heard_tgu, heard_faulted, heard_glc]

theorem heard_liftTable (aim : Bool) : (s.heard h c).liftTable aim = s.liftTable aim := by
  unfold State.liftTable
  rw [heard_llu, heard_descOfClass, heard_pressure]

end heard

theorem Passes.queued_noGrant {s : State} {h : Hdr} {code : Nat} (p : Passes s h code) (c : Instr) (f : Ev → Ev × Answer)
    (loud : silentKind code = false) (n : NoGrant (f (Ev.of (s.heard h c))).1.st) :
    Queued (f (Ev.of (s.heard h c))).1.st (Machine.request c h code f noFrame s) := by
  rw [p.noGrant c f loud n]
  exact queued_enqueueAll _ _

/-- Settles O51. -/
theorem liftSetTakesSetting : Obligations.LiftSetTakesSetting := by
  intro s h setting p c r
  have refused (x : LiftSetting) (code : x.code = setting.toNat) (why : Reason) (no : s.liftRefusal x = some why) :
      exec c s = .next (r.answered r h codeLiftSet (.refused why)) :=
    congrArg Host.Outcome.next (p.same c (Ev.liftSet setting) rfl
      (liftSet_refused (liftSettingOfByte_code code) ((heard_liftRefusal s h c x).trans no)))
  refine ⟨fun bad => ?_, fun x code => ?_⟩
  · refine congrArg Host.Outcome.next (p.same c (Ev.liftSet setting) rfl ?_)
    unfold Ev.liftSet
    rw [liftSettingOfByte_none bad]
  intro off heavy stopped aim light timer
  refine ⟨fun up => refused x code _ (liftRefusal_mode up), fun on faulted => refused x code _ (liftRefusal_fault on faulted),
    fun on sound stop => refused x code _ (liftRefusal_stopped on sound stop),
    fun on sound free over_ => refused x code _ (liftRefusal_overload on sound free over_), fun on sound free fits => ?_⟩
  have can : r.liftRefusal x = none := (heard_liftRefusal s h c x).trans (liftRefusal_none on sound free fits)
  have soundR : r.faulted .lft = false := (heard_faulted s h c .lft).trans sound
  have taken : r.liftTaken x = { r with llu := { r.llu with setting := x, aim := aim, liftT := timer } } := by
    unfold State.liftTaken
    rw [show r = s.heard h c from rfl, heard_liftTimerUnder, heard_aimUnder]
    rfl
  have named := liftSettingOfByte_code code
  let u := r.liftTaken x
  let D := (Ev.of u).liftDecide (.master .cab)
  have table : u.liftTable u.llu.aim = s.liftTable aim := by
    show u.liftTable (r.aimUnder x) = _
    rw [show r.aimUnder x = aim from heard_aimUnder s h c x]
    exact heard_liftTable s h c aim
  have running : u.sts.phase = .run := (congrArg Sts.phase (heard_sts s h c)).trans p.run
  have dqm : u.dqm = s.dqm := heard_dqm s h c
  have sharing : u.descSharing [.lft] = s.descSharing [.lft] := heard_descSharing s h c [.lft]
  have kept : D.1.st.fixed = { r.fixed with setting := x } := Ev.liftDecide_fixed _ _
  have llu : D.1.st.llu = { r.llu with setting := x, aim := aim, liftT := timer, lift := D.1.st.llu.lift } :=
    (liftDecide_llu _ _).trans (congrArg (fun y : Llu => { y with lift := D.1.st.llu.lift }) (congrArg State.llu taken))
  have accepted (ans : Answer) (handled : Ev.liftSet setting (Ev.of r) = (D.1, ans)) :
      ∃ t, exec c s = .next t ∧ SameLink r t ∧ t.fixed = { r.fixed with setting := x, lku := t.lku, freeCount := t.freeCount } ∧
        Answers r t h codeLiftSet ans ∧ (Busy s → Queued D.1.st t) := by
    have link := p.link c (Ev.liftSet setting) noFrame
    have fixed := p.fixed c (Ev.liftSet setting) noFrame
    have answers := p.answers c (Ev.liftSet setting) rfl
    have queued := p.queued_noGrant c (Ev.liftSet setting) rfl
    rw [show Ev.of (s.heard h c) = Ev.of r from rfl, handled] at link fixed answers queued
    dsimp only at link fixed answers queued
    rw [kept] at fixed
    refine ⟨_, rfl, ?_, fixed, answers (congrArg Fixed.lku kept) (congrArg Fixed.freeCount kept), fun busy => queued (Busy.noGrant (busy.galleries ?_))⟩
    · unfold SameLink at *
      rw [show D.1.st.lku = r.lku from congrArg Fixed.lku kept] at link
      exact link
    · rw [show D.1.st.glc = r.glc from liftDecide_glc _ _, show r.glc = s.glc from heard_glc s h c]
  have handled {q : Option AskResult} (result : D.2 = q) (taken : q ≠ some .refused) :
      Ev.liftSet setting (Ev.of r) = (D.1, q.elim .plain (AskResult.answer false)) :=
    liftSet_taken (e := Ev.of r) named can soundR (Prod.ext rfl result) taken
  have quiet (no : s.liftTable aim = none) : D = (Ev.of u, none) := liftDecide_quiet (.inr (.inr (table.trans no)))
  have merges {goal : Nat} {next : LiftState} (wants : s.liftTable aim = some (goal, next)) {d : Desc}
      (live : s.descSharing [.lft] = some d) (whole : d.torn = none) : D.2 = some (.merged d.id) :=
    congrArg Prod.snd (liftDecide_merged (e := Ev.of u) soundR running (table.trans wants) (sharing.trans live) whole)
  have finds {goal : Nat} {next : LiftState} (wants : s.liftTable aim = some (goal, next)) {id second : Nat} {rest : List Nat}
      (new : s.descSharing [.lft] = none) (free : s.dqm.free = id :: second :: rest) : D.2 = some (.allocated id) :=
    congrArg Prod.snd (liftDecide_taken (e := Ev.of u) soundR running (table.trans wants) (sharing.trans new)
      (rest := rest) ((congrArg Dqm.free dqm).trans free))
  have steady (safe : Safe s) : Whole none u :=
    (Quiet.of_eq (s := s) (t := u) dqm (heard_glc s h c) none ((good_iff s).2 safe).1).1
  refine ⟨fun merge room => ?_, fun no => ?_, fun goal next wants => ⟨fun no => ?_, fun d live whole => ?_, fun new id second rest free => ?_⟩⟩
  · obtain ⟨ans, handled⟩ : ∃ ans, Ev.liftSet setting (Ev.of r) = (D.1, ans) := by
      cases wants : s.liftTable aim with
      | none => exact ⟨_, handled (q := none) (congrArg Prod.snd (quiet wants)) (fun same => nomatch same)⟩
      | some ask =>
        obtain ⟨goal, next⟩ := ask
        cases live : s.descSharing [.lft] with
        | some d => exact ⟨_, handled (merges wants live (merge d live)) (fun same => nomatch same)⟩
        | none =>
          have two := room live
          rcases free : s.dqm.free with _ | ⟨id, _ | ⟨second, rest⟩⟩
          · rw [free] at two; exact absurd two (by decide)
          · rw [free] at two; exact absurd two (by simp)
          · exact ⟨_, handled (finds wants live free) (fun same => nomatch same)⟩
    obtain ⟨t, done, link, fixed, -⟩ := accepted ans handled
    exact ⟨t, done, link, fixed⟩
  · refine congrArg Host.Outcome.next (p.onto c (Ev.liftSet setting) rfl (a := .plain) (fun _ => u) ?_) |>.trans ?_
    · rw [show Ev.of (s.heard h c) = Ev.of r from rfl, handled (q := none) (congrArg Prod.snd (quiet no)) (fun same => nomatch same), quiet no]
      rfl
    · rw [← taken]
  · refine ⟨_, rfl, p.starved c (Ev.liftSet setting) rfl ((Ev.of u).on fun s => s.starved .lift) rfl rfl rfl rfl ?_ ?_ ?_ ?_⟩
    all_goals
      rw [show Ev.of (s.heard h c) = Ev.of r from rfl, liftSet_noRecord (e := Ev.of r) named can soundR
        (liftDecide_refused (e := Ev.of u) soundR running (table.trans wants) (by rw [Ev.of_st, sharing, dqm]; exact no))]
    · dsimp only
      rw [Ev.on_st, refuse_st, refuse_eq, ← heard_dqm s h c]
      rfl
    · rw [refuse_eq]
      rfl
    · rw [refuse_eq]
      rfl
  · obtain ⟨t, done, -, -, answers, queued⟩ := accepted _ (handled (merges wants live whole) (fun same => nomatch same))
    have met := liftDecide_met (e := Ev.of u) (o := .master .cab) soundR running (table.trans wants) (sharing.trans live) whole
    refine ⟨t, done, answers, fun busy => ?_, fun safe busy => ?_⟩
    · have lluT : t.llu = D.1.st.llu := by rw [queued busy]
      rw [lluT, llu]
      exact ⟨rfl, congrArg Llu.lift met.1, rfl⟩
    · have w := steady safe
      rw [show s.ws.maxSteps.lift = u.ws.maxSteps.get d.cls by
          rw [lift_of_shares (e := Ev.of u) w (sharing.trans live)]; exact congrArg (fun x : Sts => x.ws.maxSteps.lift) (heard_sts s h c).symm,
        show s.ws.maxSteps.get d.cls = u.ws.maxSteps.get d.cls from congrArg (fun x : Sts => x.ws.maxSteps.get d.cls) (heard_sts s h c).symm,
        queued busy]
      exact met.2 w
  · obtain ⟨t, done, -, -, answers, queued⟩ := accepted _ (handled (finds wants new free) (fun same => nomatch same))
    have found := liftDecide_new (e := Ev.of u) (o := .master .cab) soundR running (table.trans wants) (sharing.trans new)
      ((congrArg Dqm.free dqm).trans free)
    refine ⟨t, done, answers, fun busy => ?_, fun safe busy => ?_⟩
    · have lluT : t.llu = D.1.st.llu := by rw [queued busy]
      rw [lluT, llu]
      exact ⟨rfl, congrArg Llu.lift found.1, rfl⟩
    · rw [show s.ws.maxSteps.lift = u.ws.maxSteps.lift from congrArg (fun x : Sts => x.ws.maxSteps.lift) (heard_sts s h c).symm, queued busy]
      exact State.mem_transfers.1 (found.2 (steady safe))

end Sys2Proof.Machine
end

section
/-! SUPPORT. TYRE_SET accepted: the override and the target written, and what its ask does. -/

set_option Elab.async false

namespace Sys2Proof.Machine

/-- The override and the target that a TYRE_SET writes, with the tyre served where it asked. -/
theorem setTyre_get (s : State) (u : Tyre) (o : Option Nat) (goal : Nat) :
    (s.setTyre u o goal).tgu.tyres.get u = { s.tgu.tyres.get u with override := o, target := goal } := by
  unfold State.setTyre State.setTarget State.setOverride
  rw [PerTyre.get_modify, PerTyre.get_modify]

theorem setTyre_get_ne (s : State) {u v : Tyre} (other : v ≠ u) (o : Option Nat) (goal : Nat) :
    (s.setTyre u o goal).tgu.tyres.get v = s.tgu.tyres.get v := by
  unfold State.setTyre State.setTarget State.setOverride
  rw [PerTyre.get_modify_ne _ _ other, PerTyre.get_modify_ne _ _ other]

theorem tyreServed_get (s : State) (u : Tyre) : (s.tyreServed u).tgu.tyres.get u = { s.tgu.tyres.get u with timer := none, pending := false } :=
  PerTyre.get_modify _ _ _

theorem tyreServed_get_ne (s : State) {u v : Tyre} (other : v ≠ u) : (s.tyreServed u).tgu.tyres.get v = s.tgu.tyres.get v :=
  PerTyre.get_modify_ne _ _ other

theorem mergeQueued_tgu (d : Desc) (a : Ask) (e : Ev) : (e.mergeQueued d a).st.tgu = e.st.tgu := by
  unfold Ev.mergeQueued
  dsimp only
  rw [Ev.triggerBoth_st]
  split
  · rw [Ev.on_st, Ev.completion_st]
    rfl
  · rw [testPoints_st, Ev.on_st, Ev.completion_st]
    rfl

theorem refuse_tgu (c : Cls) (ns : List Managed) (e : Ev) : (e.refuse c ns).st.tgu = e.st.tgu := by
  rw [refuse_st]
  rfl

/-- An ask for a tyre leaves the records of the other tyres alone. -/
theorem ask_get_ne {u v : Tyre} (other : v ≠ u) (goal : Nat) (o : Origin) (e : Ev) :
    (e.ask (e.st.tyreAsk u goal o)).1.st.tgu.tyres.get v = e.st.tgu.tyres.get v := by
  unfold Ev.ask
  split
  · split
    · dsimp only
      rw [refuse_tgu]
    · split
      · dsimp only
        rw [mergeQueued_tgu]
      · dsimp only
        rw [mergePending_st]
        rfl
  · unfold Ev.allocate
    split
    · dsimp only
      rw [refuse_tgu]
    · next id rest _ =>
      split
      · dsimp only
        rw [refuse_tgu]
      · dsimp only
        rw [Ev.triggerBoth_st, Ev.on_st]
        rw [show State.becameLive _ (e.st.tyreAsk u goal o) = _ from allocated_tyre e.st _ u rfl rfl id rest]
        exact tyreServed_get_ne _ other

section taken

variable {e : Ev} {u : Tyre} {o : Option Nat} {k : Bool}
  (asks : (e.st.descOf u.managed).isNone = true → e.st.offTolerance u (e.st.formTarget u o) = true)

include asks

/-- A TYRE_SET whose ask is not refused. -/
theorem applyTyre_taken {q : AskResult} (result : (e.ask (e.st.tyreAsk u (e.st.formTarget u o) (.master .cab))).2 = q) (took : q ≠ .refused) :
    e.applyTyre u o k = ((e.ask (e.st.tyreAsk u (e.st.formTarget u o) (.master .cab))).1.on fun s =>
      (s.tyreServed u).setTyre u o (e.st.formTarget u o), q.answer k) := by
  rw [applyTyre_asks asks rfl, result]
  cases q with
  | refused => exact absurd rfl took
  | allocated id => rfl
  | merged id => rfl

end taken

/-- How a TYRE_SET that is accepted ends: the state before the scans, and the answer. -/
structure TyreSetEnds (e : Ev) (u : Tyre) (o : Option Nat) (e' : Ev) : Prop where
  fixed : e'.st.fixed = { e.st.fixed with overrides := e.st.tgu.overrides.set u o }
  glc : e'.st.glc = e.st.glc
  override : (e'.st.tgu.tyres.get u).override = o
  target : (e'.st.tgu.tyres.get u).target = e.st.formTarget u o
  others : ∀ v, v ≠ u → e'.st.tgu.tyres.get v = e.st.tgu.tyres.get v

theorem tyreSetEnds_within (e : Ev) (u : Tyre) (o : Option Nat) :
    TyreSetEnds e u o (e.on fun s => s.setTyre u o (s.formTarget u o)) where
  fixed := State.setTyre_fixed _ _ _ _
  glc := rfl
  override := congrArg TyreRec.override (setTyre_get _ _ _ _)
  target := congrArg TyreRec.target (setTyre_get _ _ _ _)
  others _ other := setTyre_get_ne _ other _ _

theorem overrides_of_fixed {s t : State} (same : t.fixed = s.fixed) : t.tgu.overrides = s.tgu.overrides := congrArg Fixed.overrides same

theorem tyreSetEnds_asked (e : Ev) (u : Tyre) (o : Option Nat) :
    TyreSetEnds e u o ((e.ask (e.st.tyreAsk u (e.st.formTarget u o) (.master .cab))).1.on fun s =>
      (s.tyreServed u).setTyre u o (e.st.formTarget u o)) where
  fixed := by
    have same := (State.tyreServed_fixed _ u).trans (Ev.ask_fixed (e.st.tyreAsk u (e.st.formTarget u o) (.master .cab)) e)
    rw [Ev.on_st, State.setTyre_fixed, same, overrides_of_fixed same]
  glc := (asked_ask (e.st.tyreAsk u (e.st.formTarget u o) (.master .cab)) e).glc
  override := congrArg TyreRec.override (setTyre_get _ _ _ _)
  target := congrArg TyreRec.target (setTyre_get _ _ _ _)
  others v other := (setTyre_get_ne _ other _ _).trans ((tyreServed_get_ne _ other).trans (ask_get_ne other _ _ e))

theorem Tgu.overrides_get (x : Tgu) (u : Tyre) : x.overrides.get u = (x.tyres.get u).override := by cases u <;> rfl

theorem TyreSetEnds.targets {s : State} {h : Hdr} {c : Instr} {u : Tyre} {o : Option Nat} {e' : Ev} {t : State}
    (ends : TyreSetEnds (Ev.of (s.heard h c)) u o e') (queued : Queued e'.st t) :
    (t.tgu.tyres.get u).target = s.formTarget u o ∧ ∀ v, v ≠ u → t.tgu.tyres.get v = s.tgu.tyres.get v := by
  rw [queued]
  refine ⟨ends.target.trans (heard_formTarget s h c u o), fun v other => ?_⟩
  rw [show e'.st.tgu.tyres.get v = _ from ends.others v other, Ev.of_st, heard_tgu]

/-- What an accepted TYRE_SET leaves once its event has closed. -/
theorem TyreSetEnds.closes {s : State} {h : Hdr} {node : Byte} {c : Instr} {u : Tyre} {o : Option Nat} {k : Bool}
    (set : TyreSetting h node c o k) (p : Passes s h codeTyreSet) {e' : Ev} {ans : Answer}
    (handled : tyreHandler c (Ev.of (s.heard h c)) = (e', ans)) (ends : TyreSetEnds (Ev.of (s.heard h c)) u o e') :
    ∃ t, exec c s = .next t ∧ (t.tgu.tyres.get u).override = o ∧
      t.fixed = { (s.heard h c).fixed with overrides := s.tgu.overrides.set u o, lku := t.lku, freeCount := t.freeCount } ∧
      SameLink (s.heard h c) t ∧ Answers (s.heard h c) t h codeTyreSet ans ∧ (Busy s → Queued e'.st t) := by
  have fixed := p.fixed c (tyreHandler c) noFrame
  have link := p.link c (tyreHandler c) noFrame
  have answers := p.answers c (tyreHandler c) rfl
  have queued := p.queued_noGrant c (tyreHandler c) rfl
  rw [handled] at fixed link answers queued
  dsimp only at fixed link answers queued
  rw [ends.fixed, Ev.of_st, heard_tgu] at fixed
  have lku : e'.st.lku = (s.heard h c).lku := congrArg Fixed.lku ends.fixed
  refine ⟨_, set.exec s, ?_, fixed, ?_, answers lku (congrArg Fixed.freeCount ends.fixed), fun busy => queued (Busy.noGrant (busy.galleries ?_))⟩
  · rw [← Tgu.overrides_get]
    exact (congrArg (fun f : Fixed => f.overrides.get u) fixed).trans (PerTyre.get_set _ _ _)
  · unfold SameLink at *
    rw [lku] at link
    exact link
  · rw [ends.glc, Ev.of_st, heard_glc]

theorem putDesc_dqm {s t : State} (same : t.dqm = s.dqm) (d : Desc) : (t.putDesc d).dqm = (s.putDesc d).dqm := by
  unfold State.putDesc State.modDesc
  rw [same]

/-- Two free records at least. -/
theorem exists_two {l : List Nat} (two : 2 ≤ l.length) : ∃ id second rest, l = id :: second :: rest := by
  rcases l with _ | ⟨id, _ | ⟨second, rest⟩⟩
  · rw [List.length_nil] at two; omega
  · rw [List.length_singleton] at two; omega
  · exact ⟨id, second, rest, rfl⟩

/-- Settles O22. -/
theorem tyreSetWritesOverride : Obligations.TyreSetWritesOverride := by
  intro s h node u p named mode sound free
  have refusal (c : Instr) : (s.heard h c).tyreRefusal u = none := (heard_tyreRefusal s h c u).trans (tyreRefusal_none mode sound free)
  refine ⟨fun c o k setting merge room => ?_, fun given => ?_⟩
  · intro goal
    obtain ⟨set, given⟩ : TyreSetting h node c o k ∧ (o = none → (s.tgu.tyres.get u).override ≠ none) := by
      rcases setting with ⟨value, rfl, rfl, rfl⟩ | ⟨rfl, rfl, rfl, some⟩
      · exact ⟨.value value, fun none => nomatch none⟩
      · exact ⟨.clear, fun _ => some⟩
    let r := s.heard h c
    have applied : tyreHandler c (Ev.of r) = (Ev.of r).applyTyre u o k := by
      refine set.applied named (refusal c) ?_
      rw [Ev.of_st, show r.tgu = s.tgu from heard_tgu s h c]
      exact given
    have goalR : r.formTarget u o = goal := heard_formTarget s h c u o
    have dqm : r.dqm = s.dqm := heard_dqm s h c
    have sharing : r.descSharing [u.managed] = s.descOf u.managed := (heard_descSharing s h c _).trans (descSharing_single s _)
    let a := r.tyreAsk u (r.formTarget u o) (.master .cab)
    have askR : a = s.tyreAsk u goal (.master .cab) := by
      show State.tyreAsk r u (r.formTarget u o) _ = _
      unfold State.tyreAsk
      rw [goalR, show r.pressure u.node = _ from heard_pressure s h c _]
    have wsR : r.ws = s.ws := heard_ws s h c
    have asks (off : s.descOf u.managed = none → s.offTolerance u goal = true) :
        ((Ev.of r).st.descOf u.managed).isNone = true → (Ev.of r).st.offTolerance u ((Ev.of r).st.formTarget u o) = true := by
      rw [Ev.of_st, goalR, show r.descOf u.managed = _ from heard_descOf s h c _, show r.offTolerance u goal = _ from heard_offTolerance s h c _ _,
        Option.isNone_iff_eq_none]
      exact off
    cases live : s.descOf u.managed with
    | some d =>
      have merged := ask_merged (a := a) (e := Ev.of r) (sharing.trans live) (merge d live)
      have handled := applied.trans (applyTyre_taken (asks fun new => nomatch live.symm.trans new) merged AskResult.noConfusion)
      have ends := tyreSetEnds_asked (Ev.of r) u o
      obtain ⟨t, done, override, fixed, link, answers, queued⟩ := ends.closes set p handled
      refine ⟨t, done, override, fixed, link, ?_, (fun new => nomatch new), (fun new => nomatch new), fun busy => ?_⟩
      · rintro d' same
        obtain rfl := Option.some.inj same
        exact answers
      · refine ⟨(ends.targets (queued busy)).1, (ends.targets (queued busy)).2, (fun new => nomatch new), (fun new => nomatch new),
          fun d' same flight => ?_, fun d' same waits => ?_⟩
        · obtain rfl := Option.some.inj same
          rw [queued busy]
          show (Ev.ask a (Ev.of r)).1.st.dqm = _
          rw [ask_inFlight (sharing.trans live) (merge d live) flight]
          dsimp only
          rw [mergePending_st, Ev.of_st, askR, wsR]
          exact putDesc_dqm dqm _
        · obtain rfl := Option.some.inj same
          have met := ask_meets (a := a) (e := Ev.of r) (sharing.trans live) (merge d live)
          unfold Desc.met at met
          rw [if_pos waits, askR, Ev.of_st, wsR] at met
          rw [queued busy]
          show _ ∈ (Ev.ask a (Ev.of r)).1.st.transfers
          rw [askR]
          exact met
    | none =>
      cases off : s.offTolerance u goal with
      | false =>
        have handled := applied.trans (applyTyre_within (e := Ev.of r) (k := k) ((heard_descOf s h c _).trans live) (by
          rw [Ev.of_st, goalR]; exact (heard_offTolerance s h c _ _).trans off))
        have ends := tyreSetEnds_within (Ev.of r) u o
        obtain ⟨t, done, override, fixed, link, answers, queued⟩ := ends.closes set p handled
        refine ⟨t, done, override, fixed, link, (fun _ same => nomatch same), fun _ _ => answers, (fun _ no => nomatch no), fun busy => ?_⟩
        exact ⟨(ends.targets (queued busy)).1, (ends.targets (queued busy)).2, fun _ _ => by rw [queued busy]; exact dqm,
          (fun _ no => nomatch no), (fun _ same => nomatch same), (fun _ same => nomatch same)⟩
      | true =>
        have two : 2 ≤ s.dqm.free.length := (room live).resolve_left fun within => Bool.false_ne_true (within.symm.trans off)
        obtain ⟨id, second, rest, free⟩ : ∃ id second rest, s.dqm.free = id :: second :: rest := exists_two two
        have result := ask_taken (a := a) (e := Ev.of r) (sharing.trans live) ((congrArg Dqm.free dqm).trans free) (.inl (List.cons_ne_nil _ _))
        have handled := applied.trans (applyTyre_taken (k := k) (asks fun _ => off) (congrArg Prod.snd result) AskResult.noConfusion)
        have ends := tyreSetEnds_asked (Ev.of r) u o
        obtain ⟨t, done, override, fixed, link, answers, queued⟩ := ends.closes set p handled
        refine ⟨t, done, override, fixed, link, (fun _ same => nomatch same), (fun _ no => nomatch no), fun _ _ id' rest' free' => ?_, fun busy => ?_⟩
        · obtain ⟨rfl, rfl⟩ := List.cons.inj (free.symm.trans free')
          exact answers
        · refine ⟨(ends.targets (queued busy)).1, (ends.targets (queued busy)).2, (fun _ no => nomatch no), fun _ _ id' rest' free' => ?_,
            (fun _ same => nomatch same), (fun _ same => nomatch same)⟩
          obtain ⟨rfl, rfl⟩ := List.cons.inj (free.symm.trans free')
          have served : (t.tgu.tyres.get u).timer = none ∧ (t.tgu.tyres.get u).pending = false := by
            rw [queued busy]
            have written := setTyre_get ((Ev.ask a (Ev.of r)).1.st.tyreServed u) u o (r.formTarget u o)
            rw [tyreServed_get] at written
            exact ⟨congrArg TyreRec.timer written, congrArg TyreRec.pending written⟩
          have records : t.dqm = { s.dqm with free := second :: rest, live := s.dqm.live ++ [.transfer (a.record id s.ws.maxSteps.tyre)] } := by
            rw [queued busy]
            show (Ev.ask a (Ev.of r)).1.st.dqm = _
            rw [result, Ev.triggerBoth_st, Ev.on_st, Ev.of_st, allocated_dqm, dqm, wsR]
            rfl
          rw [records, askR]
          exact ⟨rfl, served.1, served.2, rfl⟩
  · intro c
    refine congrArg Host.Outcome.next (p.same c (Ev.tyreSetClear node 0) rfl ?_)
    unfold Ev.tyreSetClear
    rw [named]
    dsimp only
    rw [if_neg (fun no => no rfl), Ev.of_st, refusal c]
    dsimp only
    rw [if_pos (by rw [heard_tgu, given]; rfl)]

end Sys2Proof.Machine
end

section
/-! SUPPORT. HEIGHT_SET and RIDE_RETURN: the immediate ask, the target it moves, and the answers. -/

set_option Elab.async false

namespace Sys2Proof.Machine

/-! ### The immediate ask (R103) -/

/-- In a pool of shaped descriptors the one that a deck ask meets is the live HEIGHT descriptor. -/
theorem sharing_height {s : State} (shaped : AllShaped s) : s.descSharing [.bll, .blr] = s.descOfClass .height := by
  unfold State.descSharing State.descOfClass
  rw [State.findDesc_eq, State.findDesc_eq]
  refine List.find?_congr fun d live => ?_
  have names := (shaped d live).names
  rw [Bool.eq_iff_iff, beq_iff_eq]
  cases cls : d.cls with
  | height =>
    rw [cls] at names
    rw [show d.nodes = [.bll, .blr] from names]
    exact iff_of_true (by decide) rfl
  | lift =>
    rw [cls] at names
    rw [show d.nodes = [.lft] from names]
    exact iff_of_false (by decide) Cls.noConfusion
  | tyre =>
    rw [cls] at names
    obtain ⟨u, nodes⟩ := names
    rw [nodes]
    exact iff_of_false (by cases u <;> decide) Cls.noConfusion

section immediate

variable {e : Ev} {target : Nat} {o : Origin}

theorem immediateAsk_locked (locked : e.st.hlc.lockout.occupied = true) (hold : Bool) : e.immediateAsk target o hold = (e, .quiet) := if_pos locked

variable (unlocked : e.st.hlc.lockout.occupied = false)

include unlocked

theorem immediateAsk_live {d : Desc} (live : e.st.descOfClass .height = some d) : e.immediateAsk target o false =
    (((e.on State.stopPersist).ask (heightAsk target o (e.st.heightKind target d.kind))).1,
      .asked ((e.on State.stopPersist).ask (heightAsk target o (e.st.heightKind target d.kind))).2) := by
  unfold Ev.immediateAsk
  rw [if_neg (by rw [unlocked]; exact Bool.false_ne_true), live]

variable (new : e.st.descOfClass .height = none)

include new

theorem immediateAsk_marked (choice : e.st.heightChoice target = none) : e.immediateAsk target o false = (e.on fun s => s.setHeightPending true, .marked) := by
  unfold Ev.immediateAsk
  rw [if_neg (by rw [unlocked]; exact Bool.false_ne_true), new]
  dsimp only
  rw [choice]

theorem immediateAsk_met (choice : e.st.heightChoice target = some none) : e.immediateAsk target o false = (e, .quiet) := by
  unfold Ev.immediateAsk
  rw [if_neg (by rw [unlocked]; exact Bool.false_ne_true), new]
  dsimp only
  rw [choice]

theorem immediateAsk_new {k : StepKind} (choice : e.st.heightChoice target = some (some k)) (shaped : AllShaped e.st) {id : Nat} {rest : List Nat}
    (free : e.st.dqm.free = id :: rest) : e.immediateAsk target o false =
      (((e.on State.stopPersist).on fun s => s.allocated (heightAsk target o k) id rest).triggerBoth, .asked (.allocated id)) := by
  have taken := ask_taken (a := heightAsk target o k) (e := e.on State.stopPersist) ((sharing_height shaped).trans new) free (.inr rfl)
  unfold Ev.immediateAsk
  rw [if_neg (by rw [unlocked]; exact Bool.false_ne_true), new]
  dsimp only
  rw [choice]
  dsimp only
  rw [if_neg Bool.false_ne_true, taken]

end immediate

theorem asked_immediateAsk (target : Nat) (o : Origin) (hold : Bool) (e : Ev) : Asked e.st (e.immediateAsk target o hold).1.st := by
  unfold Ev.immediateAsk
  split
  · exact .refl _
  · split
    · exact Asked.trans (t := e.st.stopPersist) rfl (asked_ask _ _)
    · split
      · exact rfl
      · exact .refl _
      · dsimp only
        split
        · exact rfl
        · exact Asked.trans (t := e.st.stopPersist) rfl (asked_ask _ _)

/-! ### The target by request -/

/-- The answer to a master for what became of its immediate ask (R103). -/
def HeightOutcome.answer (clamped : Bool) : HeightOutcome → Answer
  | .asked r => r.answer clamped
  | _ => .accepted clamped false none []

section request

variable {m : Master} {target : Nat} {k : Bool} {e : Ev}

theorem requestTarget_same (same : e.st.hlc.target = target) : e.requestTarget m target k = (e, .accepted k false none []) := if_pos same

variable (moves : e.st.hlc.target ≠ target)

include moves

theorem requestTarget_moved {e' : Ev} {y : HeightOutcome} (result : e.immediateAsk target (.master m) false = (e', y)) (took : y ≠ .asked .refused) :
    e.requestTarget m target k = (e'.on fun s => s.setHeightTarget target, y.answer k) := by
  unfold Ev.requestTarget
  rw [if_neg moves, result]
  rcases y with _ | _ | (_ | _ | _) | _
  · rfl
  · rfl
  · rfl
  · rfl
  · exact absurd rfl took
  · rfl

/-- A request that meets a torn deck descriptor. -/
theorem requestTarget_torn (shaped : AllShaped e.st) (unlocked : e.st.hlc.lockout.occupied = false) {d : Desc}
    (live : e.st.descOfClass .height = some d) (torn : d.torn ≠ none) :
    e.requestTarget m target k = ((e.on State.stopPersist).refuse .height [.bll, .blr], .refused .noDescriptor) := by
  have refused := ask_torn (a := heightAsk target (.master m) (e.st.heightKind target d.kind)) (e := e.on State.stopPersist)
    ((sharing_height shaped).trans live) torn
  have asked := immediateAsk_live (target := target) (o := .master m) unlocked live
  rw [refused] at asked
  unfold Ev.requestTarget
  rw [if_neg moves, asked]
  rfl

omit moves in
/-- Wherever no deck descriptor is torn and a record is free, the immediate ask is not refused, and is answered as R103 says. -/
theorem immediateAsk_answers (shaped : AllShaped e.st) (whole : ∀ d ∈ e.st.transfers, d.cls = .height → d.torn = none)
    (free : e.st.dqm.free ≠ []) :
    (e.immediateAsk target (.master m) false).2 ≠ .asked .refused ∧
      (e.immediateAsk target (.master m) false).2.answer k = e.st.deckAnswer target k := by
  unfold State.deckAnswer
  cases locked : e.st.hlc.lockout.occupied with
  | true =>
    rw [immediateAsk_locked locked, if_pos rfl]
    exact ⟨(fun same => nomatch same), rfl⟩
  | false =>
    rw [if_neg Bool.false_ne_true]
    cases live : e.st.descOfClass .height with
    | some d =>
      have member := State.mem_of_findDesc live
      have merged := ask_merged (a := heightAsk target (.master m) (e.st.heightKind target d.kind)) (e := e.on State.stopPersist)
        ((sharing_height shaped).trans live) (whole d member.1 (beq_iff_eq.1 member.2))
      rw [immediateAsk_live locked live]
      dsimp only
      rw [merged]
      exact ⟨(fun same => nomatch same), rfl⟩
    | none =>
      cases left : e.st.height .left with
      | none =>
        rw [immediateAsk_marked locked live (heightChoice_none (.inl left) _)]
        exact ⟨(fun same => nomatch same), rfl⟩
      | some l =>
        cases right : e.st.height .right with
        | none =>
          rw [immediateAsk_marked locked live (heightChoice_none (.inr right) _)]
          exact ⟨(fun same => nomatch same), rfl⟩
        | some r =>
          have choice := heightChoice_some left right target
          cases kind : chooseKind target l r (e.st.pressure .bll) (e.st.pressure .blr) with
          | none =>
            rw [kind] at choice
            rw [immediateAsk_met locked live choice]
            refine ⟨(fun same => nomatch same), ?_⟩
            dsimp only
            rw [kind]
            rfl
          | some x =>
            rw [kind] at choice
            obtain ⟨id, rest, head⟩ := List.exists_cons_of_ne_nil free
            rw [immediateAsk_new locked live choice shaped head]
            refine ⟨(fun same => nomatch same), ?_⟩
            dsimp only
            rw [kind, head]
            rfl

end request

/-! ### The checks of HEIGHT_SET (R105) -/

/-- The sender has no authority over the height target. -/
def State.noAuthority (s : State) (m : Master) : Prop :=
  (m = .panel ∧ s.hlc.holder = false) ∨ (m = .cab ∧ s.tgu.mode = .loading ∧ s.hlc.holder = true)

/-- The vehicle moves, or may move, under a request of the cab. -/
def State.tooFast (s : State) (m : Master) : Prop := m = .cab ∧ s.tgu.mode ≠ .loading ∧ (s.speedState = .moving ∨ s.speedState = .unknown)

theorem bellowsFaulted_iff (s : State) : s.bellowsFaulted = true ↔ s.faulted .bll = true ∨ s.faulted .blr = true := Bool.or_eq_true _ _ ▸ Iff.rfl

section checks

variable {s : State} {m : Master}

theorem heightRefusal_authority (no : s.noAuthority m) : s.heightRefusal m = some .noAuthority := by
  unfold State.heightRefusal
  rcases no with ⟨panel, free⟩ | loading
  · rw [if_pos ⟨panel, by rw [free]; rfl⟩]
  · split
    · rfl
    · rfl

variable (may : ¬ s.noAuthority m)

include may

theorem heightRefusal_rest : s.heightRefusal m = if m = .cab ∧ s.tgu.mode ≠ .loading ∧ (s.speedState = .moving ∨ s.speedState = .unknown) then some .speed
    else if s.glc.stop.occupied then some .stopped else if s.bellowsFaulted then some .nodeFault else none := by
  unfold State.heightRefusal
  rw [if_neg (fun no => may (.inl ⟨no.1, by simpa using no.2⟩)), if_neg (fun no => may (.inr no))]

theorem heightRefusal_speed (fast : s.tooFast m) : s.heightRefusal m = some .speed := (heightRefusal_rest may).trans (if_pos fast)

variable (slow : ¬ s.tooFast m)

include slow

theorem heightRefusal_stopped (stop : s.glc.stop.occupied = true) : s.heightRefusal m = some .stopped :=
  (heightRefusal_rest may).trans ((if_neg slow).trans (if_pos stop))

variable (free : ¬ s.glc.stop.occupied = true)

include free

theorem heightRefusal_fault (faulted : s.faulted .bll = true ∨ s.faulted .blr = true) : s.heightRefusal m = some .nodeFault :=
  (heightRefusal_rest may).trans ((if_neg slow).trans ((if_neg free).trans (if_pos ((bellowsFaulted_iff s).2 faulted))))

theorem heightRefusal_none (sound : ¬ (s.faulted .bll = true ∨ s.faulted .blr = true)) : s.heightRefusal m = none :=
  (heightRefusal_rest may).trans ((if_neg slow).trans ((if_neg free).trans (if_neg fun faulted => sound ((bellowsFaulted_iff s).1 faulted))))

end checks

theorem clamp_height (v : Int) : clamp hMin hMax v = (if v < 80 then 80 else if 360 < v then 360 else v.toNat, decide (v < 80 ∨ 360 < v)) := by
  unfold clamp
  rw [show hMin = 80 from rfl, show hMax = 360 from rfl]
  by_cases low : v < 80
  · rw [if_pos (by omega), if_pos low, decide_eq_true (.inl low)]
  · by_cases high : 360 < v
    · rw [if_neg (by omega), if_pos (by omega), if_neg low, if_pos high, decide_eq_true (.inr high)]
    · rw [if_neg (by omega), if_neg (by omega), if_neg low, if_neg high, decide_eq_false (by omega)]

/-! ### HEIGHT_SET -/

/-- The authority timer started afresh for an accepted request of the panel (R108). -/
def State.authorised (s : State) (m : Master) : State := if m = .panel then s.takeAuthority else s

theorem authorised_eq {s : State} {m : Master} (holds : m = .panel → s.hlc.holder = true) :
    s.authorised m = { s with hlc.authT := if m = .panel then some ⟨s.now, 120000⟩ else s.hlc.authT } := by
  unfold State.authorised
  split
  · next panel =>
    unfold State.takeAuthority
    rw [← holds panel]
    rfl
  · rfl

theorem authorised_frame (s : State) (m : Master) : s.authorised m = { s with
    hlc.holder := (s.authorised m).hlc.holder, hlc.authT := (s.authorised m).hlc.authT } := by
  unfold State.authorised
  split <;> rfl

section handler

variable {e : Ev} {m : Master} {arg : HeightArg} {v : Int} (value : e.st.heightValue arg = some v)

include value

theorem heightSet_refused {why : Reason} (no : e.st.heightRefusal m = some why) : e.heightSet m arg = (e, .refused why) := by
  unfold Ev.heightSet
  rw [value]
  dsimp only
  rw [no]

variable (can : e.st.heightRefusal m = none)

include can

theorem heightSet_accepted {e' : Ev} {a b : Bool} {id : Option Nat} {data : List Byte}
    (result : e.requestTarget m (clamp hMin hMax v).1 (clamp hMin hMax v).2 = (e', .accepted a b id data)) :
    e.heightSet m arg = (e'.on fun s => s.authorised m, .accepted a b id data) := by
  unfold Ev.heightSet State.authorised
  rw [value]
  dsimp only
  rw [can]
  dsimp only
  rw [result]
  dsimp only
  split <;> rfl

theorem heightSet_noRecord {e' : Ev} {why : Reason}
    (result : e.requestTarget m (clamp hMin hMax v).1 (clamp hMin hMax v).2 = (e', .refused why)) :
    e.heightSet m arg = (e', .refused why) := by
  unfold Ev.heightSet
  rw [value]
  dsimp only
  rw [can]
  dsimp only
  rw [result]

end handler

section heard

variable (s : State) (h : Hdr) (c : Instr)

theorem heard_bellowsFaulted : (s.heard h c).bellowsFaulted = s.bellowsFaulted := by
  unfold State.bellowsFaulted
  rw [heard_faulted, heard_faulted]

theorem heard_heightRefusal (m : Master) : (s.heard h c).heightRefusal m = s.heightRefusal m := by
  unfold State.heightRefusal
  rw [heard_hlc, heard_tgu, heard_speedState, heard_glc, heard_bellowsFaulted]

theorem heard_heightValue (arg : HeightArg) : (s.heard h c).heightValue arg = s.heightValue arg := by
  unfold State.heightValue
  rw [heard_hlc]

theorem heard_deckAnswer (goal : Nat) (k : Bool) : (s.heard h c).deckAnswer goal k = s.deckAnswer goal k := by
  unfold State.deckAnswer
  rw [heard_hlc, heard_descOfClass, heard_height, heard_height, heard_pressure, heard_pressure, heard_dqm]

theorem heard_allShaped (safe : Safe s) : AllShaped (s.heard h c) := by
  unfold AllShaped
  rw [heard_transfers]
  exact safe.shaped

end heard

theorem deckAnswer_accepted (s : State) (goal : Nat) (k : Bool) : ∃ b id, s.deckAnswer goal k = .accepted k b id [] := by
  unfold State.deckAnswer
  split
  · exact ⟨_, _, rfl⟩
  · split
    · exact ⟨_, _, rfl⟩
    · exact ⟨_, _, rfl⟩
    · exact ⟨_, _, rfl⟩

/-- A request for a target that moves it, once the immediate ask has been made. -/
theorem requestTarget_answers {e : Ev} {m : Master} {target : Nat} {k : Bool} (moves : e.st.hlc.target ≠ target) (shaped : AllShaped e.st)
    (whole : ∀ d ∈ e.st.transfers, d.cls = .height → d.torn = none) (free : e.st.dqm.free ≠ []) :
    e.requestTarget m target k =
      ((e.immediateAsk target (.master m) false).1.on fun s => s.setHeightTarget target, e.st.deckAnswer target k) := by
  have answers := immediateAsk_answers (target := target) (m := m) (k := k) shaped whole free
  generalize result : e.immediateAsk target (.master m) false = q at *
  obtain ⟨e', y⟩ := q
  rw [requestTarget_moved moves result answers.1, answers.2]

/-- How an accepted request for a target ends: what its immediate ask left, and its answer. -/
structure TargetEnds (e : Ev) (m : Master) (target : Nat) (k : Bool) (e' : Ev) (ans : Answer) : Prop where
  asked : Asked e.st e'.st
  fixed : e'.st.fixed = e.st.fixed
  accepted : ∃ a b id data, ans = .accepted a b id data
  moved : target ≠ e.st.hlc.target → ans = e.st.deckAnswer target k ∧ e' = (e.immediateAsk target (.master m) false).1

theorem requestTarget_ends {e : Ev} (m : Master) (target : Nat) (k : Bool) (shaped : AllShaped e.st)
    (whole : ∀ d ∈ e.st.transfers, d.cls = .height → d.torn = none) (free : e.st.dqm.free ≠ []) :
    ∃ e' ans, e.requestTarget m target k = (e'.on fun s => s.setHeightTarget target, ans) ∧ TargetEnds e m target k e' ans := by
  by_cases moves : target = e.st.hlc.target
  · refine ⟨e, .accepted k false none [], (requestTarget_same moves.symm).trans ?_, .refl _, rfl, ⟨_, _, _, _, rfl⟩, fun no => absurd moves no⟩
    rw [moves]
    rfl
  · obtain ⟨b, id, accepted⟩ := deckAnswer_accepted e.st target k
    exact ⟨_, _, requestTarget_answers (fun same => moves same.symm) shaped whole free, asked_immediateAsk _ _ _ _,
      Ev.immediateAsk_fixed _ _ _ _, ⟨_, _, _, _, accepted⟩, fun _ => ⟨rfl, rfl⟩⟩

/-- The record that a deck ask of a master places, where nothing can be granted. -/
theorem TargetEnds.places {e : Ev} {m : Master} {target : Nat} {k : Bool} {e' : Ev} {ans : Answer} (ends : TargetEnds e m target k e' ans)
    (moves : target ≠ e.st.hlc.target) (unlocked : e.st.hlc.lockout.occupied = false) (new : e.st.descOfClass .height = none)
    (shaped : AllShaped e.st) {x : StepKind} (choice : e.st.heightChoice target = some (some x)) {id : Nat} {rest : List Nat}
    (free : e.st.dqm.free = id :: rest) :
    e'.st = State.allocated e.st.stopPersist (heightAsk target (.master m) x) id rest := by
  rw [(ends.moved moves).2, immediateAsk_new unlocked new choice shaped free]
  dsimp only
  rw [Ev.triggerBoth_st, Ev.on_st, Ev.on_st]

theorem TargetEnds.marks {e : Ev} {m : Master} {target : Nat} {k : Bool} {e' : Ev} {ans : Answer} (ends : TargetEnds e m target k e' ans)
    (moves : target ≠ e.st.hlc.target) (unlocked : e.st.hlc.lockout.occupied = false) (new : e.st.descOfClass .height = none)
    (choice : e.st.heightChoice target = none) : e' = e.on fun s => s.setHeightPending true := by
  rw [(ends.moved moves).2, immediateAsk_marked unlocked new choice]

theorem setHeightTarget_fixed (s : State) (mm : Nat) : (s.setHeightTarget mm).fixed = { s.fixed with target := mm } := rfl

theorem Queued.records {s t : State} (q : Queued s t) : t.dqm = s.dqm ∧ t.hlc = s.hlc := by
  rw [q]
  exact ⟨rfl, rfl⟩

/-- Settles O45. -/
theorem heightSetMovesTarget : Obligations.HeightSetMovesTarget := by
  intro s h arg p c r
  refine ⟨?_, fun v given => ?_⟩
  · rintro form rfl
    exact congrArg Host.Outcome.next (p.same c (Ev.heightSet h.sender (.other form)) rfl rfl)
  intro goal clamped noAuthority fast stopped faulted auth
  have value : r.heightValue arg = some v := by
    refine (heard_heightValue s h c arg).trans ?_
    rcases given with ⟨mm, rfl, rfl⟩ | ⟨d, rfl, rfl⟩
    · rfl
    · rfl
  have refused (why : Reason) (no : s.heightRefusal h.sender = some why) : exec c s = .next (r.answered r h codeHeightSet (.refused why)) :=
    congrArg Host.Outcome.next (p.same c (Ev.heightSet h.sender arg) rfl
      (heightSet_refused (e := Ev.of r) value ((heard_heightRefusal s h c _).trans no)))
  refine ⟨fun no => refused _ (heightRefusal_authority no), fun may quick => refused _ (heightRefusal_speed may quick),
    fun may slow stop => refused _ (heightRefusal_stopped may slow stop), fun may slow free fault => refused _ (heightRefusal_fault may slow free fault),
    fun may slow free sound => ?_⟩
  have can : r.heightRefusal h.sender = none := (heard_heightRefusal s h c _).trans (heightRefusal_none may slow free sound)
  have range : clamp hMin hMax v = (goal, clamped) := clamp_height v
  have hlc : r.hlc = s.hlc := heard_hlc s h c
  have authR : (if h.sender = .panel then some ⟨r.now, 120000⟩ else r.hlc.authT) = auth := by
    rw [hlc, show r.now = s.now from heard_now s h c]
  have holds (t : State) (same : t.hlc = s.hlc) (panel : h.sender = .panel) : t.hlc.holder = true := by
    rw [same]
    exact Bool.of_not_eq_false fun free => may (.inl ⟨panel, free⟩)
  refine ⟨fun same => ?_, fun safe whole room => ?_, fun safe moves unlocked d live torn => ?_⟩
  · have result : (Ev.of r).requestTarget h.sender (clamp hMin hMax v).1 (clamp hMin hMax v).2 = (Ev.of r, .accepted clamped false none []) := by
      rw [range]
      exact requestTarget_same (by rw [Ev.of_st, hlc]; exact same.symm)
    have handled := heightSet_accepted (e := Ev.of r) value can result
    refine congrArg Host.Outcome.next ((p.onto c (Ev.heightSet h.sender arg) rfl (fun s => s.authorised h.sender) handled).trans ?_)
    rw [authorised_eq (holds r hlc)]
    exact congrArg (fun x => State.answered { r with hlc.authT := x } r h codeHeightSet (.accepted clamped false none [])) authR
  · have shaped := heard_allShaped s h c safe
    obtain ⟨e', ans, result, ends⟩ := requestTarget_ends (e := Ev.of r) h.sender goal clamped shaped
      (by rw [Ev.of_st, heard_transfers]; exact whole) (by rw [Ev.of_st, heard_dqm]; exact room)
    have handled : Ev.heightSet h.sender arg (Ev.of r) = ((e'.on fun s => s.setHeightTarget goal).on fun s => s.authorised h.sender, ans) := by
      obtain ⟨a, b, id, data, rfl⟩ := ends.accepted
      exact heightSet_accepted (e := Ev.of r) value can (by rw [range]; exact result)
    have fixed' : ((e'.on fun s => s.setHeightTarget goal).on fun s => s.authorised h.sender).st.fixed =
        { r.fixed with target := goal, authT := auth } := by
      have holder : e'.st.hlc.holder = r.hlc.holder := congrArg Fixed.holder ends.fixed
      have now : e'.st.now = r.now := congrArg Fixed.now ends.fixed
      have authT : e'.st.hlc.authT = r.hlc.authT := congrArg Fixed.authT ends.fixed
      rw [Ev.on_st, Ev.on_st, authorised_eq (s := e'.st.setHeightTarget goal) (fun panel => holder.trans (holds r hlc panel)), ← authR,
        show r.fixed = e'.st.fixed from ends.fixed.symm, ← now, ← authT]
      rfl
    have link := p.link c (Ev.heightSet h.sender arg) noFrame
    have closed := p.fixed c (Ev.heightSet h.sender arg) noFrame
    have answers := p.answers c (Ev.heightSet h.sender arg) rfl
    have queued := p.queued_noGrant c (Ev.heightSet h.sender arg) rfl
    rw [show Ev.of (s.heard h c) = Ev.of r from rfl, handled] at link closed answers queued
    dsimp only at link closed answers queued
    rw [fixed'] at closed
    have lku := congrArg Fixed.lku fixed'
    refine ⟨request c h codeHeightSet (Ev.heightSet h.sender arg) noFrame s, rfl, ?_, closed, fun moves => ?_, fun moves unlocked new => ⟨fun unordered => ?_, ?_⟩⟩
    · unfold SameLink at *
      rw [show State.lku _ = r.lku from lku] at link
      exact link
    · have answer := (ends.moved (by rw [Ev.of_st, hlc]; exact moves)).1
      rw [Ev.of_st, heard_deckAnswer] at answer
      rw [← answer]
      exact answers lku (congrArg Fixed.freeCount fixed')
    · have marked := ends.marks (by rw [Ev.of_st, hlc]; exact moves) (by rw [Ev.of_st, hlc]; exact unlocked)
        ((heard_descOfClass s h c _).trans new) (heightChoice_none (by rw [Ev.of_st, heard_height, heard_height]; exact unordered) _)
      have plain := p.plain c (Ev.heightSet h.sender arg) rfl
      rw [show Ev.of (s.heard h c) = Ev.of r from rfl, handled, marked] at plain
      rw [plain rfl rfl, show State.answered _ _ _ _ _ = _ from queued_enqueueAll _ _]
      show (State.authorised _ _).hlc.pending = true
      rw [authorised_frame]
      rfl
    · intro a b left right k kind id rest free busy
      have placed := ends.places (by rw [Ev.of_st, hlc]; exact moves) (by rw [Ev.of_st, hlc]; exact unlocked)
        ((heard_descOfClass s h c _).trans new) shaped (x := k) (id := id) (rest := rest)
        (by
          rw [Ev.of_st, heightChoice_some (s := s.heard h c) (by rw [heard_height]; exact left) (by rw [heard_height]; exact right),
            heard_pressure, heard_pressure, kind])
        (by rw [Ev.of_st, heard_dqm]; exact free)
      have done := queued (Busy.noGrant (busy.galleries (by
        rw [Ev.on_st, authorised_frame]
        exact (congrArg Glc.galleries ends.asked.glc).trans (congrArg Glc.galleries (heard_glc s h c)))))
      rw [Ev.on_st, authorised_frame, Ev.on_st, placed, allocated_height] at done
      obtain ⟨records, loop⟩ := done.records
      refine ⟨congrArg Dqm.free records, congrArg Hlc.persist loop, congrArg Hlc.pending loop, (congrArg Dqm.live records).trans ?_⟩
      show (s.heard h c).dqm.live ++ [.transfer ((heightAsk goal _ k).record id (s.heard h c).ws.maxSteps.height)] = _
      rw [heard_dqm, heard_ws]
      rfl
  · have result : (Ev.of r).requestTarget h.sender (clamp hMin hMax v).1 (clamp hMin hMax v).2 =
        (((Ev.of r).on State.stopPersist).refuse .height [.bll, .blr], .refused .noDescriptor) := by
      rw [range]
      refine requestTarget_torn ?_ (heard_allShaped s h c safe) ?_ ((heard_descOfClass s h c _).trans live) torn
      · rw [Ev.of_st, hlc]; exact fun same => moves same.symm
      · rw [Ev.of_st, hlc]; exact unlocked
    have handled := heightSet_noRecord (e := Ev.of r) value can result
    refine ⟨_, rfl, p.starved c (Ev.heightSet h.sender arg) rfl (((Ev.of r).on State.stopPersist).on fun s => s.starved .height) rfl rfl rfl rfl ?_ ?_ ?_ ?_⟩
    all_goals rw [show Ev.of (s.heard h c) = Ev.of r from rfl, handled]
    · dsimp only
      rw [refuse_st, refuse_eq, ← heard_dqm s h c]
      rfl
    · rw [refuse_eq]
      rfl
    · rw [refuse_eq]
      rfl

/-! ### RIDE_RETURN (R106) -/

section ride

variable {e : Ev} {m : Master}

theorem rideReturn_authority (no : m ≠ .panel ∧ e.st.hlc.holder = true) : e.rideReturn m = (e, .refused .noAuthority) := if_pos no

variable (may : ¬ (m ≠ .panel ∧ e.st.hlc.holder = true))

include may

theorem rideReturn_stopped (stop : e.st.glc.stop.occupied = true) : e.rideReturn m = (e, .refused .stopped) := (if_neg may).trans (if_pos stop)

variable (free : ¬ e.st.glc.stop.occupied = true)

include free

theorem rideReturn_fault (faulted : e.st.faulted .bll = true ∨ e.st.faulted .blr = true) : e.rideReturn m = (e, .refused .nodeFault) :=
  (if_neg may).trans ((if_neg free).trans (if_pos ((bellowsFaulted_iff _).2 faulted)))

theorem rideReturn_taken (sound : ¬ (e.st.faulted .bll = true ∨ e.st.faulted .blr = true)) :
    e.rideReturn m = e.requestTarget m e.st.nominal false :=
  (if_neg may).trans ((if_neg free).trans (if_neg fun faulted => sound ((bellowsFaulted_iff _).1 faulted)))

end ride

/-- Settles O46. -/
theorem rideReturnTakesNominal : Obligations.RideReturnTakesNominal := by
  intro s h p c r nominal noAuthority stopped faulted
  have hlc : r.hlc = s.hlc := heard_hlc s h c
  have stopR : r.glc.stop.occupied = s.glc.stop.occupied := congrArg (fun x : Glc => x.stop.occupied) (heard_glc s h c)
  have mayR : (h.sender ≠ .panel ∧ r.hlc.holder = true) ↔ noAuthority := by rw [hlc]
  have soundR : (r.faulted .bll = true ∨ r.faulted .blr = true) ↔ faulted := by
    rw [show r.faulted .bll = _ from heard_faulted s h c _, show r.faulted .blr = _ from heard_faulted s h c _]
  have nominalR : r.nominal = nominal := (heard_nominal s h c).trans (by
    unfold State.nominal
    show _ = match s.tgu.mode, s.tgu.basis with
      | .road, _ => s.ws.ride
      | .field, _ => s.ws.ride + s.ws.fieldOffset
      | .loading, .road => s.ws.ride
      | .loading, .field => s.ws.ride + s.ws.fieldOffset
    cases s.tgu.mode <;> cases s.tgu.basis <;> rfl)
  have refused {why : Reason} (no : Ev.rideReturn h.sender (Ev.of r) = (Ev.of r, .refused why)) :
      exec c s = .next (r.answered r h codeRideReturn (.refused why)) :=
    congrArg Host.Outcome.next (p.same c (Ev.rideReturn h.sender) rfl no)
  refine ⟨fun no => refused (rideReturn_authority (mayR.2 no)), fun may stop => refused (rideReturn_stopped (fun no => may (mayR.1 no)) (stopR.trans stop)),
    fun may free fault => refused (rideReturn_fault (fun no => may (mayR.1 no)) (fun stop => free (stopR.symm.trans stop)) (soundR.2 fault)),
    fun may free sound => ?_⟩
  have taken : Ev.rideReturn h.sender (Ev.of r) = (Ev.of r).requestTarget h.sender nominal false := by
    rw [← nominalR]
    exact rideReturn_taken (e := Ev.of r) (fun no => may (mayR.1 no)) (fun stop => free (stopR.symm.trans stop)) (fun fault => sound (soundR.1 fault))
  clear_value nominal
  refine ⟨fun same => ?_, fun safe whole room => ?_, fun safe moves unlocked d live torn => ?_⟩
  · refine congrArg Host.Outcome.next (p.same c (Ev.rideReturn h.sender) rfl (taken.trans (requestTarget_same ?_)))
    rw [Ev.of_st, hlc, same]
  · obtain ⟨e', ans, result, ends⟩ := requestTarget_ends (e := Ev.of r) h.sender nominal false (heard_allShaped s h c safe)
      (by rw [Ev.of_st, heard_transfers]; exact whole) (by rw [Ev.of_st, heard_dqm]; exact room)
    have handled := taken.trans result
    have fixed' : (e'.on fun s => s.setHeightTarget nominal).st.fixed = { r.fixed with target := nominal } := by
      rw [Ev.on_st, setHeightTarget_fixed, ends.fixed]
      rfl
    have link := p.link c (Ev.rideReturn h.sender) noFrame
    have closed := p.fixed c (Ev.rideReturn h.sender) noFrame
    have answers := p.answers c (Ev.rideReturn h.sender) rfl
    rw [show Ev.of (s.heard h c) = Ev.of r from rfl, handled] at link closed answers
    dsimp only at link closed answers
    rw [fixed'] at closed
    have lku := congrArg Fixed.lku fixed'
    refine ⟨request c h codeRideReturn (Ev.rideReturn h.sender) noFrame s, rfl, ?_, closed, fun moves => ?_⟩
    · unfold SameLink at *
      rw [show State.lku _ = r.lku from lku] at link
      exact link
    · have answer := (ends.moved (by rw [Ev.of_st, hlc]; exact moves)).1
      rw [Ev.of_st, heard_deckAnswer] at answer
      rw [← answer]
      exact answers lku (congrArg Fixed.freeCount fixed')
  · have handled := taken.trans (requestTarget_torn (e := Ev.of r) (m := h.sender) (k := false)
      (by rw [Ev.of_st, hlc]; exact fun same => moves same.symm) (heard_allShaped s h c safe) (by rw [Ev.of_st, hlc]; exact unlocked)
      ((heard_descOfClass s h c _).trans live) torn)
    refine ⟨_, rfl, p.starved c (Ev.rideReturn h.sender) rfl (((Ev.of r).on State.stopPersist).on fun s => s.starved .height) rfl rfl rfl rfl ?_ ?_ ?_ ?_⟩
    all_goals rw [show Ev.of (s.heard h c) = Ev.of r from rfl, handled]
    · dsimp only
      rw [refuse_st, refuse_eq, ← heard_dqm s h c]
      rfl
    · rw [refuse_eq]
      rfl
    · rw [refuse_eq]
      rfl

end Sys2Proof.Machine
end

section
/-! SUPPORT. The end tests of a step, and what a settled bellows reading recomputes. -/

set_option Elab.async false

namespace Sys2Proof.Machine

/-! ### What the end tests leave alone -/

/-- A change that the end tests and the monitors make: no gallery becomes IDLE or busy, and beside the galleries, the records, the latches
and the monitors nothing moves. -/
structure Ended (s t : State) : Prop where
  frame : t = { s with glc := t.glc, dqm := t.dqm, evu.latches := t.evu.latches, spu.monitors := t.spu.monitors }
  idle : ∀ g, t.idle g = s.idle g

theorem Ended.refl (s : State) : Ended s s := ⟨rfl, fun _ => rfl⟩

theorem Ended.trans {s t u : State} (h : Ended s t) (k : Ended t u) : Ended s u where
  frame := by
    have first := h.frame
    have second := k.frame
    rw [first] at second
    exact second
  idle g := (k.idle g).trans (h.idle g)

theorem ended_latch (k : EventKind) (ns : List Node) (e : Ev) : Ended e.st (Ev.latch k ns e).st := by
  rw [Ev.latch_st]
  exact ⟨rfl, fun _ => rfl⟩

theorem idle_modGallery (s : State) (g : Gallery) {f : GalleryRec → GalleryRec} (keeps : ∀ x, (f x).flight.isNone = x.flight.isNone) (g' : Gallery) :
    (s.modGallery g f).idle g' = s.idle g' := by
  unfold State.modGallery State.idle
  dsimp only
  by_cases same : g' = g
  · rw [same, PerGallery.get_modify]
    exact keeps _
  · rw [PerGallery.get_modify_ne _ _ same]

theorem ended_endStep (s : State) (g : Gallery) (r : EndReason) : Ended s (s.endStep g r) := by
  unfold State.endStep
  split
  · exact .refl s
  · split
    · refine ⟨rfl, fun g' => ?_⟩
      exact idle_modGallery { s with glc.valves := s.glc.valves.shut g } g (fun x => Option.isNone_map) g'
    · exact .refl s

theorem ended_endSensor (g : Gallery) (n : Node) (e : Ev) : Ended e.st (e.endSensor g n).st :=
  (ended_endStep e.st g .sensor).trans (ended_latch _ _ (e.on fun s => s.endStep g .sensor))

theorem ended_crossEnd (g : Gallery) (l r : Option Nat) (near : Nat → Nat → Bool) (e : Ev) : Ended e.st (e.crossEnd g l r near).st := by
  unfold Ev.crossEnd
  split
  · split
    · exact ended_endStep _ _ _
    · exact .refl _
  · exact ended_latch _ _ e
  · exact ended_latch _ _ e
  · exact ended_latch _ _ e

theorem ended_pressureEnd (g : Gallery) (m : Managed) (e : Ev) : Ended e.st (e.pressureEnd g m).st := by
  unfold Ev.pressureEnd
  split
  · exact .refl _
  · split
    · split
      · exact ended_endSensor _ _ e
      · exact ended_endSensor _ _ e
      · exact ended_endSensor _ _ e
      · split
        · exact ended_endStep _ _ _
        · exact .refl _
      · split
        · exact ended_endStep _ _ _
        · exact .refl _
      · exact ended_crossEnd _ _ _ _ e
      · exact .refl _
    · exact .refl _

theorem ended_pressureEnds (m : Managed) (e : Ev) : Ended e.st (e.pressureEnds m).st :=
  (ended_pressureEnd .a m e).trans (ended_pressureEnd .b m _)

theorem ended_setMonitor (s : State) (x : PerWatched Monitor) : Ended s { s with spu.monitors := x } := ⟨rfl, fun _ => rfl⟩

theorem ended_watch (n : Node) (e : Ev) : Ended e.st (e.watch n).st := by
  unfold Ev.watch
  split
  · unfold Ev.monitorArrival
    split
    · dsimp only
      split
      · split
        · exact (ended_latch _ _ e).trans (ended_setMonitor _ _)
        · exact .refl _
      · exact ended_setMonitor _ _
    · exact .refl _
  · exact .refl _

theorem ended_floorTest (e : Ev) : Ended e.st e.floorTest.st := by
  have ends := ended_endStep e.st .a .airPause
  unfold Ev.floorTest
  split
  · exact .refl _
  · split
    · split
      · split
        · exact ends.trans (ended_latch _ _ (e.on fun s => s.endStep .a .airPause))
        · exact .refl _
      · exact (ends.trans (ended_latch _ _ (e.on fun s => s.endStep .a .airPause))).trans (ended_latch _ _ _)
    · exact .refl _

/-! ### The targets of a load-follow recomputation (R31) -/

/-- The targets, the overrides and the mark of the first recomputation are the same. -/
structure SameTargets (s t : State) : Prop where
  followed : t.tgu.followed = s.tgu.followed
  target : ∀ v, (t.tgu.tyres.get v).target = (s.tgu.tyres.get v).target
  override : ∀ v, (t.tgu.tyres.get v).override = (s.tgu.tyres.get v).override

theorem SameTargets.of_tgu {s t : State} (same : t.tgu = s.tgu) : SameTargets s t := by
  refine ⟨?_, fun v => ?_, fun v => ?_⟩ <;> rw [same]

theorem SameTargets.trans {s t u : State} (h : SameTargets s t) (k : SameTargets t u) : SameTargets s u :=
  ⟨k.followed.trans h.followed, fun v => (k.target v).trans (h.target v), fun v => (k.override v).trans (h.override v)⟩

theorem modify_same {α : Type} (p : PerTyre TyreRec) (u v : Tyre) {f : TyreRec → TyreRec} {x : TyreRec → α} (keeps : ∀ r, x (f r) = x r) :
    x ((p.modify u f).get v) = x (p.get v) := by
  by_cases same : v = u
  · rw [same, PerTyre.get_modify, keeps]
  · rw [PerTyre.get_modify_ne _ _ same]

theorem sameTargets_modify (s : State) (u : Tyre) {f : TyreRec → TyreRec} (target : ∀ r, (f r).target = r.target)
    (override : ∀ r, (f r).override = r.override) : SameTargets s { s with tgu.tyres := s.tgu.tyres.modify u f } :=
  ⟨rfl, fun v => modify_same (x := TyreRec.target) _ u v target, fun v => modify_same (x := TyreRec.override) _ u v override⟩

theorem sameTargets_tyreServed (s : State) (u : Tyre) : SameTargets s (s.tyreServed u) :=
  ⟨rfl, fun v => modify_same (x := TyreRec.target) _ u v fun _ => rfl, fun v => modify_same (x := TyreRec.override) _ u v fun _ => rfl⟩

theorem sameTargets_ask (u : Tyre) (goal : Nat) (o : Origin) (e : Ev) : SameTargets e.st (e.ask (e.st.tyreAsk u goal o)).1.st := by
  have refused : SameTargets e.st (e.refuse .tyre [u.managed]).st := .of_tgu (refuse_tgu _ _ e)
  unfold Ev.ask
  split
  · split
    · exact refused
    · refine .of_tgu ?_
      split
      · exact mergeQueued_tgu _ _ e
      · dsimp only
        rw [mergePending_st]
        rfl
  · unfold Ev.allocate
    split
    · exact refused
    · next id rest _ =>
      split
      · exact refused
      · dsimp only
        rw [Ev.triggerBoth_st, Ev.on_st]
        rw [show State.becameLive _ (e.st.tyreAsk u goal o) = _ from allocated_tyre e.st _ u rfl rfl id rest]
        refine SameTargets.trans ?_ (sameTargets_tyreServed _ u)
        exact .of_tgu rfl

theorem sameTargets_askTyre (u : Tyre) (e : Ev) : SameTargets e.st (e.askTyre u).st := by
  have asked := sameTargets_ask u (e.st.tgu.tyres.get u).target .auto e
  unfold Ev.askTyre
  dsimp only
  split
  · exact asked.trans (sameTargets_modify _ u (fun _ => rfl) fun _ => rfl)
  · exact asked

theorem sameTargets_retargeted (c : Cause) (u : Tyre) (old new : Nat) (e : Ev) : SameTargets e.st (e.retargeted c u old new).st := by
  unfold Ev.retargeted
  split
  · exact sameTargets_askTyre u e
  · split
    · exact SameTargets.trans (t := e.st.setTyreTimer u none) (sameTargets_modify e.st u (fun _ => rfl) fun _ => rfl)
        (sameTargets_askTyre u (e.on fun s => s.setTyreTimer u none))
    · exact .of_tgu rfl

/-- A target after a load-follow recomputation that takes it or not. -/
def followedTarget (taken : Prop) [Decidable taken] (old goal : Nat) : Nat := if taken ∧ (old + 15 ≤ goal ∨ goal + 15 ≤ old) then goal else old

theorem followedTarget_twice (p q : Prop) [Decidable p] [Decidable q] (old goal : Nat) :
    followedTarget q (followedTarget p old goal) goal = followedTarget (p ∨ q) old goal := by
  unfold followedTarget
  by_cases first : p ∧ (old + 15 ≤ goal ∨ goal + 15 ≤ old)
  · rw [if_pos first, ite_self, if_pos ⟨.inl first.1, first.2⟩]
  · rw [if_neg first]
    refine if_congr ?_ rfl rfl
    rw [or_and_right]
    exact ⟨.inr, fun both => both.resolve_left first⟩

theorem formTarget_asked {s t : State} (asked : Asked s t) (u : Tyre) (o : Option Nat) : t.formTarget u o = s.formTarget u o := by
  rw [asked]
  rfl

theorem loadFollow_replaces (old new : Nat) : Cause.replaces .loadFollow old new = true ↔ old + 15 ≤ new ∨ new + 15 ≤ old := by
  show decide (15 ≤ absDiff new old) = true ↔ _
  rw [decide_eq_true_eq]
  unfold absDiff
  omega

section follow

variable {e : Ev} (mode : e.st.tgu.mode ≠ .loading) (run : e.st.sts.phase = .run)

include mode run

theorem recompute_follows (u v : Tyre) : ((e.recompute .loadFollow u).st.tgu.tyres.get v).target =
    followedTarget (v = u) (e.st.tgu.tyres.get v).target (e.st.formTarget v (e.st.tgu.tyres.get v).override) ∧
    ((e.recompute .loadFollow u).st.tgu.tyres.get v).override = (e.st.tgu.tyres.get v).override ∧
    (e.recompute .loadFollow u).st.tgu.followed = e.st.tgu.followed := by
  unfold Ev.recompute followedTarget
  rw [if_neg (not_or_intro mode fun no => no run)]
  dsimp only
  split
  · next far =>
    have same := sameTargets_retargeted .loadFollow u (e.st.tgu.tyres.get u).target (e.st.formTarget u (e.st.tgu.tyres.get u).override)
      (e.on fun s => s.setTarget u (e.st.formTarget u (e.st.tgu.tyres.get u).override))
    rw [same.target, same.override, same.followed, Ev.on_st]
    unfold State.setTarget
    by_cases at_ : v = u
    · rw [at_, PerTyre.get_modify, if_pos ⟨rfl, (loadFollow_replaces _ _).1 far⟩]
      exact ⟨rfl, rfl, rfl⟩
    · rw [PerTyre.get_modify_ne _ _ at_, if_neg fun no => at_ no.1]
      exact ⟨rfl, rfl, rfl⟩
  · next near =>
    refine ⟨(if_neg fun no => ?_).symm, rfl, rfl⟩
    obtain ⟨rfl, far⟩ := no
    exact near ((loadFollow_replaces _ _).2 far)

end follow

theorem recomputeList_follows (us : List Tyre) {e : Ev} (mode : e.st.tgu.mode ≠ .loading) (run : e.st.sts.phase = .run) :
    (e.recomputeList .loadFollow us).st.tgu.followed = e.st.tgu.followed ∧
    ∀ v, ((e.recomputeList .loadFollow us).st.tgu.tyres.get v).target =
      followedTarget (v ∈ us) (e.st.tgu.tyres.get v).target (e.st.formTarget v (e.st.tgu.tyres.get v).override) := by
  induction us generalizing e with
  | nil => exact ⟨rfl, fun v => (if_neg fun no => List.not_mem_nil no.1).symm⟩
  | cons u us ih =>
    have fixed := Ev.recompute_fixed .loadFollow u e
    obtain ⟨marked, rest⟩ := ih (e := e.recompute .loadFollow u) (fun no => mode ((congrArg Fixed.mode fixed).symm.trans no))
      ((congrArg (fun f : Fixed => f.sts.phase) fixed).trans run)
    refine ⟨marked.trans (recompute_follows mode run u u).2.2, fun v => (rest v).trans ?_⟩
    obtain ⟨target, override, -⟩ := recompute_follows mode run u v
    rw [target, override, formTarget_asked (recompute_law .loadFollow u e).2, followedTarget_twice]
    unfold followedTarget
    simp only [List.mem_cons]

theorem recomputeSide_follows (sd : Side) {e : Ev} (mode : e.st.tgu.mode ≠ .loading) (run : e.st.sts.phase = .run) :
    (e.recomputeSide sd).st.tgu.followed = true ∧ ∀ v, ((e.recomputeSide sd).st.tgu.tyres.get v).target =
      followedTarget (v.side = sd ∨ e.st.tgu.followed = false) (e.st.tgu.tyres.get v).target
        (e.st.formTarget v (e.st.tgu.tyres.get v).override) := by
  obtain ⟨marked, follows⟩ := recomputeList_follows (if e.st.tgu.followed then Tyre.list.filter fun u => u.side == sd else Tyre.list)
    (e := e.on fun s => { s with tgu.followed := true }) mode run
  have taken : e.recomputeSide sd = (e.on fun s => { s with tgu.followed := true }).recomputeList .loadFollow
      (if e.st.tgu.followed then Tyre.list.filter fun u => u.side == sd else Tyre.list) :=
    if_neg (not_or_intro mode fun no => no run)
  rw [taken]
  refine ⟨marked, fun v => (follows v).trans ?_⟩
  have member : (v ∈ if e.st.tgu.followed then Tyre.list.filter fun u => u.side == sd else Tyre.list) ↔
      v.side = sd ∨ e.st.tgu.followed = false := by
    have all : v ∈ Tyre.list := by cases v <;> decide
    cases e.st.tgu.followed with
    | true => simp [all]
    | false => simp [all]
  unfold followedTarget
  simp only [member]
  rfl

/-- A settled bellows reading that brings a new side load. -/
def State.loaded (s : State) (sd : Side) (new : Nat) : State :=
  { s with llu.load := s.llu.load.set sd (some new), llu.fresh := s.llu.fresh.set sd (some ⟨s.now, 500⟩) }

theorem settledLoad_down {e : Ev} {sd : Side} {g : Nat} (valid : e.st.pressure sd.bellows.node = some g) (unmarked : e.st.llu.heightStep = false)
    (down : e.st.llu.setting = .down) (moved : e.st.llu.load.get sd ≠ some (g * e.st.ws.lf / 64)) :
    e.settledLoad sd = ((e.on fun s => s.loaded sd (g * e.st.ws.lf / 64)).recomputeSide sd).on State.liftTimerTest := by
  have quiet (e' : Ev) (same : e'.st.fixed.setting = .down) : e'.overloadTest = e' := by
    unfold Ev.overloadTest State.overloaded
    rw [show e'.st.llu.setting = .down from same]
    rfl
  unfold Ev.settledLoad
  rw [valid]
  dsimp only
  rw [if_neg (by rw [unmarked]; exact Bool.false_ne_true), if_neg (show ¬ e.st.llu.load.get sd = some (sideLoad g e.st.ws.lf) from moved)]
  refine quiet _ ?_
  rw [Ev.on_st, State.liftTimerTest_fixed, Ev.recomputeSide_fixed]
  exact down

theorem sensorFault_valid {n : Node} {e : Ev} (fresh : (e.st.msu.nodes.get n).run ≠ 10) : e.sensorFault n = e := if_neg fresh

/-- A valid reading of a bellows, once the receivers have had it: the end tests and the monitor come after the load. -/
theorem pressured_bellows {s : State} {sd : Side} {x : Sample} (valid : pressureValid x = true) :
    Ended (((Ev.of s).on fun s => s.takePressure sd.bellows.node x).settledLoad sd).st (s.pressured sd.bellows.node x).st := by
  have ended := (ended_pressureEnds sd.bellows (((Ev.of s).on fun s => s.takePressure sd.bellows.node x).settledLoad sd)).trans
    (ended_watch sd.bellows.node _)
  have unfaulted : (s.pressured sd.bellows.node x) =
      ((((Ev.of s).on fun s => s.takePressure sd.bellows.node x).settledLoad sd).pressureEnds sd.bellows).watch sd.bellows.node := by
    have handed : s.pressured sd.bellows.node x =
        (((((Ev.of s).on fun s => s.takePressure sd.bellows.node x).settledLoad sd).pressureEnds sd.bellows).watch sd.bellows.node).sensorFault
          sd.bellows.node := by
      cases sd <;> rfl
    rw [handed]
    refine sensorFault_valid ?_
    obtain ⟨load, fresh, settled⟩ := settledLoad_frame sd ((Ev.of s).on fun s => s.takePressure sd.bellows.node x)
    rw [ended.frame]
    show ((((Ev.of s).on fun s => s.takePressure sd.bellows.node x).settledLoad sd).st.fixed.msu.nodes.get _).run ≠ 10
    rw [settled]
    show ((s.msu.nodes.modify _ fun r => r.after x).get sd.bellows.node).run ≠ 10
    rw [PerNode.get_modify]
    unfold Reading.after
    rw [if_pos valid]
    exact fun no => nomatch no
  rw [unfaulted]
  exact ended

/-- The side loads and their freshness after a bellows arrival has closed are those that the settled load leaves. -/
theorem bellows_loads (s : State) (sd : Side) (x : Sample) :
    let t := ((s.pressured sd.bellows.node x).on State.endRound).close none
    t.llu.load = (((Ev.of s).on fun s => s.takePressure sd.bellows.node x).settledLoad sd).st.fixed.load ∧
      t.llu.fresh = (((Ev.of s).on fun s => s.takePressure sd.bellows.node x).settledLoad sd).st.fixed.fresh := by
  have closed := close_rounded (s.pressured sd.bellows.node x)
  rw [Fixed.rounded_eq, show (s.pressured sd.bellows.node x).st.fixed = _ from pressureReceivers_bellows sd _] at closed
  exact ⟨congrArg Fixed.load closed, congrArg Fixed.fresh closed⟩

/-- Settles O50. -/
theorem sideLoadSettles : Obligations.SideLoadSettles := by
  refine ⟨fun s sd x run => ?_, fun s sd run => congrArg Host.Outcome.next (event_on run _)⟩
  intro valid
  refine ⟨_, exec_pressureArrival run sd.bellows.node x, fun ok unmarked => ?_, fun ok unmarked running mode down busy => ?_, fun no => ?_⟩
  · obtain ⟨load, fresh⟩ := bellows_loads s sd x
    have reading : ((Ev.of s).on fun s => s.takePressure sd.bellows.node x).st.pressure sd.bellows.node = some x.value.toNat :=
      (pressure_takePressure s _ x).trans (if_pos ok)
    have settled := settledLoad_fixed sd ((Ev.of s).on fun s => s.takePressure sd.bellows.node x)
    rw [reading] at settled
    dsimp only at settled
    rw [if_neg (show ¬ ((Ev.of s).on fun s => s.takePressure sd.bellows.node x).st.llu.heightStep = true from
      fun marked => Bool.false_ne_true (unmarked.symm.trans marked))] at settled
    rw [settled] at load fresh
    exact ⟨load, fresh⟩
  · intro new moved
    have ended := pressured_bellows (s := s) (sd := sd) ((pressureValid_iff x).2 ok)
    have settled := settledLoad_down (e := (Ev.of s).on fun s => s.takePressure sd.bellows.node x) (sd := sd)
      ((pressure_takePressure s _ x).trans (if_pos ok)) unmarked down moved
    obtain ⟨marked, follows⟩ := recomputeSide_follows sd
      (e := ((Ev.of s).on fun s => s.takePressure sd.bellows.node x).on fun s => s.loaded sd new) mode running
    rw [settled] at ended
    have idle (g : Gallery) : ((s.pressured sd.bellows.node x).on State.endRound).st.idle g = s.idle g := by
      rw [Ev.on_st, State.endRound_eq]
      refine (ended.idle g).trans ?_
      show State.idle (Ev.recomputeSide sd _).st g = _
      exact (loadFollow_law _ _).2.idle g
    have queued := close_queued_noGrant none ((s.pressured sd.bellows.node x).on State.endRound)
      (Busy.noGrant ⟨(idle .a).trans busy.1, (idle .b).trans busy.2⟩)
    have tgu : (((s.pressured sd.bellows.node x).on State.endRound).close none).tgu =
        ((((Ev.of s).on fun s => s.takePressure sd.bellows.node x).on fun s => s.loaded sd new).recomputeSide sd).st.tgu := by
      rw [queued]
      show (s.pressured sd.bellows.node x).st.endRound.tgu = _
      rw [State.endRound_eq, ended.frame]
      rfl
    rw [tgu]
    refine ⟨marked, fun u => (follows u).trans ?_⟩
    unfold followedTarget
    rfl
  · obtain ⟨load, fresh⟩ := bellows_loads s sd x
    have settled := settledLoad_fixed sd ((Ev.of s).on fun s => s.takePressure sd.bellows.node x)
    have kept : (((Ev.of s).on fun s => s.takePressure sd.bellows.node x).settledLoad sd).st.fixed =
        ((Ev.of s).on fun s => s.takePressure sd.bellows.node x).st.fixed := by
      rw [settled]
      rcases no with invalid | marked
      · rw [show ((Ev.of s).on fun s => s.takePressure sd.bellows.node x).st.pressure sd.bellows.node = none from
          (pressure_takePressure s _ x).trans (if_neg invalid)]
      · split
        · exact if_pos (show ((Ev.of s).on fun s => s.takePressure sd.bellows.node x).st.llu.heightStep = true from marked)
        · rfl
    rw [kept] at load fresh
    exact ⟨load, fresh⟩

end Sys2Proof.Machine
end

section
/-! SUPPORT. The sensor fault of an arrival. -/

set_option Elab.async false

namespace Sys2Proof.Machine

/-! ### The receivers of a reading leave the fault flags alone -/

/-- The fault flags are the same. -/
def SameFaults (s t : State) : Prop := t.spu.faults = s.spu.faults

theorem SameFaults.refl (s : State) : SameFaults s s := rfl

theorem SameFaults.trans {s t u : State} (h : SameFaults s t) (k : SameFaults t u) : SameFaults s u := Eq.trans k h

theorem Asked.faults {s t : State} (h : Asked s t) : SameFaults s t := congrArg Spu.faults h.spu

theorem Ended.faults {s t : State} (h : Ended s t) : SameFaults s t := by
  unfold SameFaults
  rw [h.frame]

theorem faults_setLift (x : LiftState) (e : Ev) : SameFaults e.st (e.setLift x).st := by
  unfold Ev.setLift
  dsimp only
  split
  · exact .refl _
  · refine SameFaults.trans ?_ (loadFollow_law _ _).2.faults
    rw [Ev.on_st]
    split <;> rfl

theorem faults_liftDecide (o : Origin) (e : Ev) : SameFaults e.st (e.liftDecide o).1.st := by
  unfold Ev.liftDecide
  split
  · exact .refl _
  · split
    · exact .refl _
    · dsimp only
      split
      · exact (asked_ask _ e).faults
      · exact (asked_ask _ e).faults.trans (faults_setLift _ _)

theorem faults_aimTo (aim : Bool) (e : Ev) : SameFaults e.st (e.aimTo aim).st := by
  unfold Ev.aimTo
  split
  · exact .refl _
  · exact faults_liftDecide .auto (e.on fun s => s.setAim aim)

theorem faults_overloadTest (e : Ev) : SameFaults e.st e.overloadTest.st := by
  unfold Ev.overloadTest
  split
  · exact faults_aimTo false e
  · exact .refl _

theorem faults_settledLoad (sd : Side) (e : Ev) : SameFaults e.st (e.settledLoad sd).st := by
  unfold Ev.settledLoad
  split
  · exact .refl _
  · split
    · exact .refl _
    · dsimp only
      split
      · rfl
      · refine SameFaults.trans ?_ (faults_overloadTest _)
        exact (loadFollow_law _ (e.on fun s => { s with
          llu.load := s.llu.load.set sd (some (sideLoad _ e.st.ws.lf)), llu.fresh := s.llu.fresh.set sd (s.timer freshnessTime) })).2.faults

theorem faults_firstLft (e : Ev) : SameFaults e.st e.firstLft.st := by
  unfold Ev.firstLft
  split
  · exact .refl _
  · exact faults_setLift _ _

theorem faults_lftArrival (e : Ev) : SameFaults e.st e.lftArrival.st := (faults_firstLft e).trans (faults_liftDecide .auto _)

theorem asked_tyreLoop (u : Tyre) (e : Ev) : Asked e.st (e.tyreLoop u).st := by
  have tested (s : State) : Asked s (s.tyreDeadbandTest u) := by
    unfold State.tyreDeadbandTest
    dsimp only
    split
    · exact .refl s
    · split <;> rfl
  unfold Ev.tyreLoop
  split
  · dsimp only
    split
    · split
      · exact Asked.trans (t := e.st.setTyrePending u false) rfl (tested _)
      · exact asked_askTyre u e
    · exact .refl _
    · exact tested _
  · exact .refl _

theorem faults_openWindow (s : State) (g : Nat) : SameFaults s (s.openWindow g) := by
  unfold State.openWindow
  split <;> rfl

theorem faults_supplyReading (s : State) (g : Nat) : SameFaults s (s.supplyReading g) := by
  unfold State.supplyReading
  split
  · split
    · split
      · rfl
      · split <;> rfl
    · exact faults_openWindow s g
  · split
    · split
      · rfl
      · split
        · exact faults_openWindow { s with aac.supply := true, aac.recovery := none } g
        · rfl
    · rfl

theorem faults_supplyArrival (s : State) : SameFaults s s.supplyArrival := by
  unfold State.supplyArrival
  dsimp only
  split
  · exact faults_supplyReading s.reportHeadroom _
  · rfl

theorem faults_rsvArrival (e : Ev) : SameFaults e.st e.rsvArrival.st := by
  unfold Ev.rsvArrival
  dsimp only
  split
  · rw [Ev.trigger_st]
    exact (ended_floorTest e).faults
  · exact (ended_floorTest e).faults

/-- What an arrival's receivers do before the sensor fault leaves the fault flags alone. -/
theorem pressureReceivers_faults (n : Node) (e : Ev) : ∃ w : Ev, e.pressureReceivers n = w.sensorFault n ∧ SameFaults e.st w.st := by
  have tyre (u : Tyre) : SameFaults e.st (((e.tyreLoop u).pressureEnds u.managed).watch u.node).st :=
    (asked_tyreLoop u e).faults.trans ((ended_pressureEnds _ _).faults.trans (ended_watch _ _).faults)
  have bellows (sd : Side) : SameFaults e.st (((e.settledLoad sd).pressureEnds sd.bellows).watch sd.bellows.node).st :=
    (faults_settledLoad sd e).trans ((ended_pressureEnds _ _).faults.trans (ended_watch _ _).faults)
  cases n with
  | rsv => exact ⟨_, rfl, ((faults_supplyArrival e.st).trans (faults_rsvArrival (e.on State.supplyArrival))).trans (ended_watch _ _).faults⟩
  | bll => exact ⟨_, rfl, bellows .left⟩
  | blr => exact ⟨_, rfl, bellows .right⟩
  | lft => exact ⟨_, rfl, (faults_lftArrival e).trans ((ended_pressureEnds _ _).faults.trans (ended_watch _ _).faults)⟩
  | t1l => exact ⟨_, rfl, tyre .t1l⟩
  | t1r => exact ⟨_, rfl, tyre .t1r⟩
  | t2l => exact ⟨_, rfl, tyre .t2l⟩
  | t2r => exact ⟨_, rfl, tyre .t2r⟩
  | t3l => exact ⟨_, rfl, tyre .t3l⟩
  | t3r => exact ⟨_, rfl, tyre .t3r⟩

/-! ### The fault (R136, R137) -/

theorem flagFault_flags (n : Node) (e : Ev) : (e.flagFault n).st.faulted n = true ∧ LatchedAll (e.flagFault n).st .nodeFault [n] := by
  refine ⟨?_, latched_latch _ _ _⟩
  unfold Ev.flagFault State.faulted State.resetMonitorOf
  rw [Ev.latch_st, Ev.on_st]
  dsimp only
  split
  · exact PerNode.get_set _ _ _
  · exact PerNode.get_set _ _ _

/-- A fault of a node that is not faulted: its flag is set and NODE_FAULT is latched naming it. -/
theorem faultNode_flags {n : Node} {e : Ev} (sound : e.st.faulted n = false) :
    (e.faultNode n).st.faulted n = true ∧ LatchedAll (e.faultNode n).st .nodeFault [n] := by
  obtain ⟨flagged, latched⟩ := flagFault_flags n e
  unfold Ev.faultNode
  rw [if_neg (by rw [sound]; exact Bool.false_ne_true)]
  dsimp only
  split
  · next m _ =>
    have grows := (grows_faultDescriptor false m (e.flagFault n)).trans (grows_faultOwner false m _)
    exact ⟨grows.faults rfl n flagged, latched.grows grows⟩
  · exact ⟨flagged, latched⟩

theorem endRound_evu (s : State) : s.endRound.spu = s.spu ∧ s.endRound.evu.latches = s.evu.latches := by
  rw [State.endRound_eq]
  exact ⟨rfl, rfl⟩

/-- Settles O17. -/
theorem sensorFaultFlagsNode : Obligations.SensorFaultFlagsNode := by
  intro s n x run sound invalid nearly
  refine ⟨_, exec_pressureArrival run n x, ?_⟩
  obtain ⟨w, handed, faults⟩ := pressureReceivers_faults n ((Ev.of s).on fun s => s.takePressure n x)
  have msu : w.st.msu = (s.takePressure n x).msu := by
    obtain ⟨_, _, _, _, _, _, received⟩ := s.pressured_fixed n x
    rw [show (s.pressured n x) = w.sensorFault n from handed, Ev.sensorFault_fixed] at received
    exact congrArg Fixed.msu received
  have reached : w.sensorFault n = w.faultNode n := by
    refine if_pos ?_
    rw [msu, State.takePressure_msu]
    dsimp only
    rw [PerNode.get_modify]
    unfold Reading.after
    rw [if_neg]
    · show min 10 _ = 10
      omega
    · rw [pressureValid_iff]
      rintro ⟨band, low, high⟩
      rcases invalid with out | under | above
      · exact Bool.false_ne_true (out.symm.trans band)
      · omega
      · omega
  have flags := faultNode_flags (n := n) (e := w) (by
    show w.st.spu.faults.get n = false
    rw [show w.st.spu.faults = s.spu.faults from faults]
    exact sound)
  rw [show s.pressured n x = w.faultNode n from handed.trans reached]
  obtain ⟨spu, latches⟩ := endRound_evu (w.faultNode n).st
  have grows := grows_close false none ((w.faultNode n).on State.endRound)
  refine ⟨grows.faults rfl n ?_, LatchedAll.grows ?_ grows⟩
  · show (w.faultNode n).st.endRound.spu.faults.get n = true
    rw [spu]
    exact flags.1
  · show ∀ m, LatchSet.holds ((w.faultNode n).st.endRound.evu.latches.get m) _ _
    rw [latches]
    exact flags.2

end Sys2Proof.Machine
end

section
/-! SUPPORT. FAULT_CLEAR (O43): the flags it clears and the galleries it leaves. -/

set_option Elab.async false

namespace Sys2Proof.Machine

/-! ### FAULT_CLEAR (R139, R140) -/

theorem resetMonitorOf_glc (s : State) (n : Node) : (s.resetMonitorOf n).glc = s.glc ∧ (s.resetMonitorOf n).spu.faults = s.spu.faults := by
  unfold State.resetMonitorOf
  split <;> exact ⟨rfl, rfl⟩

theorem liftDecide_still (o : Origin) (e : Ev) : (e.liftDecide o).1.st.glc = e.st.glc ∧ (e.liftDecide o).1.st.spu.faults = e.st.spu.faults :=
  ⟨liftDecide_glc o e, faults_liftDecide o e⟩

theorem clearFault_flags (n : Node) (e : Ev) :
    (e.clearFault n).st.glc = e.st.glc ∧ (e.clearFault n).st.spu.faults = e.st.spu.faults.set n false := by
  obtain ⟨glc, faults⟩ := resetMonitorOf_glc { e.st with spu.faults := e.st.spu.faults.set n false } n
  unfold Ev.clearFault
  dsimp only
  split
  · have lift := liftDecide_still .auto
      ((Ev.triggerBoth (e.on fun s => State.resetMonitorOf { s with spu.faults := s.spu.faults.set n false } n)).on State.liftTimerTest)
    rw [Ev.on_st, Ev.triggerBoth_st, Ev.on_st] at lift
    split
    · rw [Ev.on_st, Ev.triggerBoth_st]
      exact ⟨glc, faults⟩
    · rw [Ev.on_st, Ev.triggerBoth_st]
      exact ⟨glc, faults⟩
    · exact ⟨lift.1.trans glc, lift.2.trans faults⟩
    · rw [Ev.triggerBoth_st]
      exact ⟨glc, faults⟩
  · exact ⟨glc, faults⟩

theorem clearFaults_flags (ns : List Node) (e : Ev) :
    (Ev.clearFaults ns e).st.glc = e.st.glc ∧ ∀ m, (Ev.clearFaults ns e).st.faulted m = (e.st.faulted m && !ns.contains m) := by
  induction ns generalizing e with
  | nil => exact ⟨rfl, fun m => (Bool.and_true _).symm⟩
  | cons n ns ih =>
    obtain ⟨glc, faults⟩ := clearFault_flags n e
    obtain ⟨glc', rest⟩ := ih (e.clearFault n)
    refine ⟨glc'.trans glc, fun m => (rest m).trans ?_⟩
    unfold State.faulted
    rw [faults, PerNode.get_set_if]
    by_cases same : m = n
    · rw [if_pos same, same]
      simp
    · rw [if_neg same]
      simp [same]

theorem ofNumber_number (n : Node) : Node.ofNumber n.number = some n := by
  cases n <;> rfl

theorem ofNumber_beyond {k : Nat} (beyond : k = 0 ∨ 10 < k) : Node.ofNumber k = none := by
  refine Option.eq_none_iff_forall_ne_some.mpr fun n named => ?_
  unfold Node.ofNumber at named
  split at named <;> cases named <;> omega

theorem exists_node_number {k : Nat} (low : 1 ≤ k) (high : k ≤ 10) : ∃ n : Node, n.number = k := by
  interval_cases k
  exacts [⟨.rsv, rfl⟩, ⟨.bll, rfl⟩, ⟨.blr, rfl⟩, ⟨.lft, rfl⟩, ⟨.t1l, rfl⟩, ⟨.t1r, rfl⟩, ⟨.t2l, rfl⟩, ⟨.t2r, rfl⟩, ⟨.t3l, rfl⟩, ⟨.t3r, rfl⟩]

theorem Node.number_inj {m n : Node} (same : m.number = n.number) : m = n :=
  Option.some.inj ((ofNumber_number m).symm.trans ((congrArg Node.ofNumber same).trans (ofNumber_number n)))

theorem clearTargets_all : clearTargets 255 = some Node.list := rfl

theorem clearTargets_node {node : Byte} {n : Node} (names : n.number = node.toNat) : clearTargets node = some [n] := by
  unfold clearTargets
  rw [← names, ofNumber_number]
  exact if_neg (by cases n <;> decide)

theorem clearTargets_none {node : Byte} (beyond : node = 0 ∨ (10 < node.toNat ∧ node.toNat < 255)) : clearTargets node = none := by
  unfold clearTargets
  rcases beyond with rfl | ⟨low, high⟩
  · rfl
  · rw [if_neg (by omega), ofNumber_beyond (Or.inr low)]
    rfl

/-- The nodes that an accepted FAULT_CLEAR names, and which flags it leaves (R139). -/
theorem clearTargets_some {node : Byte} (names : 1 ≤ node.toNat ∧ node.toNat ≤ 10 ∨ node = 255) :
    ∃ ns, clearTargets node = some ns ∧ ∀ n : Node, (!ns.contains n) = (node != 255 && decide (n.number ≠ node.toNat)) := by
  rcases names with ⟨low, high⟩ | rfl
  · obtain ⟨n, number⟩ := exists_node_number low high
    refine ⟨[n], clearTargets_node number, fun m => ?_⟩
    have one : (node != 255) = true := by
      rw [bne_iff_ne]
      rintro rfl
      revert high
      decide
    rw [one, Bool.true_and, ← number]
    by_cases same : m = n
    · subst same
      simp
    · have differ : m.number ≠ n.number := fun eq => same (Node.number_inj eq)
      simp [same, differ]
  · exact ⟨_, clearTargets_all, fun n => by cases n <;> rfl⟩

theorem Queued.faults {s t : State} (q : Queued s t) : t.spu.faults = s.spu.faults := by
  rw [show t = _ from q]

/-- Settles O43: the handler moves no gallery, so between busy galleries no scan touches the flags it leaves. -/
theorem faultClearClearsFlags : Obligations.FaultClearClearsFlags := by
  intro s h node p c r
  have still : (Ev.of r).st.speedState = s.speedState := heard_speedState s h c
  refine ⟨fun beyond => ?_, fun names moving => ?_, fun names standing => ?_⟩
  · have none := clearTargets_none beyond
    refine congrArg Host.Outcome.next (p.same c (Ev.faultClear node) rfl ?_)
    unfold Ev.faultClear
    rw [none]
  · obtain ⟨ns, some, -⟩ := clearTargets_some names
    refine congrArg Host.Outcome.next (p.same c (Ev.faultClear node) rfl ?_)
    unfold Ev.faultClear
    rw [some]
    exact if_neg (fun stands => moving (still.symm.trans stands))
  · obtain ⟨ns, some, left⟩ := clearTargets_some names
    have handled : Ev.faultClear node (Ev.of r) = (Ev.clearFaults ns (Ev.of r), .plain) := by
      unfold Ev.faultClear
      rw [some]
      exact if_pos (still.trans standing)
    obtain ⟨glc, flags⟩ := clearFaults_flags ns (Ev.of r)
    have fixed := p.fixed c (Ev.faultClear node) noFrame
    have link := p.link c (Ev.faultClear node) noFrame
    rw [show Ev.of (s.heard h c) = Ev.of r from rfl, handled] at fixed link
    refine ⟨_, rfl, fixed.trans ?_, ?_, fun busy n => ?_⟩
    · rw [Ev.clearFaults_fixed]
      rfl
    · unfold SameLink at link ⊢
      have kept : (Ev.clearFaults ns (Ev.of r)).st.lku = r.lku := congrArg Fixed.lku (Ev.clearFaults_fixed ns (Ev.of r))
      rwa [kept] at link
    · have queued := p.queued_noGrant c (Ev.faultClear node) rfl (by
        rw [show Ev.of (s.heard h c) = Ev.of r from rfl, handled]
        exact (busy.galleries (congrArg Glc.galleries (glc.trans (heard_glc s h c)))).noGrant)
      rw [show Ev.of (s.heard h c) = Ev.of r from rfl, handled] at queued
      unfold State.faulted
      rw [queued.faults]
      exact (flags n).trans (congrArg₂ (· && ·) (heard_faulted s h c n) (left n) |>.trans (Bool.and_assoc _ _ _).symm)

end Sys2Proof.Machine
end

section
/-! SUPPORT. STOP (O41): what a cut of a gallery's step does to the live list. -/

set_option Elab.async false

namespace Sys2Proof.Machine

theorem Safe.whole {s : State} (safe : Safe s) : Whole none s :=
  Whole.of_parts safe.pool safe.nodes safe.shaped safe.coupled safe.valves

/-! ### A change of each live transfer in its place -/

/-- A live record with a transfer's descriptor changed. -/
def LiveRec.on (f : Desc → Desc) : LiveRec → LiveRec
  | .transfer d => .transfer (f d)
  | .point p => .point p

theorem map_on_on (f g : Desc → Desc) (l : List LiveRec) : (l.map (LiveRec.on f)).map (LiveRec.on g) = l.map (LiveRec.on fun d => g (f d)) := by
  rw [List.map_map]
  refine List.map_congr_left fun r _ => ?_
  cases r <;> rfl

theorem map_on_congr {s : State} {f g : Desc → Desc} (same : ∀ d ∈ s.transfers, f d = g d) :
    s.dqm.live.map (LiveRec.on f) = s.dqm.live.map (LiveRec.on g) := by
  refine List.map_congr_left fun r mem => ?_
  cases r with
  | transfer d => exact congrArg LiveRec.transfer (same d (State.mem_transfers.2 mem))
  | point p => rfl

theorem map_on_id {s : State} {f : Desc → Desc} (same : ∀ d ∈ s.transfers, f d = d) : s.dqm.live.map (LiveRec.on f) = s.dqm.live := by
  rw [map_on_congr (g := id) same]
  exact (List.map_congr_left fun r _ => by cases r <;> rfl).trans (List.map_id _)

theorem modDesc_live (s : State) (id : Nat) (f : Desc → Desc) :
    (s.modDesc id f).dqm.live = s.dqm.live.map (LiveRec.on fun d => if d.id = id then f d else d) :=
  List.map_congr_left fun r _ => by cases r <;> rfl

/-! ### Cuts (R92) -/

/-- A descriptor with its valves shut, where a test picks it and they are open. -/
def Desc.shutIf (test : Desc → Bool) (d : Desc) : Desc := if test d = true ∧ d.state.airMoves = true then { d with state := .closing } else d

/-- The test of a gallery. -/
def Desc.onGallery (g : Gallery) (d : Desc) : Bool := d.kind.gallery == g

/-- A step's end closes the one descriptor of the gallery whose valves are open, in its place, and moves nothing else but the gallery. -/
theorem endStep_live {s : State} (w : Whole none s) (g : Gallery) (r : EndReason) :
    s.endStep g r = { s with
      glc := { (s.endStep g r).glc with stop := s.glc.stop }, dqm.live := s.dqm.live.map (LiveRec.on (Desc.shutIf (Desc.onGallery g))) } := by
  have flies {d : Desc} (mem : d ∈ s.transfers) (here : d.kind.gallery = g) (air : d.state.airMoves = true) : s.served g = some d := by
    rw [← here]
    exact w.served_of mem (by rintro eq; rw [eq] at air; cases air) nofun
  by_cases moving : ∃ d, s.served g = some d ∧ d.state.airMoves = true
  · obtain ⟨d, served, air⟩ := moving
    obtain ⟨mem, gallery, -⟩ := w.of_served served
    have live : s.dqm.live.map (LiveRec.on (Desc.shutIf (Desc.onGallery g))) =
        s.dqm.live.map (LiveRec.on fun x => if x.id = d.id then { x with state := .closing } else x) := by
      refine map_on_congr fun x inLive => ?_
      by_cases one : x.id = d.id
      · obtain rfl := w.unique inLive mem one
        exact (if_pos ⟨beq_iff_eq.2 gallery, air⟩).trans (if_pos rfl).symm
      · refine (if_neg ?_).trans (if_neg one).symm
        rintro ⟨here, open_⟩
        exact one (congrArg Desc.id (Option.some.inj ((flies inLive (beq_iff_eq.1 here) open_).symm.trans served)))
    rw [live, State.endStep_eq r served air, ← modDesc_live]
    rfl
  · have idle : s.endStep g r = s := State.endStep_idle r fun d served => Bool.eq_false_iff.2 fun air => moving ⟨d, served, air⟩
    have live : s.dqm.live.map (LiveRec.on (Desc.shutIf (Desc.onGallery g))) = s.dqm.live :=
      map_on_id fun d mem => if_neg fun ⟨here, air⟩ => moving ⟨d, flies mem (beq_iff_eq.1 here) air, air⟩
    rw [idle, live]

theorem shutIf_still {d : Desc} (test : Desc → Bool) (still : d.state.airMoves = false) : d.shutIf test = d :=
  if_neg fun ⟨_, air⟩ => by rw [still] at air; cases air

theorem shutIf_moving {d : Desc} {test : Desc → Bool} (picked : test d = true) (air : d.state.airMoves = true) :
    d.shutIf test = { d with state := .closing } := if_pos ⟨picked, air⟩

theorem shutIf_other {d : Desc} {test : Desc → Bool} (other : test d ≠ true) : d.shutIf test = d := if_neg fun ⟨picked, _⟩ => other picked

/-- The two galleries' cuts together pick every descriptor. -/
theorem shutIf_galleries (d : Desc) : (d.shutIf (Desc.onGallery .a)).shutIf (Desc.onGallery .b) = d.shutIf fun _ => true := by
  by_cases air : d.state.airMoves = true
  · rw [shutIf_moving (test := fun _ => true) rfl air]
    by_cases onA : d.onGallery .a = true
    · rw [shutIf_moving onA air]
      exact shutIf_still _ rfl
    · rw [shutIf_other onA]
      refine shutIf_moving ?_ air
      unfold Desc.onGallery at *
      cases here : d.kind.gallery with
      | a => exact absurd (beq_iff_eq.2 here) onA
      | b => rfl
  · rw [shutIf_still _ (Bool.eq_false_iff.2 air), shutIf_still _ (Bool.eq_false_iff.2 air), shutIf_still _ (Bool.eq_false_iff.2 air)]

theorem shutIf_every (d : Desc) : (d.shutIf fun _ => true) = if d.state.airMoves = true then { d with state := .closing } else d := by
  by_cases air : d.state.airMoves = true
  · exact (shutIf_moving rfl air).trans (if_pos air).symm
  · exact (shutIf_still _ (Bool.eq_false_iff.2 air)).trans (if_neg air).symm

/-- A cut of every step of a gallery is its end with CUT. -/
theorem cutIf_all (s : State) (g : Gallery) : s.cutIf g (fun _ => true) = s.endStep g .cut := by
  unfold State.cutIf
  cases served : s.served g with
  | none => exact (State.endStep_idle .cut fun d some => absurd (served.symm.trans some) nofun).symm
  | some d => rfl

/-- A cut of every step closes each descriptor whose valves are open (R92). -/
theorem cutBoth_all {s : State} (w : Whole none s) :
    s.cutBoth (fun _ => true) = { s with
      glc := { (s.cutBoth fun _ => true).glc with stop := s.glc.stop }, dqm.live := s.dqm.live.map (LiveRec.on (Desc.shutIf fun _ => true)) } := by
  unfold State.cutBoth
  rw [cutIf_all, cutIf_all]
  have first := endStep_live w .a .cut
  have whole := (endStep_law s .a .cut none w).1
  have second := endStep_live whole .b .cut
  generalize s.endStep .a .cut = t at *
  rw [second]
  generalize (t.endStep .b .cut).glc = glc
  rw [first]
  dsimp only
  rw [map_on_on, map_on_congr (g := Desc.shutIf fun _ => true)]
  intro d _
  exact shutIf_galleries d

/-- With no step's valves open every output is de-energised (R3, R88). -/
theorem valves_off {s : State} (w : Whole none s) (still : AirStill s fun _ => true) : s.glc.valves = Valves.off := by
  have closed (g : Gallery) : s.glc.valves.anyOpen g = false := Bool.eq_false_iff.2 fun isOpen => by
    obtain ⟨d, mem, -, air⟩ := w.valves g isOpen
    exact absurd (still d mem rfl) (by rw [air]; decide)
  obtain ⟨rsv, a⟩ := Bool.or_eq_false_iff.1 (closed .a)
  obtain ⟨exhaust, b⟩ := Bool.or_eq_false_iff.1 (closed .b)
  rw [bne_eq_false_iff_eq] at a b
  show Valves.mk _ _ _ _ = Valves.mk _ _ _ _
  rw [rsv, exhaust, a, b]

/-! ### STOP (R96) -/

theorem StopSet.put_true (x : StopSet) (m : Master) : x.put m true = ⟨x.cab || m == .cab, x.panel || m == .panel⟩ := by
  obtain ⟨cab, panel⟩ := x
  cases m <;> cases cab <;> cases panel <;> rfl

/-- Settles O41: with the stop set moved, a cut of every step in a whole state. -/
theorem stopCutsSteps : Obligations.StopCutsSteps := by
  intro s h p safe c r
  have heard : Whole none r := ((SameRecords.aside (heard_dqm s h c) (heard_glc s h c)).quiet none safe.whole).1
  have set : Whole none { r with glc.stop := r.glc.stop.put h.sender true } :=
    ((SameRecords.mk rfl rfl (fun _ => rfl) rfl : SameRecords r { r with glc.stop := r.glc.stop.put h.sender true }).quiet none heard).1
  have cut := cutBoth_all set
  have off := valves_off ((quiet_cutBoth _ _ none) set).1 (cutBoth_still _ steady_true set)
  refine ⟨_, _, rfl, p.onto c (Ev.stopAll h.sender) rfl (fun s => State.cutBoth { s with glc.stop := s.glc.stop.put h.sender true } fun _ => true) rfl, ?_⟩
  generalize State.cutBoth { r with glc.stop := r.glc.stop.put h.sender true } (fun _ => true) = u at *
  have stop : u.glc.stop = s.glc.stop.put h.sender true := by
    rw [cut]
    exact congrArg (StopSet.put · h.sender true) (congrArg Glc.stop (heard_glc s h c))
  have dqm : u.dqm = { s.dqm with live := s.dqm.live.map (LiveRec.on (Desc.shutIf fun _ => true)) } := by
    rw [cut]
    exact congrArg (fun q : Dqm => { q with live := q.live.map (LiveRec.on (Desc.shutIf fun _ => true)) }) (heard_dqm s h c)
  rw [StopSet.put_true] at stop
  refine ⟨?_, congrArg StopSet.cab stop, congrArg StopSet.panel stop, off, (congrArg Dqm.free dqm :), (congrArg Dqm.starve dqm :), ?_⟩
  · rw [cut]
  · rw [dqm]
    refine List.map_congr_left fun l _ => ?_
    cases l with
    | transfer d => exact congrArg LiveRec.transfer (shutIf_every d)
    | point p => rfl

end Sys2Proof.Machine
end

section
/-! SUPPORT. The end of CLOSING and of SETTLING (O39, O40): the gallery that a finished step leaves, and a descriptor freed or requeued. -/

set_option Elab.async false

namespace Sys2Proof.Machine

/-! ### A finished step and a freed transfer -/

/-- A gallery's record in IDLE (R75, R98). -/
def GalleryRec.idled (x : GalleryRec) : GalleryRec := { x with flight := none, openT := none, stepT := none, closeT := none, settleT := none }

/-- The readings, the records and the galleries of a state are those of another. -/
structure SameDeck (s t : State) : Prop where
  msu : t.msu = s.msu
  dqm : t.dqm = s.dqm
  glc : t.glc = s.glc

theorem SameDeck.trans {s t u : State} (h : SameDeck s t) (k : SameDeck t u) : SameDeck s u :=
  ⟨k.msu.trans h.msu, k.dqm.trans h.dqm, k.glc.trans h.glc⟩

theorem sameDeck_resetMonitorOf (s : State) (n : Node) : SameDeck s (s.resetMonitorOf n) := by
  unfold State.resetMonitorOf
  split <;> exact ⟨rfl, rfl, rfl⟩

theorem sameDeck_resetMonitors (ms : List Managed) (s : State) : SameDeck s (s.resetMonitors ms) := by
  induction ms generalizing s with
  | nil => exact ⟨rfl, rfl, rfl⟩
  | cons m ms ih => exact (sameDeck_resetMonitorOf s m.node).trans (ih _)

theorem finishStep_deck (g : Gallery) (e : Ev) : SameDeck (e.st.modGallery g GalleryRec.idled) (e.finishStep g).st := by
  unfold Ev.finishStep
  rw [Ev.trigger_st, Ev.on_st]
  dsimp only
  split
  · exact ⟨rfl, rfl, rfl⟩
  · next d _ =>
    have reset := sameDeck_resetMonitors d.nodes (e.st.modGallery g GalleryRec.idled)
    split
    · exact reset.trans ⟨rfl, rfl, rfl⟩
    · exact reset

theorem sameDeck_beaconSync (s : State) : SameDeck s s.beaconSync ∧ s.beaconSync.evu.activeSteps = s.evu.activeSteps := by
  unfold State.beaconSync
  split
  · exact ⟨⟨rfl, rfl, rfl⟩, rfl⟩
  · split <;> exact ⟨⟨rfl, rfl, rfl⟩, rfl⟩

theorem leaveClosing_deck (s : State) (c : Cls) : SameDeck s (s.leaveClosing c) := by
  unfold State.leaveClosing State.stepCloses
  split
  · have sync := (sameDeck_beaconSync { s with evu.activeSteps := s.evu.activeSteps - 1 }).1
    exact ⟨sync.msu, sync.dqm, sync.glc⟩
  · exact ⟨rfl, rfl, rfl⟩

theorem leaveClosing_steps (s : State) (c : Cls) :
    (s.leaveClosing c).evu.activeSteps = if c = .tyre then s.evu.activeSteps else s.evu.activeSteps - 1 := by
  unfold State.leaveClosing State.stepCloses
  cases c with
  | tyre => rfl
  | height => exact (sameDeck_beaconSync _).2
  | lift => exact (sameDeck_beaconSync _).2

/-- The records once a transfer is freed and the points are tested (R63, R68). -/
def Dqm.freed (q : Dqm) (id : Nat) : Dqm :=
  { q with live := (retireWalk false false (q.live.filter fun l => l.id != id)).1
           free := q.free ++ id :: (retireWalk false false (q.live.filter fun l => l.id != id)).2 }

theorem dropTransfer_st (d : Desc) (x : Ending) (e : Ev) : (e.dropTransfer d x).st = e.st.unlink d.id := by
  unfold Ev.dropTransfer
  split
  · rfl
  · rw [Ev.on_st, Ev.endReports_st]

theorem unlinkTransfer_st (d : Desc) (x : Ending) (e : Ev) : (e.unlinkTransfer d x).st = { e.st with dqm := e.st.dqm.freed d.id } := by
  unfold Ev.unlinkTransfer
  rw [testPoints_st, dropTransfer_st]
  unfold State.unlink Dqm.freed
  dsimp only
  rw [List.append_assoc, List.singleton_append]

/-- A tyre or height transfer freed moves the records alone: its loop acts at its next reading (R63). -/
theorem freeTransfer_st {d : Desc} (plain : d.cls ≠ .lift) (x : Ending) (e : Ev) :
    (e.freeTransfer d x).st = { e.st with dqm := e.st.dqm.freed d.id } := by
  unfold Ev.freeTransfer Ev.ownerFreed
  cases cls : d.cls with
  | lift => exact absurd cls plain
  | tyre => exact unlinkTransfer_st d x e
  | height => exact unlinkTransfer_st d x e

theorem freed_transfers (s : State) (id : Nat) : State.transfers { s with dqm := s.dqm.freed id } = s.transfers.filter fun d => d.id != id :=
  (retireWalk_transfers _ _ _).trans (State.unlink_transfers s id)

/-- A freed step: its transfer is off the live list and its gallery is IDLE. -/
theorem finished_freed {d : Desc} (plain : d.cls ≠ .lift) (x : Ending) (g : Gallery) (e : Ev) :
    let t := ((e.finishStep g).freeTransfer d x).st
    t.dqm = e.st.dqm.freed d.id ∧ t.glc = { e.st.glc with galleries := e.st.glc.galleries.modify g GalleryRec.idled } := by
  have deck := finishStep_deck g e
  rw [freeTransfer_st plain]
  dsimp only
  rw [deck.dqm, deck.glc]
  exact ⟨rfl, rfl⟩

/-- With none queued a scan finds nothing to grant. -/
theorem noGrant_of_none_queued {s t : State} {id : Nat} (none : ∀ d ∈ s.transfers, d.state ≠ .queued) (freed : t.dqm = s.dqm.freed id) : NoGrant t := by
  intro d mem queued
  have same : t.transfers = s.transfers.filter fun d => d.id != id := (congrArg (fun q => State.transfers { s with dqm := q }) freed).trans (freed_transfers s id)
  rw [same] at mem
  exact absurd queued (none d (List.mem_filter.1 mem).1)

/-- An event that leaves nothing to grant ends with queueing alone. -/
theorem event_noGrant {f : Ev → Ev} {s : State} (run : s.sts.phase ≠ .reset) (n : NoGrant (f (Ev.of s)).st) : Queued (f (Ev.of s)).st (event f s) := by
  rw [event_run run, close_noGrant none _ n]
  exact queued_enqueueAll _ _

theorem Queued.galleries {s t : State} (q : Queued s t) : t.dqm = s.dqm ∧ t.glc = s.glc ∧ t.evu.activeSteps = s.evu.activeSteps := by
  rw [show t = _ from q]
  exact ⟨rfl, rfl, rfl⟩

/-! ### CLOSE_TIMER_EXPIRY (R88) -/

theorem servedIn_of {s : State} {g : Gallery} {d : Desc} (served : s.served g = some d) (x : DescState) (state : d.state = x) : s.servedIn g x = some d := by
  unfold State.servedIn
  rw [served]
  exact if_pos state

theorem servedIn_none {s : State} {g : Gallery} {x : DescState} (other : s.galleryState g ≠ some x) : s.servedIn g x = none := by
  unfold State.servedIn
  unfold State.galleryState at other
  cases served : s.served g with
  | none => rfl
  | some d =>
    rw [served] at other
    exact if_neg fun state => other (congrArg some state)

theorem closeExpiry_still {g : Gallery} {e : Ev} (still : (e.st.glc.galleries.get g).closeT = none ∨ e.st.galleryState g ≠ some .closing) :
    e.closeExpiry g = e := by
  unfold Ev.closeExpiry
  rcases still with stopped | other
  · rw [stopped]
  · rw [servedIn_none other]
    split
    · next found => cases found
    · rfl

/-- CLOSING becomes SETTLING (R88). -/
def State.intoSettling (s : State) (g : Gallery) (d : Desc) : State :=
  (s.modGallery g fun x => { x with closeT := none, settleT := s.timer (s.ws.settle.get d.cls) }).modDesc d.id fun d => { d with state := .settling }

theorem intoSettling_gallery (s : State) (g : Gallery) (d : Desc) :
    (s.intoSettling g d).glc.galleries.get g =
      { s.glc.galleries.get g with closeT := none, settleT := some ⟨s.now, s.ws.settle.get d.cls⟩ } := by
  unfold State.intoSettling
  rw [State.modDesc_glc, State.modGallery_glc]
  exact PerGallery.get_modify _ _ _

section closing
variable {g : Gallery} {e : Ev} {d : Desc} (running : (e.st.glc.galleries.get g).closeT ≠ none) (closing : e.st.servedIn g .closing = some d)
include running closing

theorem closeExpiry_torn {y : TornBy} (torn : d.torn = some y) :
    e.closeExpiry g = ((e.on fun s => s.leaveClosing d.cls).finishStep g).freeTransfer d y.ending := by
  obtain ⟨x, timer⟩ := Option.ne_none_iff_exists'.1 running
  unfold Ev.closeExpiry
  rw [timer, closing]
  dsimp only
  rw [torn]

theorem closeExpiry_settles (whole : d.torn = none) :
    e.closeExpiry g = (e.on fun s => s.leaveClosing d.cls).on fun s => s.intoSettling g d := by
  obtain ⟨x, timer⟩ := Option.ne_none_iff_exists'.1 running
  unfold Ev.closeExpiry
  rw [timer, closing]
  dsimp only
  rw [whole]
  rfl

end closing

/-- Settles O39. -/
theorem closeTimerSettles : Obligations.CloseTimerSettles := by
  intro s g run
  refine ⟨fun still => congrArg Host.Outcome.next (event_same run (closeExpiry_still still)), fun d served running state => ?_⟩
  have closing := servedIn_of served .closing state
  refine ⟨_, rfl, ?_, ?_, fun whole => ?_, fun torn plain none => ?_⟩
  · rw [event_fixed run, Ev.closeExpiry_fixed]
    rfl
  · exact event_link run (congrArg Fixed.lku (Ev.closeExpiry_fixed g (Ev.of s)))
  · have deck := leaveClosing_deck s d.cls
    have steps := leaveClosing_steps s d.cls
    have fixed := State.leaveClosing_fixed s d.cls
    have gallery := intoSettling_gallery (s.leaveClosing d.cls) g d
    have now : (s.leaveClosing d.cls).now = s.now := congrArg Fixed.now fixed
    have ws : (s.leaveClosing d.cls).ws = s.ws := congrArg (fun f => f.sts.ws) fixed
    rw [now, ws] at gallery
    rw [event_eq run (t := (s.leaveClosing d.cls).intoSettling g d) (closeExpiry_settles running closing whole), gallery]
    refine ⟨rfl, rfl, ?_, (congrArg Glc.valves deck.glc :), steps⟩
    exact congrArg (fun q => (State.modDesc { s with dqm := q } d.id fun d => { d with state := .settling }).dqm) deck.dqm
  · obtain ⟨y, torn⟩ := Option.ne_none_iff_exists'.1 torn
    have handled := closeExpiry_torn (e := Ev.of s) running closing torn
    obtain ⟨dqm, glc⟩ := finished_freed plain y.ending g ((Ev.of s).on fun s => s.leaveClosing d.cls)
    have deck := leaveClosing_deck s d.cls
    rw [Ev.on_st, Ev.of_st] at dqm glc
    rw [deck.dqm] at dqm
    rw [deck.glc] at glc
    rw [← handled] at dqm glc
    obtain ⟨dqm', glc', -⟩ := (event_noGrant run (noGrant_of_none_queued none dqm)).galleries
    rw [dqm', glc', dqm, glc]
    exact ⟨rfl, rfl, PerGallery.get_modify _ _ _⟩

end Sys2Proof.Machine
end

section
/-! SUPPORT. The evaluation after a step (O40): a met goal is freed, a pending goal is applied, and a stop withholds every grant. -/

set_option Elab.async false

namespace Sys2Proof.Machine

/-! ### SETTLE_EXPIRY (R89) -/

theorem settleExpiry_still {g : Gallery} {e : Ev} (still : (e.st.glc.galleries.get g).settleT = none ∨ e.st.galleryState g ≠ some .settling) :
    e.settleExpiry g = e := by
  unfold Ev.settleExpiry
  dsimp only
  rcases still with stopped | other
  · rw [stopped]
  · rw [servedIn_none other]
    split
    · next found => cases found
    · rfl

theorem settleExpiry_evaluates {g : Gallery} {e : Ev} {d : Desc} (running : (e.st.glc.galleries.get g).settleT ≠ none)
    (settling : e.st.servedIn g .settling = some d) :
    e.settleExpiry g = (e.finishStep g).evaluate d.id ((e.st.glc.galleries.get g).flight.bind Flight.ending) := by
  obtain ⟨x, timer⟩ := Option.ne_none_iff_exists'.1 running
  unfold Ev.settleExpiry
  dsimp only
  rw [timer, settling]

/-- The descriptor that a gallery serves is found by its id. -/
theorem descAt_served {s : State} {g : Gallery} {d : Desc} (served : s.served g = some d) : s.descAt d.id = some d := by
  unfold State.served at served
  obtain ⟨f, _, found⟩ := Option.bind_eq_some_iff.1 served
  rwa [(State.mem_of_descAt found).2]

theorem descAt_finished {g : Gallery} {e : Ev} {d : Desc} (served : e.st.served g = some d) : (e.finishStep g).st.descAt d.id = some d := by
  have found := descAt_served served
  unfold State.descAt State.findDesc at *
  rwa [(finishStep_deck g e).dqm]

theorem goalMet_congr {s t : State} (same : t.msu = s.msu) (d : Desc) : t.goalMet d = s.goalMet d := by
  unfold State.goalMet State.height State.pressure State.bagEmpty State.bagHolds State.pressure
  rw [same]

theorem requeueKind_congr {s t : State} (same : t.msu = s.msu) (d : Desc) : t.requeueKind d = s.requeueKind d := by
  unfold State.requeueKind State.heightKind State.heightChoice State.height State.pressure
  rw [same]

/-- A tyre's goal is met within 10 kPa, a deck's within 3 mm on both sides (R89). -/
theorem goalMet_of {s : State} {d : Desc} (plain : d.cls ≠ .lift)
    (tyre : d.cls = .tyre → ∀ m ∈ d.nodes.head?, ∃ v, s.pressure m.node = some v ∧ v ≤ d.goal + 10 ∧ d.goal ≤ v + 10)
    (named : d.cls = .tyre → d.nodes ≠ []) (height : d.cls = .height → ∀ sd, ∃ v, s.height sd = some v ∧ v ≤ d.goal + 3 ∧ d.goal ≤ v + 3) :
    s.goalMet d = true := by
  unfold State.goalMet
  cases cls : d.cls with
  | lift => exact absurd cls plain
  | tyre =>
    cases nodes : d.nodes with
    | nil => exact absurd nodes (named cls)
    | cons m ms =>
      obtain ⟨v, reading, above, below⟩ := tyre cls m (by rw [nodes]; rfl)
      dsimp only
      rw [reading]
      exact decide_eq_true (by unfold absDiff tyreTolerance; omega)
  | height =>
    obtain ⟨l, left, aboveL, belowL⟩ := height cls .left
    obtain ⟨r, right, aboveR, belowR⟩ := height cls .right
    dsimp only
    rw [left, right, Bool.and_eq_true]
    exact ⟨decide_eq_true (by unfold absDiff heightTolerance; omega), decide_eq_true (by unfold absDiff heightTolerance; omega)⟩

/-- A descriptor whose goal is met is freed with COMPLETE. -/
theorem evaluate_met {e : Ev} {d : Desc} {ending : Option EndReason} (found : e.st.descAt d.id = some d) (single : d.pending = none)
    (ok : ending ≠ some .sensor) (met : e.st.goalMet d = true) : e.evaluate d.id ending = e.freeTransfer d .complete := by
  unfold Ev.evaluate Ev.applyPending
  rw [found]
  dsimp only
  rw [single]
  dsimp only
  rw [if_neg ok, met]
  rfl

/-- A descriptor with its pending goal applied (R62, R74). -/
def Desc.applied (d : Desc) (p : PendingGoal) : Desc :=
  { d with goal := p.goal, origin := p.origin, pending := none, stepsLeft := p.steps, noProgress := 0 }

theorem judge_applied {d : Desc} {p : PendingGoal} (steps : p.steps ≠ 0) (e : Ev) : e.judge (d.applied p) = e.requeue (d.applied p) := by
  exact (if_neg (show ¬ noProgressMax ≤ 0 by decide)).trans (if_neg steps)

/-- A descriptor with a pending goal of a step or more is requeued with it. -/
theorem evaluate_pending {e : Ev} {d : Desc} {p : PendingGoal} {ending : Option EndReason} (found : e.st.descAt d.id = some d)
    (given : d.pending = some p) (steps : p.steps ≠ 0) (ok : ending ≠ some .sensor) :
    e.evaluate d.id ending =
      ((e.completion d.origin d d.goal .superseded).on fun s => s.putDesc (d.applied p)).requeue (d.applied p) := by
  unfold Ev.evaluate Ev.applyPending
  rw [found]
  dsimp only
  rw [given]
  dsimp only
  rw [if_neg ok]
  cases ending with
  | none => exact judge_applied steps _
  | some x => exact judge_applied steps _

/-! ### A stop withholds every grant (R79) -/

/-- A stop stands, and a descriptor is live but for its wait reason, which is none, POINT or STOP. -/
def Stands (d : Desc) (s : State) : Prop :=
  s.glc.stop.occupied = true ∧ ∃ w ∈ [Wait.clear, .point, .stop], { d with wait := w } ∈ s.transfers

theorem firstWait_stopped {s : State} (stopped : s.glc.stop.occupied = true) (d : Desc) : s.firstWait d = some .point ∨ s.firstWait d = some .stop := by
  by_cases held : heldByPoint d.id d.kind s.dqm.live = true
  · exact .inl (if_pos held)
  · exact .inr ((if_neg held).trans (if_pos stopped))

theorem Stands.setWait {d : Desc} {s : State} (stands : Stands d s) (id : Nat) {w : Wait} (listed : w = .point ∨ w = .stop) :
    Stands d (s.setWait id w) := by
  obtain ⟨stopped, v, known, mem⟩ := stands
  refine ⟨stopped, ?_⟩
  unfold State.setWait
  rw [State.modDesc_transfers]
  by_cases same : d.id = id
  · refine ⟨w, by rcases listed with rfl | rfl <;> decide, ?_⟩
    exact List.mem_map.2 ⟨_, mem, if_pos same⟩
  · exact ⟨v, known, List.mem_map.2 ⟨_, mem, if_neg same⟩⟩

theorem testOne_stopped {d : Desc} {g : Gallery} {id : Nat} {e : Ev} (stands : Stands d e.st) :
    Stands d (Ev.testOne g (e, []) id).1.st ∧ (Ev.testOne g (e, []) id).2 = [] := by
  unfold Ev.testOne
  dsimp only
  split
  · exact ⟨stands, rfl⟩
  · next x _ =>
    split
    · rcases firstWait_stopped stands.1 x with point | stop
      · rw [point]
        exact ⟨stands.setWait id (.inl rfl), rfl⟩
      · rw [stop]
        exact ⟨stands.setWait id (.inr rfl), rfl⟩
    · exact ⟨stands, rfl⟩

theorem testAll_stopped {d : Desc} {g : Gallery} (ids : List Nat) {e : Ev} (stands : Stands d e.st) :
    Stands d (Ev.testAll g ids (e, [])).1.st ∧ (Ev.testAll g ids (e, [])).2 = [] := by
  induction ids generalizing e with
  | nil => exact ⟨stands, rfl⟩
  | cons id ids ih =>
    obtain ⟨after, none⟩ := testOne_stopped (g := g) (id := id) stands
    have split_ : Ev.testOne g (e, []) id = ((Ev.testOne g (e, []) id).1, []) := Prod.ext rfl none
    unfold Ev.testAll
    rw [split_]
    exact ih after

theorem scanGallery_stopped {d : Desc} {g : Gallery} {e : Ev} (stands : Stands d e.st) : Stands d (e.scanGallery g).st := by
  obtain ⟨after, none⟩ := testAll_stopped (g := g) e.st.transferIds stands
  unfold Ev.scanGallery
  split
  · dsimp only
    rw [none, List.filter_nil, walkSlots_nil]
    exact after
  · exact stands

theorem scans_stopped {d : Desc} (n : Nat) {e : Ev} (stands : Stands d e.st) : Stands d (e.scans n).st := by
  induction n generalizing e with
  | zero => exact stands
  | succ n ih =>
    unfold Ev.scans
    split
    · exact ih (scanGallery_stopped (e := { e with scan := e.scan.set .a false }) stands)
    · split
      · exact ih (scanGallery_stopped (e := { e with scan := e.scan.set .b false }) stands)
      · exact stands

theorem Queued.transfers {s t : State} (q : Queued s t) : t.transfers = s.transfers := congrArg (fun q => State.transfers { s with dqm := q }) q.galleries.1

theorem requeue_stands {d d' : Desc} {e : Ev} (mem : d ∈ e.st.transfers) (same : d.id = d'.id) (stopped : e.st.glc.stop.occupied = true) :
    Stands { d' with state := .queued, kind := e.st.requeueKind d', stepGoal := none, start := none } (e.requeue d').st := by
  unfold Ev.requeue
  rw [Ev.triggerBoth_st]
  refine ⟨?_, .clear, List.mem_cons_self, ?_⟩
  · rw [testPoints_st]
    exact stopped
  · rw [testPoints_transfers, Ev.on_st]
    unfold State.putDesc
    rw [State.modDesc_transfers]
    exact List.mem_map.2 ⟨d, mem, if_pos same⟩

/-- Settles O40. -/
theorem settleExpiryEvaluates : Obligations.SettleExpiryEvaluates := by
  intro s g run
  refine ⟨fun still => congrArg Host.Outcome.next (event_same run (settleExpiry_still still)), fun d served running state => ?_⟩
  have handled : Ev.settleExpiry g (Ev.of s) = ((Ev.of s).finishStep g).evaluate d.id ((s.glc.galleries.get g).flight.bind Flight.ending) :=
    settleExpiry_evaluates (e := Ev.of s) running (servedIn_of served .settling state)
  have found := descAt_finished (e := Ev.of s) served
  have deck := finishStep_deck g (Ev.of s)
  refine ⟨_, rfl, ?_, ?_, fun plain single none ok tyre named height => ?_, fun p given steps ok stopped safe => ?_⟩
  · rw [event_fixed run, Ev.settleExpiry_fixed]
    rfl
  · exact event_link run (congrArg Fixed.lku (Ev.settleExpiry_fixed g (Ev.of s)))
  · have met : ((Ev.of s).finishStep g).st.goalMet d = true := (goalMet_congr deck.msu d).trans (goalMet_of plain tyre named height)
    obtain ⟨dqm, glc⟩ := finished_freed plain .complete g (Ev.of s)
    rw [← evaluate_met found single ok met, ← handled] at dqm glc
    obtain ⟨dqm', glc', -⟩ := (event_noGrant run (noGrant_of_none_queued none dqm)).galleries
    rw [dqm', glc', dqm, glc]
    exact ⟨rfl, rfl, rfl, PerGallery.get_modify _ _ _⟩
  · have requeued := handled.trans (evaluate_pending found given steps ok)
    have put : (((Ev.of s).finishStep g).completion d.origin d d.goal .superseded).st = ((Ev.of s).finishStep g).st := Ev.completion_st _ _ _ _ _
    have stands := requeue_stands (d := d.applied p) (d' := d.applied p)
      (e := (((Ev.of s).finishStep g).completion d.origin d d.goal .superseded).on fun s => s.putDesc (d.applied p))
    rw [Ev.on_st, put] at stands
    have stands := stands ?_ rfl ?_
    · rw [← requeued] at stands
      obtain ⟨-, w, listed, mem⟩ := scans_stopped scanBound stands
      refine ⟨w, listed, ?_⟩
      rw [event_run run, (queued_close none _).transfers]
      have kind : ((((Ev.of s).finishStep g).st).putDesc (d.applied p)).requeueKind (d.applied p) = s.requeueKind { d with goal := p.goal } :=
        requeueKind_congr deck.msu _
      rw [kind] at mem
      exact mem
    · unfold State.putDesc
      rw [State.modDesc_transfers]
      exact List.mem_map.2 ⟨d, (State.mem_of_descAt found).1, if_pos rfl⟩
    · exact (congrArg (fun x : Glc => x.stop.occupied) deck.glc).trans stopped

end Sys2Proof.Machine
end

section
/-! SUPPORT. The grant scan and the timers of a step (O38). -/

set_option Elab.async false

namespace Sys2Proof.Machine

/-! ### OPEN_TIMER_EXPIRY and STEP_TIMEOUT (R83) -/

theorem openExpiry_opens {s : State} {g : Gallery} {d : Desc} (running : (s.glc.galleries.get g).openT ≠ none)
    (opening : s.servedIn g .opening = some d) :
    s.openExpiry g = (s.modGallery g fun x => { x with openT := none }).modDesc d.id fun d => { d with state := .flowing } := by
  obtain ⟨x, timer⟩ := Option.ne_none_iff_exists'.1 running
  unfold State.openExpiry
  rw [timer, opening]

theorem openExpiry_still {s : State} {g : Gallery} (still : (s.glc.galleries.get g).openT = none ∨ s.galleryState g ≠ some .opening) :
    s.openExpiry g = s := by
  unfold State.openExpiry
  rcases still with stopped | other
  · rw [stopped]
  · rw [servedIn_none other]
    split
    · next found => cases found
    · rfl

theorem stepExpiry_ends {s : State} {g : Gallery} {d : Desc} (running : (s.glc.galleries.get g).stepT ≠ none)
    (flowing : s.servedIn g .flowing = some d) : s.stepExpiry g = s.endStep g .timeout := by
  obtain ⟨x, timer⟩ := Option.ne_none_iff_exists'.1 running
  unfold State.stepExpiry
  rw [timer, flowing]

theorem stepExpiry_still {s : State} {g : Gallery} (still : (s.glc.galleries.get g).stepT = none ∨ s.galleryState g ≠ some .flowing) :
    s.stepExpiry g = s := by
  unfold State.stepExpiry
  rcases still with stopped | other
  · rw [stopped]
  · rw [servedIn_none other]
    split
    · next found => cases found
    · rfl

/-! ### The grant (R82) -/

theorem suspendMonitors_eq (ms : List Managed) (s : State) :
    s.suspendMonitors ms = { s with spu.monitors := (s.suspendMonitors ms).spu.monitors } := by
  induction ms generalizing s with
  | nil => rfl
  | cons m ms ih =>
    unfold State.suspendMonitors
    split
    · exact ih _
    · exact ih s

theorem watched_iff (m : Managed) (w : Watched) : m.node.watched = some w ↔ m = w.managed := by
  cases m <;> cases w <;> decide

/-- The monitors of a list of nodes are suspended (R132). -/
theorem suspendMonitors_get (ms : List Managed) (s : State) (w : Watched) :
    (s.suspendMonitors ms).spu.monitors.get w =
      if ms.contains w.managed then { s.spu.monitors.get w with snapshot := none, window := none } else s.spu.monitors.get w := by
  induction ms generalizing s with
  | nil => rfl
  | cons m ms ih =>
    rw [List.contains_cons]
    unfold State.suspendMonitors
    cases watched : m.node.watched with
    | none =>
      have other : (w.managed == m) = false := beq_eq_false_iff_ne.2 fun same => by
        rw [(watched_iff m w).2 same.symm] at watched
        cases watched
      rw [other, Bool.false_or]
      exact ih s
    | some v =>
      refine (ih _).trans ?_
      dsimp only
      by_cases same : w = v
      · have here : (w.managed == m) = true := beq_iff_eq.2 (by rw [(watched_iff m v).1 watched, same])
        rw [here, same, PerWatched.get_modify, Bool.true_or, if_pos rfl]
        exact ite_self _
      · have other : (w.managed == m) = false := beq_eq_false_iff_ne.2 fun eq =>
          same (Option.some.inj (((watched_iff m w).2 eq.symm).symm.trans watched))
        rw [other, PerWatched.get_modify_ne _ _ same, Bool.false_or]

theorem stepOpens_eq (s : State) : s.stepOpens = { s with evu := s.stepOpens.evu } ∧ s.stepOpens.evu.latches = s.evu.latches ∧
    s.stepOpens.evu.activeSteps = s.evu.activeSteps + 1 := by
  unfold State.stepOpens State.beaconSync
  split
  · exact ⟨rfl, rfl, rfl⟩
  · split <;> exact ⟨rfl, rfl, rfl⟩

/-- The step in flight of a grant, with its timers (R75, R82). -/
def State.flight (s : State) (slot : Nat) (d : Desc) : GalleryRec where
  flight := some { id := d.id, nodes := stepNodes d, ending := none }
  pointer := slot
  openT := s.timer openTime
  stepT := s.timer (s.ws.timeout.get d.cls * 1000)
  closeT := none
  settleT := none

/-- The descriptor that a grant opens. -/
def State.openedDesc (s : State) (d : Desc) (goal : Option Nat) : Desc :=
  { d with state := .opening, stepGoal := goal, start := some (s.startReading d), wait := .clear }

/-- A grant's part in the records and the galleries. -/
def State.opened (s : State) (g : Gallery) (slot : Nat) (d : Desc) (goal : Option Nat) : State :=
  { s.putDesc (s.openedDesc d goal) with
    glc := { s.glc with galleries := s.glc.galleries.set g (s.flight slot d), valves := s.glc.valves.openStep d.kind (stepNodes d) } }

/-- What a grant changes beside the records and the galleries (R82, R98): the supply window, the height-step mark, the monitors and the beacon. -/
theorem grant_eq (s : State) (g : Gallery) (slot : Nat) (d : Desc) (goal : Option Nat) :
    ∃ evu monitors, s.grant g slot d goal = { s.opened g slot d goal with
        aac := if d.kind.isFill = true then { s.aac with window := none } else s.aac
        llu := if d.cls = .height then { s.llu with heightStep := true } else s.llu
        spu.monitors := monitors
        evu := evu } ∧
      evu.latches = s.evu.latches ∧ evu.activeSteps = (if d.cls = .tyre then s.evu.activeSteps else s.evu.activeSteps + 1) ∧
      ∀ w : Watched, monitors.get w =
        if d.nodes.contains w.managed then { s.spu.monitors.get w with snapshot := none, window := none } else s.spu.monitors.get w := by
  let s3 : State := { s.opened g slot d goal with aac := if d.kind.isFill = true then { s.aac with window := none } else s.aac }
  have window : (if d.kind.isFill then (s.opened g slot d goal).stopWindow else s.opened g slot d goal) = s3 := by
    dsimp only [s3]
    split <;> rfl
  let s5 : State := { s3.suspendMonitors d.nodes with llu := if d.cls = .height then { s.llu with heightStep := true } else s.llu }
  have mark : (if d.cls = .height then { s3.suspendMonitors d.nodes with llu.heightStep := true } else s3.suspendMonitors d.nodes) = s5 := by
    dsimp only [s5]
    rw [suspendMonitors_eq d.nodes s3]
    split <;> rfl
  have grants : s.grant g slot d goal = if d.cls.movesDeck then s5.stepOpens else s5 := by
    rw [← mark, ← window]
    rfl
  have suspended : s5 = { s3 with llu := s5.llu, spu.monitors := (s3.suspendMonitors d.nodes).spu.monitors } := by
    dsimp only [s5]
    rw [suspendMonitors_eq d.nodes s3]
  obtain ⟨opens, latches, steps⟩ := stepOpens_eq s5
  have evu : s5.evu = s.evu := (congrArg State.evu suspended :)
  rw [evu] at latches steps
  by_cases tyre : d.cls = .tyre
  · refine ⟨s.evu, _, ?_, rfl, (if_pos tyre).symm, suspendMonitors_get d.nodes s3⟩
    have stays : ¬ d.cls.movesDeck = true := by
      rw [tyre]
      decide
    rw [grants, if_neg stays]
    exact suspended
  · refine ⟨s5.stepOpens.evu, _, ?_, latches, steps.trans (if_neg tyre).symm, suspendMonitors_get d.nodes s3⟩
    have moves : d.cls.movesDeck = true := by
      cases cls : d.cls with
      | tyre => exact absurd cls tyre
      | height => rfl
      | lift => rfl
    rw [grants, moves, if_pos rfl, opens]
    generalize s5.stepOpens.evu = x
    rw [suspended]

/-! ### The outputs of a grant (R4, R5) -/

/-- The node valves of a gallery. -/
def Valves.nodes (v : Valves) : Gallery → PerManaged Bool
  | .a => v.a
  | .b => v.b

theorem setNode_nodes (v : Valves) (g : Gallery) (m : Managed) (on : Bool) :
    (v.setNode g m on).nodes g = (v.nodes g).set m on ∧ (∀ g', g' ≠ g → (v.setNode g m on).nodes g' = v.nodes g') ∧
    (v.setNode g m on).rsv = v.rsv ∧ (v.setNode g m on).exhaust = v.exhaust := by
  cases g with
  | a => exact ⟨rfl, fun g' other => by cases g' with | a => exact absurd rfl other | b => rfl, rfl, rfl⟩
  | b => exact ⟨rfl, fun g' other => by cases g' with | a => rfl | b => exact absurd rfl other, rfl, rfl⟩

theorem openNodes_nodes (g : Gallery) (ms : List Managed) (v : Valves) :
    (∀ m, ((v.openNodes g ms).nodes g).get m = ((v.nodes g).get m || ms.contains m)) ∧
    (∀ g', g' ≠ g → (v.openNodes g ms).nodes g' = v.nodes g') ∧
    (v.openNodes g ms).rsv = v.rsv ∧ (v.openNodes g ms).exhaust = v.exhaust := by
  induction ms generalizing v with
  | nil => exact ⟨fun m => (Bool.or_false _).symm, fun _ _ => rfl, rfl, rfl⟩
  | cons n ms ih =>
    obtain ⟨here, there, rsv, exhaust⟩ := setNode_nodes v g n true
    obtain ⟨here', there', rsv', exhaust'⟩ := ih (v.setNode g n true)
    refine ⟨fun m => (here' m).trans ?_, fun g' other => (there' g' other).trans (there g' other), rsv'.trans rsv, exhaust'.trans exhaust⟩
    rw [here, PerManaged.get_set_if, List.contains_cons]
    by_cases same : m = n
    · rw [if_pos same, same]
      simp
    · rw [if_neg same, beq_eq_false_iff_ne.2 same, Bool.false_or]

theorem openStep_fill {k : StepKind} (fill : k.isFill = true) (v : Valves) (ms : List Managed) :
    v.openStep k ms = { v.openNodes .a ms with rsv := true } := by
  cases k with
  | fill => rfl
  | pairFill => rfl
  | sideFill sd => rfl
  | _ => cases fill

theorem openStep_vent {k : StepKind} (vent : k.isFill = false) (v : Valves) (ms : List Managed) :
    v.openStep k ms = { v.openNodes .b ms with exhaust := if k = .cross then v.exhaust else true } := by
  have kept := (openNodes_nodes .b ms v).2.2.2
  cases k with
  | fill => cases vent
  | pairFill => cases vent
  | sideFill sd => cases vent
  | cross =>
    rw [if_pos rfl, ← kept]
    rfl
  | vent => rfl
  | pairVent => rfl
  | sideVent sd => rfl

theorem gallery_eq_a {k : StepKind} : k.gallery = .a ↔ k.isFill = true := by
  unfold StepKind.gallery
  cases k.isFill <;> decide

theorem gallery_eq_b {k : StepKind} : k.gallery = .b ↔ k.isFill = false := by
  unfold StepKind.gallery
  cases k.isFill <;> decide

/-- The outputs of an idle gallery are de-energised (R3). -/
theorem shut_of_idle {s : State} (safe : Safe s) {g : Gallery} (idle : s.idle g = true) : s.glc.valves.anyOpen g = false :=
  Bool.eq_false_iff.2 fun isOpen => by
    obtain ⟨d, mem, here, air⟩ := safe.valves g isOpen
    obtain ⟨f, flight, -⟩ := safe.coupled.carried d mem (by rintro queued; rw [queued] at air; cases air)
    unfold State.idle at idle
    rw [← here, flight] at idle
    cases idle

/-- The outputs that a grant energises on a gallery whose outputs are off. -/
theorem openStep_outputs {v : Valves} {k : StepKind} {g : Gallery} (on : k.gallery = g) (off : v.anyOpen g = false) (ms : List Managed) :
    (v.openStep k ms).rsv = (if g = .a then true else v.rsv) ∧
    (v.openStep k ms).exhaust = (if g = .b then k != .cross else v.exhaust) ∧
    (∀ m, (v.openStep k ms).a.get m = if g = .a then ms.contains m else v.a.get m) ∧
    (∀ m, (v.openStep k ms).b.get m = if g = .b then ms.contains m else v.b.get m) := by
  cases g with
  | a =>
    rw [openStep_fill (gallery_eq_a.1 on)]
    obtain ⟨-, nodes⟩ := Bool.or_eq_false_iff.1 off
    rw [bne_eq_false_iff_eq] at nodes
    obtain ⟨here, there, -, exhaust⟩ := openNodes_nodes .a ms v
    refine ⟨rfl, exhaust, fun m => (here m).trans ?_, fun m => congrArg (PerManaged.get · m) (there .b nofun)⟩
    rw [show v.nodes .a = PerManaged.fill false from nodes, PerManaged.get_fill]
    exact Bool.false_or _
  | b =>
    rw [openStep_vent (gallery_eq_b.1 on)]
    obtain ⟨exhausts, nodes⟩ := Bool.or_eq_false_iff.1 off
    rw [bne_eq_false_iff_eq] at nodes
    obtain ⟨here, there, rsv, -⟩ := openNodes_nodes .b ms v
    refine ⟨rsv, ?_, fun m => congrArg (PerManaged.get · m) (there .a nofun), fun m => (here m).trans ?_⟩
    · dsimp only
      rw [if_pos rfl, exhausts]
      by_cases cross : k = .cross
      · rw [if_pos cross, cross]
        rfl
      · rw [if_neg cross, bne_iff_ne.2 cross]
    · rw [show v.nodes .b = PerManaged.fill false from nodes, PerManaged.get_fill]
      exact Bool.false_or _

/-! ### The walk of the scheduler table (R80) -/

theorem range_split {n i : Nat} (lt : i < n) : ∃ k, List.range n = List.range i ++ i :: (List.range k).map (i + 1 + ·) := by
  refine ⟨n - (i + 1), ?_⟩
  conv_lhs => rw [show n = (i + 1) + (n - (i + 1)) by omega, List.range_add, List.range_succ]
  rw [List.append_assoc, List.singleton_append]

/-- The walk stops at the first slot whose class has a candidate. -/
theorem walkSlots_first {w : Settings} {p i : Nat} {cs : List Candidate} {c : Candidate} (lt : i < 16)
    (before : ∀ j < i, ∀ c ∈ cs, c.desc.cls ≠ w.slot ((p + 1 + j) % 16))
    (here : cs.find? (fun c => c.desc.cls == w.slot ((p + 1 + i) % 16)) = some c) : walkSlots w p cs = some ((p + 1 + i) % 16, c) := by
  obtain ⟨k, split_⟩ := range_split lt
  unfold walkSlots
  rw [split_, List.map_append, List.map_cons, List.findSome?_append, List.findSome?_eq_none_iff.2, Option.none_or, List.findSome?_cons, here]
  · rfl
  · intro slot mem
    obtain ⟨j, low, rfl⟩ := List.mem_map.1 mem
    rw [Option.map_eq_none_iff, List.find?_eq_none]
    intro c inCs same
    exact before j (List.mem_range.1 low) c inCs (beq_iff_eq.1 same)

/-! ### The candidates passed over (R79) -/

/-- A descriptor with the wait reason of a candidate passed over. -/
def Desc.passed (granted : Nat) (ids : List Nat) (d : Desc) : Desc := if d.id ∈ ids ∧ d.id ≠ granted then { d with wait := .gallery } else d

theorem passed_nil (granted : Nat) (d : Desc) : d.passed granted [] = d := if_neg fun ⟨mem, _⟩ => nomatch mem

theorem passed_granted (granted : Nat) (ids : List Nat) (d : Desc) : d.passed granted (granted :: ids) = d.passed granted ids := by
  unfold Desc.passed
  by_cases same : d.id = granted
  · rw [if_neg fun h => h.2 same, if_neg fun h => h.2 same]
  · simp only [List.mem_cons, same, false_or]

theorem passed_cons {granted id : Nat} (other : id ≠ granted) (ids : List Nat) (d : Desc) :
    d.passed granted (id :: ids) = (if d.id = id then { d with wait := .gallery } else d).passed granted ids := by
  unfold Desc.passed
  by_cases same : d.id = id
  · rw [if_pos same, if_pos ⟨same ▸ List.mem_cons_self, fun eq => other (same.symm.trans eq)⟩]
    split <;> rfl
  · simp only [List.mem_cons, same, false_or, if_false]

theorem passOver_eq (granted : Nat) (cs : List Candidate) (s : State) :
    s.passOver granted cs = { s with dqm.live := s.dqm.live.map (LiveRec.on (Desc.passed granted (cs.map fun c => c.desc.id))) } := by
  induction cs generalizing s with
  | nil =>
    rw [List.map_nil, map_on_id fun d _ => passed_nil granted d]
    rfl
  | cons c cs ih =>
    unfold State.passOver
    rw [ih, List.map_cons]
    by_cases same : c.desc.id = granted
    · rw [if_pos same, same, map_on_congr fun d _ => (passed_granted granted _ d).symm]
    · have live : (s.setWait c.desc.id .gallery).dqm.live.map (LiveRec.on (Desc.passed granted (cs.map fun c => c.desc.id))) =
          s.dqm.live.map (LiveRec.on (Desc.passed granted (c.desc.id :: cs.map fun c => c.desc.id))) := by
        unfold State.setWait
        rw [modDesc_live, map_on_on]
        exact map_on_congr fun d _ => (passed_cons same _ d).symm
      rw [if_neg same, live]
      rfl

/-! ### The scan -/

theorem marked_transfer {s : State} {g : Gallery} {d : Desc} (mem : d ∈ s.transfers) :
    s.mark g s.transferIds (.transfer d) = .transfer (if d ∈ s.scanned g then { d with wait := (s.scanWait d).getD .clear } else d) := by
  have listed : d.id ∈ s.transferIds := List.mem_map_of_mem mem
  have scanned : d ∈ s.scanned g ↔ d.state = .queued ∧ d.kind.gallery = g ∧ d.id ∈ s.transferIds := by
    unfold State.scanned
    rw [List.mem_filter, Bool.and_eq_true, beq_iff_eq, beq_iff_eq]
    exact ⟨fun ⟨_, queued, here⟩ => ⟨queued, here, listed⟩, fun ⟨queued, here, _⟩ => ⟨mem, queued, here⟩⟩
  exact congrArg LiveRec.transfer (if_congr scanned rfl rfl).symm

/-- A descriptor as the tests of a scan leave it. -/
def State.tested (s : State) (g : Gallery) (d : Desc) : Desc :=
  if d ∈ s.scanned g then { d with wait := (s.scanWait d).getD .clear } else d

theorem marked_eq (s : State) (g : Gallery) : s.marked g s.transferIds = { s with dqm.live := s.dqm.live.map (LiveRec.on (s.tested g)) } := by
  have live : s.dqm.live.map (s.mark g s.transferIds) = s.dqm.live.map (LiveRec.on (s.tested g)) := by
    refine List.map_congr_left fun l mem => ?_
    cases l with
    | point p => rfl
    | transfer d => exact marked_transfer (State.mem_transfers.2 mem)
  exact congrArg (fun l => { s with dqm.live := l }) live

theorem mem_eligible {s : State} {g : Gallery} {d : Desc} : d ∈ s.eligible g ↔ d ∈ s.scanned g ∧ s.scanWait d = none := by
  unfold State.eligible
  rw [List.mem_filter, Option.isNone_iff_eq_none]

theorem tested_eligible {s : State} {g : Gallery} {d : Desc} (eligible : d ∈ s.eligible g) : s.tested g d = { d with wait := .clear } := by
  obtain ⟨scanned, free⟩ := mem_eligible.1 eligible
  refine (if_pos scanned).trans ?_
  rw [free]
  rfl

theorem scanned_live {s : State} {g : Gallery} {d : Desc} (scanned : d ∈ s.scanned g) : d ∈ s.transfers ∧ d.kind.gallery = g := by
  unfold State.scanned at scanned
  obtain ⟨mem, test⟩ := List.mem_filter.1 scanned
  exact ⟨mem, beq_iff_eq.1 (Bool.and_eq_true_iff.1 test).2⟩

theorem map_on_transfers {s t : State} {f : Desc → Desc} (live : t.dqm.live = s.dqm.live.map (LiveRec.on f)) : t.transfers = s.transfers.map f := by
  unfold State.transfers
  rw [live, List.filterMap_map, List.map_filterMap]
  congr 1
  funext l
  cases l <;> rfl

theorem map_on_liveIds {s t : State} {f : Desc → Desc} (live : t.dqm.live = s.dqm.live.map (LiveRec.on f)) (same : ∀ d, (f d).id = d.id) :
    t.liveIds = s.liveIds := by
  unfold State.liveIds
  rw [live, List.map_map]
  refine List.map_congr_left fun l _ => ?_
  cases l with
  | transfer d => exact same d
  | point p => rfl

theorem tested_id (s : State) (g : Gallery) (d : Desc) : (s.tested g d).id = d.id := by
  unfold State.tested
  split <;> rfl

/-- Every candidate's record stands as it was tested. -/
theorem marked_candidate {s : State} (pool : PoolWhole s) {g : Gallery} {d : Desc} (eligible : d ∈ s.eligible g) :
    (s.marked g s.transferIds).descAt d.id = some { d with wait := .clear } := by
  have live : (s.marked g s.transferIds).dqm.live = s.dqm.live.map (LiveRec.on (s.tested g)) := by rw [marked_eq]
  have whole : PoolWhole (s.marked g s.transferIds) := by
    unfold PoolWhole
    rw [map_on_liveIds live (tested_id s g)]
    exact pool
  refine whole.descAt (d := { d with wait := .clear }) ?_
  rw [map_on_transfers live, ← tested_eligible eligible]
  exact List.mem_map_of_mem (scanned_live (mem_eligible.1 eligible).1).1

section scan
variable {e : Ev} {g : Gallery} (safe : Safe e.st) (idle : e.st.idle g = true) (rsv : g = .a → e.st.pressure .rsv ≠ none)
  (fill : ∀ d ∈ e.st.scanned g, e.st.barred d = none → d.kind.isFill = true → e.st.fillAnswer d ≠ .noFill)
include safe idle rsv fill

theorem scanGallery_eq : e.scanGallery g =
    match walkSlots e.st.ws (e.st.glc.galleries.get g).pointer ((e.st.eligible g).map e.st.candidate) with
    | some (slot, c) => e.on fun s => ((s.marked g s.transferIds).grant g slot c.desc c.goal).passOver c.desc.id ((s.eligible g).map s.candidate)
    | none => e.on fun s => s.marked g s.transferIds := by
  have all : ((e.st.eligible g).map e.st.candidate).filter
      (fun c => (e.st.marked g e.st.transferIds).descAt c.desc.id == some c.desc) = (e.st.eligible g).map e.st.candidate := by
    refine List.filter_eq_self.2 fun c mem => ?_
    obtain ⟨d, eligible, rfl⟩ := List.mem_map.1 mem
    exact beq_iff_eq.2 (marked_candidate (d := d) safe.pool eligible)
  unfold Ev.scanGallery
  rw [if_pos idle, testAll_marked safe.pool rsv fill]
  dsimp only
  rw [Ev.on_st, all]
  rfl

end scan

/-- A descriptor that a scan tests and does not grant (R79). -/
def State.waiting (s : State) (g : Gallery) (x : Desc) : Desc :=
  if x ∈ s.scanned g then { x with wait := (s.scanWait x).getD .gallery } else x

theorem tested_barred {s : State} {g : Gallery} {x : Desc} (barred : x ∉ s.eligible g) : s.tested g x = s.waiting g x := by
  unfold State.tested State.waiting
  by_cases scanned : x ∈ s.scanned g
  · rw [if_pos scanned, if_pos scanned]
    cases wait : s.scanWait x with
    | none => exact absurd (mem_eligible.2 ⟨scanned, wait⟩) barred
    | some w => rfl
  · rw [if_neg scanned, if_neg scanned]

theorem waiting_eligible {s : State} {g : Gallery} {x : Desc} (eligible : x ∈ s.eligible g) : s.waiting g x = { x with wait := .gallery } := by
  obtain ⟨scanned, free⟩ := mem_eligible.1 eligible
  refine (if_pos scanned).trans ?_
  rw [free]
  rfl

theorem waiting_id (s : State) (g : Gallery) (x : Desc) : (s.waiting g x).id = x.id := by
  unfold State.waiting
  split <;> rfl

/-- The tests, the grant and the passing over of a scan, on one descriptor. -/
theorem scan_place {s : State} (pool : PoolWhole s) {g : Gallery} {d d' x : Desc} (granted : d ∈ s.eligible g) (same : d'.id = d.id)
    (mem : x ∈ s.transfers) :
    Desc.passed d.id (((s.eligible g).map s.candidate).map fun c => c.desc.id) (if (s.tested g x).id = d.id then d' else s.tested g x) =
      if x = d then d' else s.waiting g x := by
  rw [tested_id, List.map_map]
  by_cases one : x = d
  · rw [if_pos one, if_pos (congrArg Desc.id one)]
    exact if_neg fun h => h.2 same
  · have apart : x.id ≠ d.id := fun eq => one (pool.unique mem (scanned_live (mem_eligible.1 granted).1).1 eq)
    rw [if_neg one, if_neg apart]
    by_cases eligible : x ∈ s.eligible g
    · rw [tested_eligible eligible, waiting_eligible eligible]
      exact if_pos ⟨List.mem_map.2 ⟨x, eligible, rfl⟩, apart⟩
    · rw [tested_barred eligible]
      refine if_neg fun h => ?_
      obtain ⟨y, granted', eq⟩ := List.mem_map.1 h.1
      rw [waiting_id] at eq
      exact eligible (pool.unique (scanned_live (mem_eligible.1 granted').1).1 mem eq ▸ granted')

/-- The state that a scan with a grant leaves. -/
def State.scanGrant (s : State) (g : Gallery) (slot : Nat) (d : Desc) : State :=
  ((s.marked g s.transferIds).grant g slot { d with wait := .clear } (s.grantGoal d)).passOver d.id ((s.eligible g).map s.candidate)

theorem scanGrant_live {s : State} (pool : PoolWhole s) {g : Gallery} (slot : Nat) {d : Desc} (granted : d ∈ s.eligible g) :
    (s.scanGrant g slot d).dqm = { s.dqm with
      live := s.dqm.live.map fun l => if l = .transfer d then .transfer (s.openedDesc d (s.grantGoal d)) else LiveRec.on (s.waiting g) l } := by
  obtain ⟨evu, monitors, grants, -⟩ := grant_eq (s.marked g s.transferIds) g slot { d with wait := .clear } (s.grantGoal d)
  have opened : ((s.marked g s.transferIds).opened g slot { d with wait := .clear } (s.grantGoal d)).dqm.live =
      s.dqm.live.map (LiveRec.on fun x => if (s.tested g x).id = d.id then s.openedDesc d (s.grantGoal d) else s.tested g x) := by
    unfold State.opened State.putDesc
    rw [marked_eq]
    dsimp only
    rw [modDesc_live, map_on_on]
    rfl
  have live : ((s.marked g s.transferIds).opened g slot { d with wait := .clear } (s.grantGoal d)).dqm.live.map
      (LiveRec.on (Desc.passed d.id (((s.eligible g).map s.candidate).map fun c => c.desc.id))) =
      s.dqm.live.map fun l => if l = .transfer d then .transfer (s.openedDesc d (s.grantGoal d)) else LiveRec.on (s.waiting g) l := by
    rw [opened, map_on_on]
    refine List.map_congr_left fun l mem => ?_
    cases l with
    | point p => exact (if_neg nofun).symm
    | transfer x =>
      have place := scan_place (d' := s.openedDesc d (s.grantGoal d)) pool granted rfl (State.mem_transfers.2 mem)
      by_cases one : x = d
      · exact (congrArg LiveRec.transfer (place.trans (if_pos one))).trans (if_pos (congrArg LiveRec.transfer one)).symm
      · exact (congrArg LiveRec.transfer (place.trans (if_neg one))).trans (if_neg fun eq => one (LiveRec.transfer.inj eq)).symm
  unfold State.scanGrant
  rw [passOver_eq, grants]
  dsimp only
  rw [live]
  rfl

theorem scanGrant_frame {s : State} (g : Gallery) (slot : Nat) (d : Desc) :
    let t := s.scanGrant g slot d
    t.fixed = s.fixed ∧
    t.glc = { s.glc with galleries := s.glc.galleries.set g (s.flight slot d), valves := s.glc.valves.openStep d.kind (stepNodes d) } ∧
    t.aac = (if d.kind.isFill = true then { s.aac with window := none } else s.aac) ∧ t.tgu = s.tgu ∧ t.hlc = s.hlc ∧
    t.llu = (if d.cls = .height then { s.llu with heightStep := true } else s.llu) ∧
    t.evu.latches = s.evu.latches ∧ t.evu.activeSteps = (if d.cls = .tyre then s.evu.activeSteps else s.evu.activeSteps + 1) ∧
    t.spu.faults = s.spu.faults ∧
    (∀ w : Watched, t.spu.monitors.get w =
      if d.nodes.contains w.managed then { s.spu.monitors.get w with snapshot := none, window := none } else s.spu.monitors.get w) := by
  obtain ⟨evu, monitors, grants, latches, steps, suspended⟩ := grant_eq (s.marked g s.transferIds) g slot { d with wait := .clear } (s.grantGoal d)
  refine ⟨?_, ?_⟩
  · unfold State.scanGrant
    rw [State.passOver_fixed, State.grant_fixed]
    rfl
  · unfold State.scanGrant
    rw [passOver_eq, grants]
    exact ⟨rfl, rfl, rfl, rfl, rfl, latches, steps, rfl, suspended⟩

theorem find_candidate {s : State} {g : Gallery} {x : Cls} {d : Desc} (found : (s.eligible g).find? (fun d => d.cls == x) = some d) :
    ((s.eligible g).map s.candidate).find? (fun c => c.desc.cls == x) = some (s.candidate d) := by
  rw [List.find?_map]
  exact congrArg (Option.map s.candidate) found

/-- Settles O38: the tests mark every descriptor, the walk finds the slot, and the grant and the passing over follow. -/
theorem stepTimersAdvance : Obligations.StepTimersAdvance := by
  refine ⟨fun e g safe idle rsv fill => ?_, fun s g run => ⟨fun d served => ⟨fun running state => ?_, fun running state => ?_⟩,
    fun still => ?_, fun still => ?_⟩⟩
  · intro s t pointer waits
    have scan := scanGallery_eq safe idle rsv fill
    have waits_eq : waits = LiveRec.on (s.waiting g) := funext fun l => by cases l <;> rfl
    rw [waits_eq]
    refine ⟨?_, fun none => ?_, fun i d lt before found => ?_⟩
    · rw [scan]
      split <;> rfl
    · have left : (e.scanGallery g).st = s.marked g s.transferIds := by
        rw [scan, show e.st.eligible g = [] from none, List.map_nil, walkSlots_nil]
        rfl
      refine left.trans ((marked_eq s g).trans (congrArg (fun l => { s with dqm.live := l }) (map_on_congr fun x _ => tested_barred ?_)))
      rw [none]
      exact List.not_mem_nil
    · intro nodes
      have eligible : d ∈ s.eligible g := List.mem_of_find?_eq_some found
      obtain ⟨mem, here⟩ := scanned_live (mem_eligible.1 eligible).1
      obtain ⟨names, takes⟩ := safe.shaped d mem
      have start := grantStart_eq s d names takes
      have nodes_eq : nodes = stepNodes d := congrArg Prod.fst start
      have walk := walkSlots_first (cs := (s.eligible g).map s.candidate) lt (fun j low c inCs => by
        obtain ⟨x, inEligible, rfl⟩ := List.mem_map.1 inCs
        exact before j low x inEligible) (find_candidate found)
      have left : t = s.scanGrant g ((pointer + 1 + i) % 16) d := by
        show (e.scanGallery g).st = _
        rw [scan, show walkSlots e.st.ws (e.st.glc.galleries.get g).pointer ((e.st.eligible g).map e.st.candidate) = _ from walk]
        rfl
      have dqm := scanGrant_live safe.pool ((pointer + 1 + i) % 16) eligible
      obtain ⟨fixed, glc, aac, tgu, hlc, llu, latches, steps, faults, monitors⟩ := scanGrant_frame (s := s) g ((pointer + 1 + i) % 16) d
      rw [← left] at dqm fixed glc aac tgu hlc llu latches steps faults monitors
      obtain ⟨rsvOut, exhaust, a, b⟩ := openStep_outputs here (shut_of_idle safe idle) (stepNodes d)
      rw [dqm, glc, nodes_eq, start]
      refine ⟨fixed, rfl, rfl, rfl, PerGallery.get_set _ _ _, fun g' other => PerGallery.get_set_ne _ _ other, rsvOut, exhaust, a, b,
        aac.trans (if_congr ?_ rfl rfl), tgu, hlc, llu, latches, steps, faults, monitors⟩
      rw [← here]
      exact gallery_eq_a.symm
  · exact congrArg Host.Outcome.next ((event_on run _).trans (openExpiry_opens running (servedIn_of served .opening state)))
  · refine congrArg Host.Outcome.next ((event_on run _).trans ((stepExpiry_ends running (servedIn_of served .flowing state)).trans ?_))
    exact State.endStep_eq .timeout served (by rw [state]; rfl)
  · exact congrArg Host.Outcome.next ((event_on run _).trans (openExpiry_still still))
  · exact congrArg Host.Outcome.next ((event_on run _).trans (stepExpiry_still still))

end Sys2Proof.Machine
end

section
/-! SUPPORT. The target unit in LOADING: with every persistence timer stopped and every mark clear, no operation of an event changes it
(R19, R32), so that MODE_SET leaves the held targets. -/

set_option Elab.async false

namespace Sys2Proof.Machine

/-- LOADING with every tyre's timer stopped and mark clear (R19). -/
def TyresFrozen (s : State) : Prop :=
  s.tgu.mode = .loading ∧ ∀ u, (s.tgu.tyres.get u).timer = none ∧ (s.tgu.tyres.get u).pending = false

/-- A frozen target unit stays as it is. -/
def Frozen (s t : State) : Prop := TyresFrozen s → t.tgu = s.tgu

theorem Frozen.aside {s t : State} (tgu : t.tgu = s.tgu := by rfl) : Frozen s t := fun _ => tgu

theorem Frozen.refl (s : State) : Frozen s s := .aside

theorem Frozen.trans {s t u : State} (h : Frozen s t) (k : Frozen t u) : Frozen s u := fun f => by
  have first := h f
  have frozen : TyresFrozen t := by
    unfold TyresFrozen
    rw [first]
    exact f
  rw [k frozen, first]

theorem PerTyre.set_get {α : Type} (p : PerTyre α) (u : Tyre) : p.set u (p.get u) = p := by
  cases u <;> rfl

/-! ### Records and asks -/

theorem frozen_latch (e : Ev) (k : EventKind) (ns : List Node) : Frozen e.st (Ev.latch k ns e).st := .aside (by rw [Ev.latch_st])

theorem frozen_testPoints (e : Ev) : Frozen e.st e.testPoints.st := .aside (by rw [testPoints_st])

theorem frozen_refuse (c : Cls) (ns : List Managed) (e : Ev) : Frozen e.st (e.refuse c ns).st := .aside (by rw [refuse_st]; rfl)

theorem frozen_tyreServed (s : State) (u : Tyre) : Frozen s (s.tyreServed u) := fun f => by
  obtain ⟨timer, pending⟩ := f.2 u
  have same : { s.tgu.tyres.get u with timer := none, pending := false } = s.tgu.tyres.get u := by rw [← timer, ← pending]
  rw [State.tyreServed_tgu, PerTyre.modify, same, PerTyre.set_get]

theorem frozen_tyresServed (ms : List Managed) (s : State) : Frozen s (s.tyresServed ms) := by
  induction ms generalizing s with
  | nil => exact .refl s
  | cons m ms ih =>
    unfold State.tyresServed
    split
    · exact (frozen_tyreServed s _).trans (ih _)
    · exact ih s

theorem frozen_becameLive (s : State) (a : Ask) : Frozen s (s.becameLive a) := by
  unfold State.becameLive
  split
  · exact frozen_tyresServed _ s
  · exact .aside
  · exact .refl s

theorem frozen_allocate (a : Ask) (e : Ev) : Frozen e.st (e.allocate a).1.st := by
  unfold Ev.allocate
  split
  · exact frozen_refuse _ _ e
  · split
    · exact frozen_refuse _ _ e
    · rw [Ev.triggerBoth_st]
      exact Frozen.trans .aside (frozen_becameLive _ a)

theorem frozen_mergeQueued (d : Desc) (a : Ask) (e : Ev) : Frozen e.st (e.mergeQueued d a).st := by
  unfold Ev.mergeQueued
  dsimp only
  rw [Ev.triggerBoth_st]
  split
  · exact .aside (by rw [Ev.on_st, State.putDesc_tgu, Ev.completion_st])
  · exact Frozen.trans (.aside (by rw [Ev.on_st, State.putDesc_tgu, Ev.completion_st])) (frozen_testPoints _)

theorem frozen_mergePending (d : Desc) (a : Ask) (e : Ev) : Frozen e.st (e.mergePending d a).st := by
  unfold Ev.mergePending
  split
  · exact .aside (by rw [Ev.on_st, State.putDesc_tgu, Ev.completion_st])
  · exact .aside

theorem frozen_ask (a : Ask) (e : Ev) : Frozen e.st (e.ask a).1.st := by
  unfold Ev.ask
  split
  · next d _ =>
    split
    · exact frozen_refuse _ _ e
    · split
      · exact frozen_mergeQueued d a e
      · exact frozen_mergePending d a e
  · exact frozen_allocate a e

theorem frozen_dropTransfer (d : Desc) (x : Ending) (e : Ev) : Frozen e.st (e.dropTransfer d x).st := by
  unfold Ev.dropTransfer
  split
  · exact .aside
  · exact .aside (by rw [Ev.on_st, State.unlink_tgu, Ev.endReports_st])

theorem frozen_unlinkTransfer (d : Desc) (x : Ending) (e : Ev) : Frozen e.st (e.unlinkTransfer d x).st :=
  (frozen_dropTransfer d x e).trans (frozen_testPoints _)

/-! ### The lift logic -/

theorem frozen_loadFollow (ts : List Tyre) (e : Ev) : Frozen e.st (e.loadFollow ts).st := fun f => by
  rw [show e.loadFollow ts = e from if_pos (.inl f.1)]

theorem frozen_setLift (x : LiftState) (e : Ev) : Frozen e.st (e.setLift x).st := by
  unfold Ev.setLift
  dsimp only
  split
  · exact .refl _
  · refine Frozen.trans (.aside ?_) (frozen_loadFollow _ _)
    rw [Ev.on_st]
    split <;> rfl

theorem frozen_liftDecide (o : Origin) (e : Ev) : Frozen e.st (e.liftDecide o).1.st := by
  unfold Ev.liftDecide
  split
  · exact .refl _
  · split
    · exact .refl _
    · dsimp only
      split
      · exact frozen_ask _ e
      · exact (frozen_ask _ e).trans (frozen_setLift _ _)

theorem frozen_liftAuto (e : Ev) : Frozen e.st e.liftAuto.st := frozen_liftDecide .auto e

theorem frozen_aimTo (b : Bool) (e : Ev) : Frozen e.st (e.aimTo b).st := by
  unfold Ev.aimTo
  split
  · exact .refl _
  · exact Frozen.trans .aside (frozen_liftAuto _)

theorem frozen_flagFault (n : Node) (e : Ev) : Frozen e.st (e.flagFault n).st := by
  refine Frozen.trans (.aside ?_) (frozen_latch _ .nodeFault [n])
  rw [Ev.on_st]
  unfold State.resetMonitorOf
  split <;> rfl

theorem frozen_liftStall (x : Ending) (e : Ev) : Frozen e.st (e.liftStall x).st := by
  unfold Ev.liftStall
  split
  · exact frozen_flagFault .lft e
  · exact .refl _

/-- The aim given up by a failed lift (R128). -/
theorem frozen_giveUp (failed : Bool) (e : Ev) : Frozen e.st (if failed then e.on fun s => s.setAim false else e).st := by
  split
  · exact .aside
  · exact .refl _

theorem frozen_liftFreed (x : Ending) (e : Ev) : Frozen e.st (e.liftFreed x).st :=
  ((((frozen_setLift _ e).trans (frozen_giveUp _ _)).trans (frozen_liftStall x _)).trans .aside).trans (frozen_liftAuto _)

theorem frozen_ownerFreed (d : Desc) (x : Ending) (e : Ev) : Frozen e.st (e.ownerFreed d x).st := by
  unfold Ev.ownerFreed
  split
  · exact frozen_liftFreed x e
  · exact .refl _
  · exact .refl _

theorem frozen_freeTransfer (d : Desc) (x : Ending) (e : Ev) : Frozen e.st (e.freeTransfer d x).st :=
  (frozen_unlinkTransfer d x e).trans (frozen_ownerFreed d x _)

theorem liftMode_loading (e : Ev) : e.liftMode .loading = (e.aimTo false).on State.liftTimerTest := rfl

theorem frozen_liftMode_loading (e : Ev) : Frozen e.st (e.liftMode .loading).st := (frozen_aimTo false e).trans .aside

/-! ### Steps, teardown and faults -/

theorem resetMonitors_tgu (ms : List Managed) (s : State) : (s.resetMonitors ms).tgu = s.tgu := by
  induction ms generalizing s with
  | nil => rfl
  | cons m ms ih =>
    refine (ih _).trans ?_
    unfold State.resetMonitorOf
    split <;> rfl

theorem frozen_finishStep (g : Gallery) (e : Ev) : Frozen e.st (e.finishStep g).st := .aside (by
  unfold Ev.finishStep
  rw [Ev.trigger_st, Ev.on_st]
  dsimp only
  split
  · rfl
  · split
    · exact resetMonitors_tgu _ _
    · exact resetMonitors_tgu _ _)

theorem endStep_tgu (s : State) (g : Gallery) (r : EndReason) : (s.endStep g r).tgu = s.tgu := by
  unfold State.endStep
  split
  · rfl
  · split <;> rfl

theorem frozen_takeDown (y : TornBy) (d : Desc) (e : Ev) : Frozen e.st (e.takeDown y d).1.st := by
  unfold Ev.takeDown
  split
  · exact frozen_dropTransfer _ _ e
  · exact (frozen_finishStep _ e).trans (frozen_dropTransfer _ _ _)
  · exact .aside
  · exact .aside (endStep_tgu _ _ _)

theorem frozen_tearDown (y : TornBy) (d : Desc) (e : Ev) : Frozen e.st (e.tearDown y d).1.st := by
  unfold Ev.tearDown
  split
  · exact .refl _
  · split
    · refine Frozen.trans (.aside ?_) (frozen_takeDown _ _ _)
      rw [Ev.endReports_st]
    · exact frozen_takeDown _ _ e

theorem frozen_faultDown (d : Desc) (e : Ev) : Frozen e.st (e.faultDown d).st := by
  unfold Ev.faultDown
  dsimp only
  split
  · exact ((frozen_tearDown _ _ e).trans (frozen_testPoints _)).trans (frozen_ownerFreed _ _ _)
  · exact frozen_tearDown _ _ e

theorem frozen_addCause (x : Lockout) (e : Ev) : Frozen e.st (e.addCause x).st := by
  unfold Ev.addCause
  dsimp only
  split
  · exact .aside
  · split
    · exact Frozen.trans .aside (frozen_faultDown _ _)
    · exact .aside

theorem frozen_faultDescriptor (m : Managed) (e : Ev) : Frozen e.st (e.faultDescriptor m).st := by
  unfold Ev.faultDescriptor
  split
  · exact (frozen_faultDown _ e).trans .aside
  · exact .refl _

theorem frozen_addBellows (held : Bool) (x : Lockout) (e : Ev) : Frozen e.st (if held then e else e.addCause x).st := by
  split
  · exact .refl _
  · exact frozen_addCause x e

theorem frozen_faultOwner (m : Managed) (e : Ev) : Frozen e.st (e.faultOwner m).st := by
  unfold Ev.faultOwner
  split
  · exact frozen_addBellows _ _ e
  · exact frozen_addBellows _ _ e
  · exact .aside
  · split
    · exact frozen_tyreServed _ _
    · exact .refl _

theorem frozen_faultNode (n : Node) (e : Ev) : Frozen e.st (e.faultNode n).st := by
  unfold Ev.faultNode
  split
  · exact .refl _
  · dsimp only
    split
    · exact ((frozen_flagFault n e).trans (frozen_faultDescriptor _ _)).trans (frozen_faultOwner _ _)
    · exact frozen_flagFault n e

theorem frozen_faultNodes (ms : List Managed) (e : Ev) : Frozen e.st (Ev.faultNodes ms e).st := by
  induction ms generalizing e with
  | nil => exact .refl _
  | cons m ms ih => exact (frozen_faultNode m.node e).trans (ih _)

/-! ### The evaluation and the scans -/

theorem frozen_requeue (d : Desc) (e : Ev) : Frozen e.st (e.requeue d).st := by
  unfold Ev.requeue
  rw [Ev.triggerBoth_st]
  exact Frozen.trans .aside (frozen_testPoints _)

theorem frozen_judge (d : Desc) (e : Ev) : Frozen e.st (e.judge d).st := by
  unfold Ev.judge
  split
  · exact ((frozen_unlinkTransfer _ _ e).trans (frozen_faultNodes _ _)).trans (frozen_ownerFreed _ _ _)
  · split
    · exact (frozen_latch e _ _).trans (frozen_freeTransfer _ _ _)
    · exact frozen_requeue d e

theorem frozen_applyPending (d : Desc) (e : Ev) : Frozen e.st (e.applyPending d).1.st := by
  unfold Ev.applyPending
  split
  · exact .aside (by rw [Ev.on_st, State.putDesc_tgu, Ev.completion_st])
  · exact .refl _

theorem frozen_evaluate (id : Nat) (r : Option EndReason) (e : Ev) : Frozen e.st (e.evaluate id r).st := by
  unfold Ev.evaluate
  split
  · exact .refl _
  · next d _ =>
    have applied := frozen_applyPending d e
    dsimp only
    split
    · exact applied.trans (frozen_freeTransfer _ _ _)
    · split
      · exact applied.trans (frozen_freeTransfer _ _ _)
      · split
        · exact applied.trans (frozen_judge _ _)
        · exact applied.trans (frozen_judge _ _)

theorem frozen_fillQuery (d : Desc) (e : Ev) : Frozen e.st (e.fillQuery d).1.st := by
  unfold Ev.fillQuery
  dsimp only
  split
  · exact .refl _
  · exact frozen_latch e _ _

theorem frozen_testOne (g : Gallery) (acc : Ev × List Candidate) (id : Nat) : Frozen acc.1.st (Ev.testOne g acc id).1.st := by
  unfold Ev.testOne
  dsimp only
  split
  · exact .refl _
  · next d _ =>
    split
    · split
      · exact .aside
      · have query := frozen_fillQuery d acc.1
        split
        · split
          · exact query.trans .aside
          · exact query.trans .aside
          · exact query.trans (frozen_evaluate _ _ _)
        · exact .aside
    · exact .refl _

theorem frozen_testAll (g : Gallery) (ids : List Nat) (acc : Ev × List Candidate) : Frozen acc.1.st (Ev.testAll g ids acc).1.st := by
  induction ids generalizing acc with
  | nil => exact .refl _
  | cons id ids ih => exact (frozen_testOne g acc id).trans (ih _)

theorem grant_tgu (s : State) (g : Gallery) (slot : Nat) (d : Desc) (goal : Option Nat) : (s.grant g slot d goal).tgu = s.tgu := by
  obtain ⟨evu, monitors, grants, -⟩ := grant_eq s g slot d goal
  rw [grants]
  rfl

theorem frozen_scanGallery (g : Gallery) (e : Ev) : Frozen e.st (e.scanGallery g).st := by
  have tests := frozen_testAll g e.st.transferIds (e, [])
  unfold Ev.scanGallery
  split
  · dsimp only
    split
    · refine tests.trans (.aside ?_)
      rw [Ev.on_st, passOver_eq]
      exact grant_tgu _ _ _ _ _
    · exact tests
  · exact .refl _

theorem frozen_scans (n : Nat) (e : Ev) : Frozen e.st (e.scans n).st := by
  induction n generalizing e with
  | zero => exact .refl _
  | succ n ih =>
    unfold Ev.scans
    split
    · exact (frozen_scanGallery .a { e with scan := e.scan.set .a false }).trans (ih _)
    · split
      · exact (frozen_scanGallery .b { e with scan := e.scan.set .b false }).trans (ih _)
      · exact .refl _

end Sys2Proof.Machine
end

section
/-! SUPPORT. MODE_SET (O28): its checks, the mode that it takes, and the targets that LOADING holds. -/

set_option Elab.async false

namespace Sys2Proof.Machine

/-! ### The checks (R18) -/

theorem modeOfByte_eq_some {b : Byte} {m : Mode} (code : m.code = b.toNat) : Mode.ofByte b = some m := by
  unfold Mode.ofByte
  cases m <;> rw [← code] <;> rfl

theorem modeOfByte_eq_none {b : Byte} (beyond : 3 ≤ b.toNat) : Mode.ofByte b = none := by
  refine Option.eq_none_iff_forall_ne_some.mpr fun m named => ?_
  unfold Mode.ofByte at named
  split at named <;> cases named <;> omega

theorem exists_mode_code {k : Nat} (lt : k < 3) : ∃ m : Mode, m.code = k := by
  interval_cases k
  exacts [⟨.road, rfl⟩, ⟨.field, rfl⟩, ⟨.loading, rfl⟩]

section checks
variable {mode : Byte} {m : Mode} {e : Ev}

theorem modeSet_unknown (beyond : 3 ≤ mode.toNat) : Ev.modeSet mode e = (e, .refused .badFormat) := by
  unfold Ev.modeSet
  rw [modeOfByte_eq_none beyond]

theorem modeSet_named (code : m.code = mode.toNat) : Ev.modeSet mode e =
    if e.st.hlc.holder then (e, .refused .noAuthority)
    else if m = .loading ∧ e.st.tgu.mode ≠ .loading ∧ e.st.speedState ≠ .standstill then (e, .refused .speed)
    else if m = e.st.tgu.mode then (e, .plain)
    else (e.changeMode m, .plain) := by
  unfold Ev.modeSet
  rw [modeOfByte_eq_some code]

theorem modeSet_held (code : m.code = mode.toNat) (held : e.st.hlc.holder = true) : Ev.modeSet mode e = (e, .refused .noAuthority) :=
  (modeSet_named code).trans (if_pos held)

variable (free : e.st.hlc.holder = false)
include free

theorem modeSet_free (code : m.code = mode.toNat) : Ev.modeSet mode e =
    if m = .loading ∧ e.st.tgu.mode ≠ .loading ∧ e.st.speedState ≠ .standstill then (e, .refused .speed)
    else if m = e.st.tgu.mode then (e, .plain)
    else (e.changeMode m, .plain) :=
  (modeSet_named code).trans (if_neg (by rw [free]; exact Bool.false_ne_true))

theorem modeSet_moving (code : m.code = mode.toNat) (loading : m = .loading) (other : e.st.tgu.mode ≠ .loading)
    (moving : e.st.speedState ≠ .standstill) : Ev.modeSet mode e = (e, .refused .speed) :=
  (modeSet_free free code).trans (if_pos ⟨loading, other, moving⟩)

theorem modeSet_same (code : e.st.tgu.mode.code = mode.toNat) : Ev.modeSet mode e = (e, .plain) :=
  ((modeSet_free free code).trans (if_neg fun ⟨loading, other, _⟩ => other loading)).trans (if_pos rfl)

theorem modeSet_taken (code : m.code = mode.toNat) (other : m ≠ e.st.tgu.mode) (standing : m = .loading → e.st.speedState = .standstill) :
    Ev.modeSet mode e = (e.changeMode m, .plain) :=
  ((modeSet_free free code).trans (if_neg fun ⟨loading, _, moving⟩ => moving (standing loading))).trans (if_neg other)

end checks

/-! ### LOADING holds its targets (R19, R32) -/

theorem freezeTyres_get (s : State) (u : Tyre) :
    s.freezeTyres.tgu.tyres.get u = { s.tgu.tyres.get u with timer := none, pending := false } := by
  cases u <;> rfl

theorem freezeTyres_frozen {s : State} (loading : s.tgu.mode = .loading) : TyresFrozen s.freezeTyres := by
  refine ⟨loading, fun u => ?_⟩
  rw [freezeTyres_get]
  exact ⟨rfl, rfl⟩

theorem beaconSync_tgu (s : State) : s.beaconSync.tgu = s.tgu := by
  unfold State.beaconSync
  split
  · rfl
  · split <;> rfl

theorem heightMode_loading {e : Ev} (hold : Bool) (loading : e.st.tgu.mode = .loading) :
    e.heightMode hold = (e.on fun s => s.stopPersist.beaconSync, none) := by
  unfold Ev.heightMode
  refine if_pos ?_
  rw [Ev.on_st, beaconSync_tgu]
  exact loading

/-- A change of mode to LOADING freezes the tyres and moves the lift logic (R19, R130). -/
theorem changeMode_loading_frozen (e : Ev) : Frozen ((e.st.setMode .loading).freezeTyres) (e.changeMode .loading).st := by
  have same : (Mode.loading.basis e.st.tgu.basis != e.st.tgu.basis) = false := bne_self_eq_false _
  have mode : (((e.on fun s => s.setMode .loading).on State.freezeTyres).heightMode false) =
      (((e.on fun s => s.setMode .loading).on State.freezeTyres).on fun s => s.stopPersist.beaconSync, none) :=
    heightMode_loading false rfl
  have synced : Frozen ((e.st.setMode .loading).freezeTyres)
      (((e.on fun s => s.setMode .loading).on State.freezeTyres).on fun s => s.stopPersist.beaconSync).st := .aside (beaconSync_tgu _)
  have moved := synced.trans (frozen_liftMode_loading _)
  unfold Ev.changeMode
  dsimp only
  rw [same, if_pos rfl, mode]
  dsimp only
  split
  · rw [Ev.triggerBoth_st]
    exact moved
  · exact moved

theorem Queued.tgu {s t : State} (q : Queued s t) : t.tgu = s.tgu := by
  rw [show t = _ from q]

theorem request_tgu {s : State} {h : Hdr} {code : Nat} (p : Passes s h code) (c : Instr) (f : Ev → Ev × Answer) :
    (Machine.request c h code f noFrame s).tgu = ((f (Ev.of (s.heard h c))).1.scans scanBound).st.tgu := by
  rw [request_taken (by rw [p.run]; decide) (p.common c)]
  exact (queued_close _ _).tgu

/-- Settles O28. -/
theorem modeSetTakesMode : Obligations.ModeSetTakesMode := by
  intro s h mode p c r
  have hlc : r.hlc = s.hlc := heard_hlc s h c
  have tgu : r.tgu = s.tgu := heard_tgu s h c
  have speed : r.speedState = s.speedState := heard_speedState s h c
  have refused (code : Answer) (handled : Ev.modeSet mode (Ev.of r) = (Ev.of r, code)) :
      exec c s = .next (r.answered r h codeModeSet code) := congrArg Host.Outcome.next (p.same c (Ev.modeSet mode) rfl handled)
  refine ⟨fun beyond => refused _ (modeSet_unknown beyond), fun lt held => ?_, fun two free other moving => ?_, fun code free => ?_,
    fun m code other free standing => ?_⟩
  · obtain ⟨m, code⟩ := exists_mode_code lt
    exact refused _ (modeSet_held code ((congrArg Hlc.holder hlc).trans held))
  · refine refused _ (modeSet_moving (m := .loading) ((congrArg Hlc.holder hlc).trans free) (by rw [two]; rfl) rfl ?_ ?_)
    · rwa [Ev.of_st, tgu]
    · rwa [Ev.of_st, speed]
  · refine refused _ (modeSet_same ((congrArg Hlc.holder hlc).trans free) ?_)
    rw [Ev.of_st, tgu]
    exact code.symm
  · intro basis target
    have handled : Ev.modeSet mode (Ev.of r) = ((Ev.of r).changeMode m, .plain) := by
      refine modeSet_taken ((congrArg Hlc.holder hlc).trans free) code ?_ fun loading => speed.trans (standing loading)
      rwa [Ev.of_st, tgu]
    have fixed := p.fixed c (Ev.modeSet mode) noFrame
    have link := p.link c (Ev.modeSet mode) noFrame
    rw [show Ev.of (s.heard h c) = Ev.of r from rfl, handled] at fixed link
    have changed := changeMode_fixed m (Ev.of r)
    refine ⟨_, rfl, fixed.trans ?_, ?_, fun loading u => ?_⟩
    · rw [changed, Ev.of_st, tgu, hlc, show r.ws = s.ws from heard_ws s h c]
      cases m <;> rfl
    · unfold SameLink at link ⊢
      have kept : ((Ev.of r).changeMode m).st.lku = r.lku := congrArg Fixed.lku changed
      rwa [kept] at link
    · subst loading
      have frozen := ((changeMode_loading_frozen (Ev.of r)).trans (frozen_scans scanBound _)) (freezeTyres_frozen rfl)
      have done := request_tgu p c (Ev.modeSet mode)
      rw [show Ev.of (s.heard h c) = Ev.of r from rfl, handled] at done
      show (Machine.request c h codeModeSet (Ev.modeSet mode) noFrame s).tgu.tyres.get u = _
      rw [done, frozen, freezeTyres_get]
      exact congrArg (fun x : Tgu => { x.tyres.get u with timer := none, pending := false }) tgu

end Sys2Proof.Machine
end

section
/-! SUPPORT. The records that a CANCEL tears down (R71, R72): what becomes of each live record, of the free list and of the galleries. -/

set_option Elab.async false

namespace Sys2Proof.Machine

/-! ### What becomes of a selected record -/

/-- A selected record leaves the live list at once: a point, and a transfer in QUEUED or SETTLING (R72). -/
def LiveRec.leaves : LiveRec → Bool
  | .transfer d => d.state == .queued || d.state == .settling
  | .point _ => true

/-- A descriptor torn by a CANCEL in its place. -/
def Desc.tornDown (d : Desc) : Desc := { d with state := .closing, torn := some .cancel }

/-- What becomes of a live record when the records of a list are torn down: it leaves, it is torn in its place, or it stays as it is. -/
def fate (rs : List LiveRec) (l : LiveRec) : Option LiveRec :=
  if l ∈ rs then (if l.leaves = true then none else some (l.on Desc.tornDown)) else some l

/-- A gallery's record once its step is cut (R88, R92). -/
def GalleryRec.cut (x : GalleryRec) (closeT : Timer) : GalleryRec :=
  { x with flight := x.flight.map fun f => { f with ending := some .cut }, openT := none, stepT := none, closeT := closeT }

/-- What the teardown of a record does to a gallery's record. -/
def LiveRec.touch (closeT : Timer) (g : Gallery) (x : GalleryRec) : LiveRec → GalleryRec
  | .transfer d =>
    if d.kind.gallery = g then
      if d.state.airMoves = true then x.cut closeT else if d.state = .settling then x.idled else x
    else x
  | .point _ => x

/-- The teardown of a record shuts a gallery. -/
def LiveRec.shuts (g : Gallery) : LiveRec → Bool
  | .transfer d => d.kind.gallery == g && d.state.airMoves
  | .point _ => false

/-- What the teardown of a list of records leaves of the records, the free list and the galleries. -/
structure TornDown (rs : List LiveRec) (s t : State) : Prop where
  live : t.dqm.live = s.dqm.live.filterMap (fate rs)
  free : t.dqm.free = s.dqm.free ++ (rs.filter LiveRec.leaves).map LiveRec.id
  gallery : ∀ g, t.glc.galleries.get g = rs.foldl (LiveRec.touch (s.timer closeTime) g) (s.glc.galleries.get g)
  shut : ∀ g, ∀ r ∈ rs, r.shuts g = true → t.glc.valves.anyOpen g = false
  stays : ∀ g, s.glc.valves.anyOpen g = false → t.glc.valves.anyOpen g = false

/-! ### One record -/

theorem fate_single_other {r l : LiveRec} (other : l ≠ r) : fate [r] l = some l := if_neg fun mem => other (List.mem_singleton.1 mem)

theorem fate_single_same (r : LiveRec) : fate [r] r = if r.leaves = true then none else some (r.on Desc.tornDown) :=
  if_pos (List.mem_singleton_self r)

/-- A record that leaves the live list. -/
theorem filter_fate {s : State} (pool : PoolWhole s) {r : LiveRec} (mem : r ∈ s.dqm.live) (leaves : r.leaves = true) :
    s.dqm.live.filter (fun l => l.id != r.id) = s.dqm.live.filterMap (fate [r]) := by
  rw [← List.filterMap_eq_filter]
  refine List.filterMap_congr fun l inLive => ?_
  by_cases same : l = r
  · rw [same, fate_single_same, if_pos leaves]
    simp
  · have apart : l.id ≠ r.id := fun eq => same (pool.unique_rec inLive mem eq)
    rw [fate_single_other same]
    simp [apart]

/-- A transfer torn in its place. -/
theorem map_fate {s : State} (pool : PoolWhole s) {d : Desc} (mem : d ∈ s.transfers) (stays : (LiveRec.transfer d).leaves = false) {f : Desc → Desc}
    (here : f d = d.tornDown) (there : ∀ x, x.id ≠ d.id → f x = x) : s.dqm.live.map (LiveRec.on f) = s.dqm.live.filterMap (fate [.transfer d]) := by
  rw [← List.filterMap_eq_map]
  refine List.filterMap_congr fun l inLive => ?_
  by_cases same : l = .transfer d
  · rw [same, fate_single_same, if_neg (by rw [stays]; exact Bool.false_ne_true)]
    exact congrArg (some ∘ LiveRec.transfer) here
  · rw [fate_single_other same]
    cases l with
    | point p => rfl
    | transfer x =>
      exact congrArg (some ∘ LiveRec.transfer) (there x fun eq => same (congrArg _ (pool.unique (State.mem_transfers.2 inLive) mem eq)))

theorem tornDown_unlink {s t : State} (pool : PoolWhole s) {r : LiveRec} (mem : r ∈ s.dqm.live) (leaves : r.leaves = true) (dqm : t.dqm = (s.unlink r.id).dqm)
    (gallery : ∀ g, t.glc.galleries.get g = r.touch (s.timer closeTime) g (s.glc.galleries.get g)) (valves : t.glc.valves = s.glc.valves)
    (still : ∀ g, r.shuts g = false) : TornDown [r] s t where
  live := by
    rw [dqm]
    exact filter_fate pool mem leaves
  free := by
    rw [dqm, List.filter_cons_of_pos leaves]
    rfl
  gallery := gallery
  shut g x one shuts := by
    rw [List.mem_singleton.1 one, still g] at shuts
    cases shuts
  stays g closed := by rwa [valves]

theorem torn_point {e : Ev} (pool : PoolWhole e.st) {p : Point} (mem : .point p ∈ e.st.dqm.live) :
    TornDown [.point p] e.st ((e.on fun s => s.unlink p.id).triggerBoth).st := by
  rw [Ev.triggerBoth_st]
  exact tornDown_unlink pool mem rfl rfl (fun _ => rfl) rfl fun _ => rfl

theorem leaves_iff {d : Desc} : (LiveRec.transfer d).leaves = true ↔ d.state = .queued ∨ d.state = .settling := by
  unfold LiveRec.leaves
  rw [Bool.or_eq_true, beq_iff_eq, beq_iff_eq]

theorem leaves_closing {d : Desc} (state : d.state = .closing) : (LiveRec.transfer d).leaves = false :=
  Bool.eq_false_iff.2 fun leaves => by rcases leaves_iff.1 leaves with other | other <;> cases state.symm.trans other

theorem leaves_moving {d : Desc} (air : d.state.airMoves = true) : (LiveRec.transfer d).leaves = false :=
  Bool.eq_false_iff.2 fun leaves => by rcases leaves_iff.1 leaves with other | other <;> rw [other] at air <;> cases air

section touch
variable {d : Desc} (closeT : Timer) {g : Gallery} (x : GalleryRec)

theorem touch_other (other : d.kind.gallery ≠ g) : (LiveRec.transfer d).touch closeT g x = x := if_neg other

theorem touch_resting (still : d.state.airMoves = false) (unsettled : d.state ≠ .settling) : (LiveRec.transfer d).touch closeT g x = x := by
  by_cases here : d.kind.gallery = g
  · exact (if_pos here).trans ((if_neg (by rw [still]; exact Bool.false_ne_true)).trans (if_neg unsettled))
  · exact if_neg here

theorem touch_settling (state : d.state = .settling) (here : d.kind.gallery = g) : (LiveRec.transfer d).touch closeT g x = x.idled := by
  refine (if_pos here).trans ((if_neg ?_).trans (if_pos state))
  rw [state]
  decide

theorem touch_moving (air : d.state.airMoves = true) (here : d.kind.gallery = g) : (LiveRec.transfer d).touch closeT g x = x.cut closeT :=
  (if_pos here).trans (if_pos air)

theorem shuts_iff : (LiveRec.transfer d).shuts g = true ↔ d.kind.gallery = g ∧ d.state.airMoves = true := by
  unfold LiveRec.shuts
  rw [Bool.and_eq_true, beq_iff_eq]

theorem shuts_still (still : d.state.airMoves = false) : (LiveRec.transfer d).shuts g = false :=
  Bool.eq_false_iff.2 fun shuts => by
    rw [(shuts_iff.1 shuts).2] at still
    cases still

end touch

/-- A descriptor that stays, torn in its place, while the outputs are as they were. -/
theorem tornDown_closing {s : State} (pool : PoolWhole s) {d : Desc} (mem : d ∈ s.transfers) (state : d.state = .closing) :
    TornDown [.transfer d] s (s.modDesc d.id fun d => { d with torn := some .cancel }) := by
  have stays := leaves_closing state
  have still : d.state.airMoves = false := by rw [state]; rfl
  refine ⟨?_, ?_, fun g => (touch_resting _ _ still (by rw [state]; decide)).symm, fun g r one shuts => ?_, fun g closed => closed⟩
  · rw [modDesc_live]
    refine map_fate pool mem stays ((if_pos rfl).trans ?_) fun x other => if_neg other
    unfold Desc.tornDown
    rw [← state]
  · rw [List.filter_cons_of_neg (by rw [stays]; exact Bool.false_ne_true)]
    exact (List.append_nil _).symm
  · rw [List.mem_singleton.1 one, shuts_still still] at shuts
    cases shuts

/-- A descriptor whose step is cut, torn in its place (R72, R92). -/
theorem tornDown_moving {s : State} (w : Whole none s) {d : Desc} (mem : d ∈ s.transfers) (air : d.state.airMoves = true) :
    TornDown [.transfer d] s ((s.endStep d.kind.gallery .cut).modDesc d.id fun d => { d with torn := some .cancel }) := by
  have served := w.served_of mem (by rintro eq; rw [eq] at air; cases air) nofun
  have stays := leaves_moving air
  rw [State.endStep_eq .cut served air]
  refine ⟨?_, ?_, fun g => ?_, fun g r one shuts => ?_, fun g closed => ?_⟩
  · rw [modDesc_live, modDesc_live, map_on_on]
    refine map_fate w.pool mem stays ?_ fun x other => ?_
    · rw [if_pos rfl]
      exact if_pos rfl
    · rw [if_neg other]
      exact if_neg other
  · rw [List.filter_cons_of_neg (by rw [stays]; exact Bool.false_ne_true)]
    exact (List.append_nil _).symm
  · rw [State.modDesc_glc, State.modDesc_glc, State.modGallery_glc]
    by_cases here : g = d.kind.gallery
    · rw [here, PerGallery.get_modify]
      exact (touch_moving _ _ air rfl).symm
    · rw [PerGallery.get_modify_ne _ _ here]
      exact (touch_other _ _ fun eq => here eq.symm).symm
  · rw [List.mem_singleton.1 one] at shuts
    rw [← (shuts_iff.1 shuts).1]
    exact Valves.shut_same _ _
  · by_cases here : g = d.kind.gallery
    · rw [here]
      exact Valves.shut_same _ _
    · exact (Valves.shut_other _ here).trans closed

/-- The teardown of one live descriptor that is not torn (R72). -/
theorem torn_transfer {e : Ev} (w : Whole none e.st) {d : Desc} (mem : d ∈ e.st.transfers) (whole : d.torn = none) :
    TornDown [.transfer d] e.st (e.tearDown .cancel d).1.st ∧ (e.tearDown .cancel d).2 = (LiveRec.transfer d).leaves := by
  have torn : e.tearDown .cancel d = (e.endReports d .torn).takeDown .cancel d := if_neg (by rw [whole]; exact Bool.false_ne_true)
  have reported : (e.endReports d .torn).st = e.st := Ev.endReports_st _ _ _
  have inLive := State.mem_transfers.1 mem
  rw [torn]
  unfold Ev.takeDown
  cases state : d.state with
  | queued =>
    have leaves : (LiveRec.transfer d).leaves = true := leaves_iff.2 (.inl state)
    have still : d.state.airMoves = false := by rw [state]; rfl
    dsimp only
    rw [dropTransfer_st, reported]
    exact ⟨tornDown_unlink w.pool inLive leaves rfl (fun g => (touch_resting _ _ still (by rw [state]; decide)).symm) rfl
      fun g => shuts_still still, leaves.symm⟩
  | settling =>
    have leaves : (LiveRec.transfer d).leaves = true := leaves_iff.2 (.inr state)
    have still : d.state.airMoves = false := by rw [state]; rfl
    have deck := finishStep_deck d.kind.gallery (e.endReports d .torn)
    rw [reported] at deck
    dsimp only
    rw [dropTransfer_st]
    refine ⟨tornDown_unlink w.pool inLive leaves ?_ (fun g => ?_) (congrArg Glc.valves deck.glc :) fun g => shuts_still still, leaves.symm⟩
    · rw [State.unlink_dqm, deck.dqm]
      rfl
    · rw [State.unlink_glc, deck.glc, State.modGallery_glc]
      by_cases here : g = d.kind.gallery
      · rw [here, PerGallery.get_modify]
        exact (touch_settling _ _ state rfl).symm
      · rw [PerGallery.get_modify_ne _ _ here]
        exact (touch_other _ _ fun eq => here eq.symm).symm
  | closing =>
    dsimp only
    rw [Ev.on_st, reported]
    exact ⟨tornDown_closing w.pool mem state, (leaves_closing state).symm⟩
  | opening =>
    have air : d.state.airMoves = true := by rw [state]; rfl
    dsimp only
    rw [Ev.on_st, reported]
    exact ⟨tornDown_moving w mem air, (leaves_moving air).symm⟩
  | flowing =>
    have air : d.state.airMoves = true := by rw [state]; rfl
    dsimp only
    rw [Ev.on_st, reported]
    exact ⟨tornDown_moving w mem air, (leaves_moving air).symm⟩

/-! ### Several records -/

/-- No descriptor of a list of records is torn. -/
def NoneTorn (rs : List LiveRec) : Prop := ∀ d, LiveRec.transfer d ∈ rs → d.torn = none

theorem fate_bind {r l : LiveRec} {rs : List LiveRec} (fresh : NoneTorn rs) : (fate [r] l).bind (fate rs) = fate (r :: rs) l := by
  by_cases same : l = r
  · subst same
    rw [fate_single_same]
    have all : fate (l :: rs) l = if l.leaves = true then none else some (l.on Desc.tornDown) := if_pos List.mem_cons_self
    rw [all]
    by_cases leaves : l.leaves = true
    · rw [if_pos leaves]
      rfl
    · rw [if_neg leaves]
      refine if_neg fun again => ?_
      cases l with
      | point p => exact leaves rfl
      | transfer d => cases fresh _ again
  · rw [fate_single_other same]
    unfold fate
    simp only [Option.bind_some, List.mem_cons, same, false_or]

theorem TornDown.nil (s : State) : TornDown [] s s where
  live := ((List.filterMap_congr fun _ _ => if_neg List.not_mem_nil).trans List.filterMap_some).symm
  free := (List.append_nil _).symm
  gallery _ := rfl
  shut _ _ mem := nomatch mem
  stays _ closed := closed

theorem TornDown.cons {r : LiveRec} {rs : List LiveRec} {s t u : State} (h : TornDown [r] s t) (k : TornDown rs t u) (fresh : NoneTorn rs)
    (now : t.now = s.now) : TornDown (r :: rs) s u where
  live := by
    rw [k.live, h.live, List.filterMap_filterMap]
    exact List.filterMap_congr fun l _ => fate_bind fresh
  free := by
    rw [k.free, h.free, List.append_assoc, ← List.map_append, ← List.filter_append]
    rfl
  gallery g := by
    have timer : t.timer closeTime = s.timer closeTime := congrArg (fun n => some (Run.mk n closeTime)) now
    rw [k.gallery, h.gallery, timer]
    rfl
  shut g x mem shuts := by
    rcases List.mem_cons.1 mem with rfl | later
    · exact k.stays g (h.shut g x (List.mem_singleton_self x) shuts)
    · exact k.shut g x later shuts
  stays g closed := k.stays g (h.stays g closed)

/-- The teardown of the selected records of a whole pool (R72). -/
theorem cancelRecords_law {rs : List LiveRec} {e : Ev} (w : Whole none e.st) (sub : ∀ r ∈ rs, r ∈ e.st.dqm.live)
    (once : (rs.map LiveRec.id).Nodup) (fresh : NoneTorn rs) :
    TornDown rs e.st (Ev.cancelRecords rs e).1.st ∧ (Ev.cancelRecords rs e).2 = (rs.filter LiveRec.leaves).filterMap LiveRec.desc := by
  induction rs generalizing e with
  | nil => exact ⟨.nil _, rfl⟩
  | cons r rs ih =>
    rw [List.map_cons, List.nodup_cons] at once
    have inLive := sub r List.mem_cons_self
    have apart : ∀ q ∈ rs, q.id ≠ r.id := fun q mem eq => once.1 (List.mem_map.2 ⟨q, mem, eq⟩)
    have later : NoneTorn rs := fun d mem => fresh d (List.mem_cons_of_mem _ mem)
    cases r with
    | point p =>
      have first := torn_point w.pool inLive
      have left : Whole none ((e.on fun s => s.unlink p.id).triggerBoth).st := by
        rw [Ev.triggerBoth_st]
        refine (quiet_unlink e.st none (List.mem_map.2 ⟨_, inLive, rfl⟩) fun d mem eq => ?_ : Quiet none none e.st _) w |>.1
        cases w.pool.unique_rec (State.mem_transfers.1 mem) inLive eq
      obtain ⟨rest, freed⟩ := ih left (fun q mem => by
        rw [Ev.triggerBoth_st]
        exact List.mem_filter.2 ⟨sub q (List.mem_cons_of_mem _ mem), bne_iff_ne.2 (apart q mem)⟩) once.2 later
      exact ⟨first.cons rest later (by rw [Ev.triggerBoth_st]; rfl), freed⟩
    | transfer d =>
      have mem := State.mem_transfers.2 inLive
      obtain ⟨first, flag⟩ := torn_transfer w mem (fresh d List.mem_cons_self)
      obtain ⟨rest, freed⟩ := ih (quiet_tearDown .cancel d e mem w).1
        (fun q inRest => Ev.tearDown_keeps w mem (sub q (List.mem_cons_of_mem _ inRest)) (apart q inRest)) once.2 later
      refine ⟨first.cons rest later (congrArg Fixed.now (Ev.tearDown_fixed .cancel d e)), ?_⟩
      unfold Ev.cancelRecords
      dsimp only
      rw [flag, freed, List.filter_cons]
      split <;> rfl

/-! ### The galleries of several records -/

/-- A descriptor whose teardown touches its gallery: its step is cut, or it is settling. -/
def Desc.flies (d : Desc) : Prop := d.state.airMoves = true ∨ d.state = .settling

theorem Desc.flies.flight {d : Desc} (flies : d.flies) : d.state ≠ .queued := by
  rintro queued
  unfold Desc.flies at flies
  rw [queued] at flies
  revert flies
  decide

theorem touch_grounded {d : Desc} (closeT : Timer) {g : Gallery} (x : GalleryRec) (grounded : d.kind.gallery = g → ¬ d.flies) :
    (LiveRec.transfer d).touch closeT g x = x := by
  by_cases here : d.kind.gallery = g
  · exact touch_resting closeT x (Bool.eq_false_iff.2 fun air => grounded here (.inl air)) fun settling => grounded here (.inr settling)
  · exact touch_other closeT x here

theorem foldl_touch_same {rs : List LiveRec} (closeT : Timer) {g : Gallery}
    (grounded : ∀ d, LiveRec.transfer d ∈ rs → d.kind.gallery = g → ¬ d.flies) (x : GalleryRec) : rs.foldl (LiveRec.touch closeT g) x = x := by
  induction rs with
  | nil => rfl
  | cons r rs ih =>
    have head : r.touch closeT g x = x := by
      cases r with
      | point p => rfl
      | transfer d => exact touch_grounded closeT x (grounded d List.mem_cons_self)
    rw [List.foldl_cons, head]
    exact ih fun d mem => grounded d (List.mem_cons_of_mem _ mem)

/-- At most one live descriptor flies on a gallery (R75). -/
theorem flies_unique {s : State} (w : Whole none s) {d x : Desc} (mem : d ∈ s.transfers) (mem' : x ∈ s.transfers) (flies : d.flies) (flies' : x.flies)
    (same : x.kind.gallery = d.kind.gallery) : x = d := by
  have served := w.served_of mem flies.flight nofun
  have served' := w.served_of mem' flies'.flight nofun
  rw [same] at served'
  exact Option.some.inj (served'.symm.trans served)

theorem foldl_touch_one {s : State} (w : Whole none s) {rs : List LiveRec} (sub : ∀ r ∈ rs, r ∈ s.dqm.live) (once : (rs.map LiveRec.id).Nodup)
    (closeT : Timer) {d : Desc} (mem : LiveRec.transfer d ∈ rs) (flies : d.flies) (x : GalleryRec) :
    rs.foldl (LiveRec.touch closeT d.kind.gallery) x = (LiveRec.transfer d).touch closeT d.kind.gallery x := by
  have live := State.mem_transfers.2 (sub _ mem)
  induction rs with
  | nil => exact nomatch mem
  | cons r rs ih =>
    rw [List.map_cons, List.nodup_cons] at once
    have subs : ∀ q ∈ rs, q ∈ s.dqm.live := fun q mem => sub q (List.mem_cons_of_mem _ mem)
    rw [List.foldl_cons]
    rcases List.mem_cons.1 mem with rfl | later
    · refine foldl_touch_same closeT (fun x inRest same flies' => ?_) _
      obtain rfl := flies_unique w live (State.mem_transfers.2 (subs _ inRest)) flies flies' same
      exact once.1 (List.mem_map_of_mem inRest)
    · have head : r.touch closeT d.kind.gallery x = x := by
        cases r with
        | point p => rfl
        | transfer y =>
          refine touch_grounded closeT x fun same flies' => ?_
          obtain rfl := flies_unique w live (State.mem_transfers.2 (sub _ List.mem_cons_self)) flies flies' same
          exact once.1 (List.mem_map_of_mem later)
      rw [head]
      exact ih subs once.2 later

end Sys2Proof.Machine
end

section
/-! SUPPORT. What the scans of an event leave of a gallery with a step in flight, and of the lift logic while no LIFT descriptor is live (O37). -/

set_option Elab.async false

namespace Sys2Proof.Machine

/-- No LIFT descriptor is live. -/
def NoLift (s : State) : Prop := ∀ d ∈ s.transfers, d.cls ≠ .lift

/-- A gallery with a step in flight keeps its record and its outputs; and with no LIFT descriptor live, none comes, and lift state and aim
stay. -/
structure Scanned (s t : State) : Prop where
  gallery : ∀ g, s.idle g = false → t.glc.galleries.get g = s.glc.galleries.get g
  outputs : ∀ g, s.idle g = false → t.glc.valves.anyOpen g = s.glc.valves.anyOpen g
  none : NoLift s → NoLift t
  lift : NoLift s → t.llu.lift = s.llu.lift ∧ t.llu.aim = s.llu.aim

theorem Scanned.trans {s t u : State} (h : Scanned s t) (k : Scanned t u) : Scanned s u := by
  have idle (g : Gallery) (busy : s.idle g = false) : t.idle g = false := by
    unfold State.idle at *
    rwa [h.gallery g busy]
  refine ⟨fun g busy => (k.gallery g (idle g busy)).trans (h.gallery g busy), fun g busy => (k.outputs g (idle g busy)).trans (h.outputs g busy),
    fun no => k.none (h.none no), fun no => ?_⟩
  obtain ⟨lift, aim⟩ := h.lift no
  obtain ⟨lift', aim'⟩ := k.lift (h.none no)
  exact ⟨lift'.trans lift, aim'.trans aim⟩

theorem Scanned.of_glc {s t : State} (glc : t.glc = s.glc) (none : NoLift s → NoLift t)
    (lift : NoLift s → t.llu.lift = s.llu.lift ∧ t.llu.aim = s.llu.aim) : Scanned s t :=
  ⟨fun g _ => by rw [glc], fun g _ => by rw [glc], none, lift⟩

/-- Nothing of the records, the galleries, the lift state and the aim changes. -/
structure Calmed (s t : State) : Prop where
  dqm : t.dqm = s.dqm
  glc : t.glc = s.glc
  lift : t.llu.lift = s.llu.lift
  aim : t.llu.aim = s.llu.aim

theorem Calmed.refl (s : State) : Calmed s s := ⟨rfl, rfl, rfl, rfl⟩

theorem Calmed.trans {s t u : State} (h : Calmed s t) (k : Calmed t u) : Calmed s u :=
  ⟨k.dqm.trans h.dqm, k.glc.trans h.glc, k.lift.trans h.lift, k.aim.trans h.aim⟩

theorem Calmed.transfers {s t : State} (h : Calmed s t) : t.transfers = s.transfers := congrArg (fun q => State.transfers { s with dqm := q }) h.dqm

theorem Calmed.scanned {s t : State} (h : Calmed s t) : Scanned s t := by
  refine .of_glc h.glc (fun no => ?_) fun _ => ⟨h.lift, h.aim⟩
  unfold NoLift
  rwa [h.transfers]

theorem Scanned.refl (s : State) : Scanned s s := (Calmed.refl s).scanned

theorem calmed_latch (e : Ev) (k : EventKind) (ns : List Node) : Calmed e.st (Ev.latch k ns e).st := by
  rw [Ev.latch_st]
  exact ⟨rfl, rfl, rfl, rfl⟩

theorem calmed_flagFault (n : Node) (e : Ev) : Calmed e.st (e.flagFault n).st := by
  refine Calmed.trans ?_ (calmed_latch _ .nodeFault [n])
  rw [Ev.on_st]
  unfold State.resetMonitorOf
  split <;> exact ⟨rfl, rfl, rfl, rfl⟩

/-! ### The fault of a node that no live descriptor names (R136) -/

/-- No live descriptor names the node. -/
def Unnamed (s : State) (m : Managed) : Prop := ∀ d ∈ s.transfers, m ∉ d.nodes

theorem Unnamed.calmed {s t : State} {m : Managed} (unnamed : Unnamed s m) (c : Calmed s t) : Unnamed t m := by
  unfold Unnamed
  rwa [c.transfers]

theorem descOf_unnamed {s : State} {m : Managed} (unnamed : Unnamed s m) : s.descOf m = none := by
  cases found : s.descOf m with
  | none => rfl
  | some d =>
    obtain ⟨mem, named⟩ := State.mem_of_findDesc found
    exact absurd (List.contains_iff_mem.1 named) (unnamed d mem)

/-- A bellows that no descriptor names: none is of the class HEIGHT. -/
theorem descOfClass_unnamed {s : State} (shaped : AllShaped s) {m : Managed} (bellows : m = .bll ∨ m = .blr) (unnamed : Unnamed s m) :
    s.descOfClass .height = none := by
  cases found : s.descOfClass .height with
  | none => rfl
  | some d =>
    obtain ⟨mem, cls⟩ := State.mem_of_findDesc found
    have names := (shaped d mem).names
    rw [beq_iff_eq.1 cls] at names
    have nodes : d.nodes = [.bll, .blr] := names
    have named := unnamed d mem
    rw [nodes] at named
    rcases bellows with rfl | rfl <;> exact absurd (by decide) named

theorem calmed_addCause (x : Lockout) {e : Ev} (none : e.st.descOfClass .height = none) : Calmed e.st (e.addCause x).st := by
  unfold Ev.addCause
  dsimp only
  split
  · exact ⟨rfl, rfl, rfl, rfl⟩
  · have still : ((e.on fun s => { s with hlc.lockout := x }).on fun s => s.stopPersist.setHeightPending false).st.descOfClass .height = .none := none
    rw [still]
    exact ⟨rfl, rfl, rfl, rfl⟩

theorem calmed_faultOwner {m : Managed} {e : Ev} (shaped : AllShaped e.st) (unnamed : Unnamed e.st m) : Calmed e.st (e.faultOwner m).st := by
  have bellows (held : Bool) (x : Lockout) (which : m = .bll ∨ m = .blr) : Calmed e.st (if held then e else e.addCause x).st := by
    split
    · exact .refl _
    · exact calmed_addCause x (descOfClass_unnamed shaped which unnamed)
  unfold Ev.faultOwner
  split
  · exact bellows _ _ (.inl rfl)
  · exact bellows _ _ (.inr rfl)
  · exact ⟨rfl, rfl, rfl, rfl⟩
  · split
    · exact ⟨rfl, rfl, rfl, rfl⟩
    · exact .refl _

theorem calmed_faultNode {m : Managed} {e : Ev} (shaped : AllShaped e.st) (unnamed : Unnamed e.st m) : Calmed e.st (e.faultNode m.node).st := by
  have flagged := calmed_flagFault m.node e
  have managed : m.node.managed = some m := by cases m <;> rfl
  unfold Ev.faultNode
  split
  · exact .refl _
  · have kept : (e.flagFault m.node).faultDescriptor m = e.flagFault m.node := by
      unfold Ev.faultDescriptor
      rw [descOf_unnamed (unnamed.calmed flagged)]
    rw [managed]
    dsimp only
    rw [kept]
    refine flagged.trans (calmed_faultOwner ?_ (unnamed.calmed flagged))
    unfold AllShaped
    rwa [flagged.transfers]

theorem calmed_faultNodes (ms : List Managed) {e : Ev} (shaped : AllShaped e.st) (unnamed : ∀ m ∈ ms, Unnamed e.st m) :
    Calmed e.st (Ev.faultNodes ms e).st := by
  induction ms generalizing e with
  | nil => exact .refl _
  | cons m ms ih =>
    have first := calmed_faultNode shaped (unnamed m List.mem_cons_self)
    refine first.trans (ih ?_ fun n mem => (unnamed n (List.mem_cons_of_mem _ mem)).calmed first)
    unfold AllShaped
    rwa [first.transfers]

/-! ### The freeing and the requeue of a descriptor -/

theorem noLift_map {s t : State} {f : Desc → Desc} (transfers : t.transfers = s.transfers.map f) (cls : ∀ d ∈ s.transfers, (f d).cls = d.cls)
    (no : NoLift s) : NoLift t := by
  intro d mem
  rw [transfers] at mem
  obtain ⟨x, inLive, rfl⟩ := List.mem_map.1 mem
  rw [cls x inLive]
  exact no x inLive

theorem noLift_putDesc {s : State} {d' : Desc} (plain : d'.cls ≠ .lift) (no : NoLift s) : NoLift (s.putDesc d') := by
  intro d mem
  unfold State.putDesc at mem
  rw [State.modDesc_transfers] at mem
  obtain ⟨x, inLive, rfl⟩ := List.mem_map.1 mem
  split
  · exact plain
  · exact no x inLive

theorem flagFault_glc (n : Node) (e : Ev) : (e.flagFault n).st.glc = e.st.glc := (calmed_flagFault n e).glc

theorem liftStall_glc (x : Ending) (e : Ev) : (e.liftStall x).st.glc = e.st.glc := by
  unfold Ev.liftStall
  split
  · exact flagFault_glc .lft e
  · rfl

theorem giveUp_glc (failed : Bool) (e : Ev) : (if failed then e.on fun s => s.setAim false else e).st.glc = e.st.glc := by
  split <;> rfl

theorem liftFreed_glc (x : Ending) (e : Ev) : (e.liftFreed x).st.glc = e.st.glc :=
  (liftDecide_glc .auto _).trans ((liftStall_glc x _).trans ((giveUp_glc _ _).trans (setLift_glc _ e)))

theorem ownerFreed_glc (d : Desc) (x : Ending) (e : Ev) : (e.ownerFreed d x).st.glc = e.st.glc := by
  unfold Ev.ownerFreed
  split
  · exact liftFreed_glc x e
  · rfl
  · rfl

theorem ownerFreed_plain {d : Desc} (plain : d.cls ≠ .lift) (x : Ending) (e : Ev) : e.ownerFreed d x = e := by
  unfold Ev.ownerFreed
  cases cls : d.cls with
  | lift => exact absurd cls plain
  | tyre => rfl
  | height => rfl

theorem scanned_unlinkTransfer (d : Desc) (x : Ending) (e : Ev) : Scanned e.st (e.unlinkTransfer d x).st := by
  rw [unlinkTransfer_st]
  refine .of_glc rfl (fun no y mem => ?_) fun _ => ⟨rfl, rfl⟩
  rw [freed_transfers] at mem
  exact no y (List.mem_filter.1 mem).1

/-- The owner of a live descriptor told of its freeing: with no LIFT descriptor live there is nothing to tell. -/
theorem scanned_ownerFreed {s : State} {d : Desc} (x : Ending) {e : Ev} (freed : Scanned s e.st) (live : NoLift s → d.cls ≠ .lift) :
    Scanned s (e.ownerFreed d x).st := by
  have glc := ownerFreed_glc d x e
  refine ⟨fun g busy => ?_, fun g busy => ?_, fun no => ?_, fun no => ?_⟩
  · rw [glc]
    exact freed.gallery g busy
  · rw [glc]
    exact freed.outputs g busy
  · rw [ownerFreed_plain (live no)]
    exact freed.none no
  · rw [ownerFreed_plain (live no)]
    exact freed.lift no

theorem scanned_freeTransfer {d : Desc} {e : Ev} (mem : d ∈ e.st.transfers) (x : Ending) : Scanned e.st (e.freeTransfer d x).st :=
  scanned_ownerFreed x (scanned_unlinkTransfer d x e) fun no => no d mem

theorem scanned_requeue {d : Desc} {e : Ev} (mem : d ∈ e.st.transfers) : Scanned e.st (e.requeue d).st := by
  unfold Ev.requeue
  rw [Ev.triggerBoth_st]
  refine .of_glc (by rw [testPoints_st]; rfl) (fun no y inLive => ?_) fun _ => by rw [testPoints_st]; exact ⟨rfl, rfl⟩
  rw [testPoints_transfers] at inLive
  exact noLift_putDesc (d' := { d with state := .queued, kind := e.st.requeueKind d, stepGoal := none, start := none, wait := .clear })
    (no d mem) no y inLive

theorem scanned_applyPending {d : Desc} {e : Ev} (mem : d ∈ e.st.transfers) : Scanned e.st (e.applyPending d).1.st := by
  unfold Ev.applyPending
  split
  · next p _ =>
    rw [Ev.on_st, Ev.completion_st]
    exact .of_glc rfl (fun no => noLift_putDesc (d' := d.applied p) (no d mem) no) fun _ => ⟨rfl, rfl⟩
  · exact .refl _

section evaluated
variable {d : Desc} {e : Ev} (w : Whole none e.st) (mem : d ∈ e.st.transfers)
include w mem

/-- Once a descriptor is off the live list no other names its nodes (R59). -/
theorem unnamed_unlinked (x : Ending) : ∀ m ∈ d.nodes, Unnamed (e.unlinkTransfer d x).st m := by
  intro m named y inLive named'
  rw [unlinkTransfer_st, freed_transfers] at inLive
  obtain ⟨live, other⟩ := List.mem_filter.1 inLive
  have symm : Std.Symm fun a b : Desc => ∀ m ∈ a.nodes, m ∉ b.nodes := ⟨fun a b apart m inB inA => apart m inA inB⟩
  refine List.Pairwise.forall w.nodes mem live ?_ m named named'
  rintro rfl
  exact bne_iff_ne.1 other rfl

theorem scanned_judge : Scanned e.st (e.judge d).st := by
  unfold Ev.judge
  split
  · have shaped : AllShaped (e.unlinkTransfer d .faulted).st := fun y inLive => by
      rw [unlinkTransfer_st, freed_transfers] at inLive
      exact w.shaped y (List.mem_filter.1 inLive).1
    have calmed := calmed_faultNodes d.nodes shaped (unnamed_unlinked w mem .faulted)
    exact scanned_ownerFreed .faulted ((scanned_unlinkTransfer d .faulted e).trans calmed.scanned) fun no => no d mem
  · split
    · have latched := calmed_latch e .stalled (d.nodes.map Managed.node)
      refine latched.scanned.trans (scanned_freeTransfer ?_ .stalled)
      rwa [latched.transfers]
    · exact scanned_requeue mem

end evaluated

/-- The evaluation of a queued descriptor at a NO_FILL answer (R89). -/
theorem scanned_evaluate {e : Ev} (w : Whole none e.st) {id : Nat} {d : Desc} (found : e.st.descAt id = some d) :
    Scanned e.st (e.evaluate id none).st := by
  have mem := (State.mem_of_descAt found).1
  have applied := scanned_applyPending mem
  have w' := (quiet_applyPending d e none mem w).1
  have mem' := (applyPending_live mem).1
  unfold Ev.evaluate
  rw [found]
  dsimp only
  split
  · exact applied.trans (scanned_freeTransfer mem' .sensor)
  · split
    · exact applied.trans (scanned_freeTransfer mem' .complete)
    · exact applied.trans (scanned_judge w' mem')

/-! ### The scans -/

theorem scanned_setWait (s : State) (id : Nat) (x : Wait) : Scanned s (s.setWait id x) := by
  refine .of_glc rfl (noLift_map (State.modDesc_transfers s id _) fun d _ => ?_) fun _ => ⟨rfl, rfl⟩
  split <;> rfl

theorem calmed_fillQuery (d : Desc) (e : Ev) : Calmed e.st (e.fillQuery d).1.st := by
  unfold Ev.fillQuery
  dsimp only
  split
  · exact .refl _
  · exact calmed_latch e _ _

theorem scanned_testOne (g : Gallery) {acc : Ev × List Candidate} (w : Whole none acc.1.st) (id : Nat) : Scanned acc.1.st (Ev.testOne g acc id).1.st := by
  unfold Ev.testOne
  dsimp only
  split
  · exact .refl _
  · next d found =>
    split
    · split
      · exact scanned_setWait _ _ _
      · have query := calmed_fillQuery d acc.1
        split
        · split
          · exact query.scanned.trans (scanned_setWait _ _ _)
          · exact query.scanned.trans (scanned_setWait _ _ _)
          · refine query.scanned.trans (scanned_evaluate (d := d) ((same_fillQuery d acc.1).quiet none w).1 ?_)
            unfold State.descAt State.findDesc at *
            rwa [query.dqm]
        · exact scanned_setWait _ _ _
    · exact .refl _

theorem scanned_testAll (g : Gallery) (ids : List Nat) {acc : Ev × List Candidate} (w : Whole none acc.1.st)
    (ok : ∀ c ∈ acc.2, CandidateOk acc.1.st g c) : Scanned acc.1.st (Ev.testAll g ids acc).1.st := by
  induction ids generalizing acc with
  | nil => exact .refl _
  | cons id ids ih =>
    obtain ⟨quiet, ok'⟩ := testOne_law g acc id ok
    exact (scanned_testOne g w id).trans (ih (quiet w).1 ok')

theorem scanned_passOver (granted : Nat) (cs : List Candidate) (s : State) : Scanned s (s.passOver granted cs) := by
  rw [passOver_eq]
  refine .of_glc rfl (noLift_map (map_on_transfers rfl) fun d _ => ?_) fun _ => ⟨rfl, rfl⟩
  unfold Desc.passed
  split <;> rfl

/-- A grant touches its own gallery alone. -/
theorem scanned_grant {s : State} {g : Gallery} {d : Desc} (mem : d ∈ s.transfers) (here : d.kind.gallery = g)
    (slot : Nat) (goal : Option Nat) : (∀ g', g' ≠ g → (s.grant g slot d goal).glc.galleries.get g' = s.glc.galleries.get g' ∧
      (s.grant g slot d goal).glc.valves.anyOpen g' = s.glc.valves.anyOpen g') ∧ (NoLift s → NoLift (s.grant g slot d goal)) ∧
      (s.grant g slot d goal).llu.lift = s.llu.lift ∧ (s.grant g slot d goal).llu.aim = s.llu.aim := by
  obtain ⟨evu, monitors, grants, -⟩ := grant_eq s g slot d goal
  rw [grants]
  refine ⟨fun g' other => ⟨PerGallery.get_set_ne _ _ other, Valves.openStep_other _ _ _ (by rwa [here])⟩,
    fun no => noLift_putDesc (d' := s.openedDesc d goal) (no d mem) no, ?_, ?_⟩
  · dsimp only
    split <;> rfl
  · dsimp only
    split <;> rfl

theorem scanned_scanGallery (g : Gallery) {e : Ev} (w : Whole none e.st) : Scanned e.st (e.scanGallery g).st := by
  have fresh : ∀ c ∈ ([] : List Candidate), CandidateOk e.st g c := fun c mem => nomatch mem
  obtain ⟨-, ok⟩ := testAll_law g e.st.transferIds (e, []) fresh
  have tests := scanned_testAll g e.st.transferIds (acc := (e, [])) w fresh
  unfold Ev.scanGallery
  by_cases idle : e.st.idle g = true
  · rw [if_pos idle]
    generalize Ev.testAll g e.st.transferIds (e, []) = acc at *
    have apart (g' : Gallery) (busy : e.st.idle g' = false) : g' ≠ g := by
      rintro rfl
      rw [idle] at busy
      cases busy
    dsimp only
    split
    · next slot c found =>
      obtain ⟨inAll, stands⟩ := List.mem_filter.1 (walkSlots_mem found)
      have mem := (State.mem_of_descAt (beq_iff_eq.1 stands)).1
      obtain ⟨others, none, lift, aim⟩ := scanned_grant mem (ok c inAll).2.1 slot c.goal
      have granted : Scanned e.st (acc.1.st.grant g slot c.desc c.goal) := by
        refine ⟨fun g' busy => ?_, fun g' busy => ?_, fun no => none (tests.none no), fun no => ?_⟩
        · exact (others g' (apart g' busy)).1.trans (tests.gallery g' busy)
        · exact (others g' (apart g' busy)).2.trans (tests.outputs g' busy)
        · exact ⟨lift.trans (tests.lift no).1, aim.trans (tests.lift no).2⟩
      exact granted.trans (scanned_passOver _ _ _)
    · exact tests
  · rw [if_neg idle]
    exact .refl _

theorem scanned_scans (n : Nat) {e : Ev} (w : Whole none e.st) (r : Restrained e.st) : Scanned e.st (e.scans n).st := by
  induction n generalizing e with
  | zero => exact .refl _
  | succ n ih =>
    have next (g : Gallery) : Scanned e.st ((Ev.scanGallery g { e with scan := e.scan.set g false }).scans n).st := by
      obtain ⟨w', r'⟩ := scanGallery_law g { e with scan := e.scan.set g false } w r
      exact (scanned_scanGallery g (e := { e with scan := e.scan.set g false }) w).trans (ih w' r')
    unfold Ev.scans
    split
    · exact next .a
    · split
      · exact next .b
      · exact .refl _

end Sys2Proof.Machine
end

section
/-! SUPPORT. CANCEL (O37): its checks, the state that a teardown leaves, and what follows for a LIFT descriptor. -/

set_option Elab.async false

namespace Sys2Proof.Machine

/-! ### A recomputation brings no LIFT descriptor -/

theorem noLift_ask {a : Ask} (plain : a.cls ≠ .lift) {e : Ev} (no : NoLift e.st) : NoLift (e.ask a).1.st := by
  unfold Ev.ask
  split
  · next d shares =>
    have mem := (State.descSharing_some shares).1
    split
    · dsimp only
      unfold NoLift
      rwa [refuse_transfers]
    · split
      · dsimp only
        unfold NoLift
        rw [mergeQueued_transfers]
        exact noLift_putDesc (d' := d.merged a _) (no d mem) no
      · dsimp only
        rw [mergePending_st]
        exact noLift_putDesc (no d mem) no
  · unfold Ev.allocate
    split
    · dsimp only
      unfold NoLift
      rwa [refuse_transfers]
    · split
      · dsimp only
        unfold NoLift
        rwa [refuse_transfers]
      · dsimp only
        rw [Ev.triggerBoth_st, Ev.on_st]
        unfold NoLift State.transfers
        rw [becameLive_dqm, List.filterMap_append]
        intro d mem
        rcases List.mem_append.1 mem with old | new
        · exact no d old
        · obtain rfl := List.mem_singleton.1 (show d ∈ [a.record _ _] from new)
          exact plain

theorem noLift_askTyre (u : Tyre) {e : Ev} (no : NoLift e.st) : NoLift (e.askTyre u).st := by
  have asked := noLift_ask (a := e.st.tyreAsk u (e.st.tgu.tyres.get u).target .auto) nofun no
  unfold Ev.askTyre
  dsimp only
  split
  · exact asked
  · exact asked

theorem noLift_retargeted (c : Cause) (u : Tyre) (old new : Nat) {e : Ev} (no : NoLift e.st) : NoLift (e.retargeted c u old new).st := by
  unfold Ev.retargeted
  split
  · exact noLift_askTyre u no
  · split
    · exact noLift_askTyre u (e := e.on fun s => s.setTyreTimer u none) no
    · exact no

theorem noLift_recompute (c : Cause) (u : Tyre) {e : Ev} (no : NoLift e.st) : NoLift (e.recompute c u).st := by
  unfold Ev.recompute
  split
  · exact no
  · dsimp only
    split
    · exact noLift_retargeted c u _ _ (e := e.on fun s => s.setTarget u _) no
    · exact no

theorem noLift_recomputeList (c : Cause) (us : List Tyre) {e : Ev} (no : NoLift e.st) : NoLift (e.recomputeList c us).st := by
  induction us generalizing e with
  | nil => exact no
  | cons u us ih => exact ih (noLift_recompute c u no)

theorem noLift_loadFollow (us : List Tyre) {e : Ev} (no : NoLift e.st) : NoLift (e.loadFollow us).st := by
  unfold Ev.loadFollow
  split
  · exact no
  · exact noLift_recomputeList _ _ (e := e.on fun s => { s with tgu.followed := true }) no

theorem noLift_setLift (x : LiftState) {e : Ev} (no : NoLift e.st) : NoLift (e.setLift x).st := by
  unfold Ev.setLift
  dsimp only
  split
  · exact no
  · refine noLift_loadFollow _ ?_
    rw [Ev.on_st]
    split
    · exact no
    · exact no

/-! ### A LIFT transfer freed TORN where the lift decision asks for nothing after it (R127, R128) -/

theorem liftAfter_torn (s : State) : s.liftAfter .torn = if s.bagHolds then .lifted else .lowered := by
  unfold State.liftAfter
  cases s.llu.lift <;> rfl

theorem liftStall_torn (e : Ev) : e.liftStall .torn = e := rfl

/-- The state of the lift logic before its decision, once a LIFT transfer is freed TORN. -/
def Ev.liftTorn (e : Ev) : Ev :=
  (if e.st.llu.lift == .lifting then (e.setLift (e.st.liftAfter .torn)).on fun s => s.setAim false else e.setLift (e.st.liftAfter .torn)).on
    State.liftTimerTest

theorem liftFreed_torn (e : Ev) : e.liftFreed .torn = (e.liftTorn.liftDecide .auto).1 := rfl

theorem liftTorn_llu (e : Ev) : e.liftTorn.st.llu.lift = e.st.liftAfter .torn ∧
    e.liftTorn.st.llu.aim = (e.st.llu.lift != .lifting && e.st.llu.aim) := by
  have lifted := setLift_llu (e.st.liftAfter .torn) e
  unfold Ev.liftTorn
  cases lifting : e.st.llu.lift == .lifting with
  | true =>
    rw [if_pos rfl, bne, lifting]
    exact ⟨congrArg Llu.lift lifted, rfl⟩
  | false =>
    rw [if_neg Bool.false_ne_true, bne, lifting]
    exact ⟨congrArg Llu.lift lifted, (congrArg Llu.aim lifted :)⟩

theorem noLift_liftTorn {e : Ev} (no : NoLift e.st) : NoLift e.liftTorn.st := by
  have lifted := noLift_setLift (e.st.liftAfter .torn) no
  unfold Ev.liftTorn
  split
  · exact lifted
  · exact lifted

theorem liftTorn_pressure (e : Ev) : e.liftTorn.st.pressure .lft = e.st.pressure .lft := by
  have msu : e.liftTorn.st.msu = e.st.msu := by
    have fixed := Ev.setLift_fixed (e.st.liftAfter .torn) e
    unfold Ev.liftTorn
    split
    · exact congrArg Fixed.msu fixed
    · exact congrArg Fixed.msu fixed
  unfold State.pressure
  rw [msu]

/-- The aim that the lift logic has is met by the bag: nothing is asked (R127). -/
def BagAgrees (s : State) (aim : Bool) : Prop := (s.bagHolds = true ∧ aim = true) ∨ (s.bagEmpty = true ∧ aim = false)

theorem liftTable_agrees {s : State} {aim : Bool} (lift : s.llu.lift = if s.bagHolds then .lifted else .lowered) (agrees : BagAgrees s aim) :
    s.liftTable aim = none := by
  unfold State.liftTable
  unfold BagAgrees at agrees
  unfold State.bagHolds at lift agrees
  unfold State.bagEmpty at agrees
  rw [lift]
  cases bag : s.pressure .lft with
  | none =>
    rw [bag] at agrees
    rcases agrees with ⟨holds, -⟩ | ⟨empty, -⟩
    · cases holds
    · cases empty
  | some g =>
    rw [bag] at agrees
    dsimp only
    rcases agrees with ⟨holds, rfl⟩ | ⟨empty, rfl⟩
    · have above : 430 ≤ g := of_decide_eq_true holds
      rw [if_pos holds]
      exact if_neg fun ⟨_, below⟩ => absurd above (Nat.not_le.2 below)
    · have low : g ≤ 20 := of_decide_eq_true empty
      rw [if_neg (show ¬ holdsOf (some g) (fun g => decide (liftHeld ≤ g)) = true from fun holds => by
        have above : 430 ≤ g := of_decide_eq_true holds
        omega)]
      exact if_neg fun ⟨_, above⟩ => absurd low (Nat.not_le.2 above)

theorem liftTorn_faulted {e : Ev} (faulted : e.st.faulted .lft = true) : e.liftTorn.st.faulted .lft = true := by
  have lifted := (grows_setLift false (e.st.liftAfter .torn) e).faults rfl .lft faulted
  unfold Ev.liftTorn
  split
  · exact lifted
  · exact lifted

theorem bagHolds_congr {s t : State} (same : t.pressure .lft = s.pressure .lft) : t.bagHolds = s.bagHolds := by
  unfold State.bagHolds
  rw [same]

theorem bagEmpty_congr {s t : State} (same : t.pressure .lft = s.pressure .lft) : t.bagEmpty = s.bagEmpty := by
  unfold State.bagEmpty
  rw [same]

/-- A LIFT transfer freed TORN, with LFT faulted or the bag as the aim wants it: no ask follows. -/
theorem liftFreed_torn_still {e : Ev} {aim : Bool} (aims : aim = (e.st.llu.lift != .lifting && e.st.llu.aim)) (no : NoLift e.st)
    (still : e.st.faulted .lft = true ∨ BagAgrees e.st aim) :
    NoLift (e.liftFreed .torn).st ∧ (e.liftFreed .torn).st.llu.lift = (if e.st.bagHolds then .lifted else .lowered) ∧
    (e.liftFreed .torn).st.llu.aim = aim := by
  obtain ⟨lift, aim'⟩ := liftTorn_llu e
  rw [liftAfter_torn] at lift
  rw [← aims] at aim'
  have bag := liftTorn_pressure e
  have quiet : e.liftTorn.liftDecide .auto = (e.liftTorn, none) := by
    refine liftDecide_quiet (still.imp liftTorn_faulted fun agrees => .inr ?_)
    rw [aim']
    refine liftTable_agrees ?_ ?_
    · rw [lift, bagHolds_congr bag]
    · unfold BagAgrees
      rwa [bagHolds_congr bag, bagEmpty_congr bag]
  rw [liftFreed_torn, quiet]
  exact ⟨noLift_liftTorn no, lift, aim'⟩

end Sys2Proof.Machine
end

section
/-! SUPPORT. CANCEL (O37): its checks, and the state that the teardown of its selection leaves. -/

set_option Elab.async false

namespace Sys2Proof.Machine

/-! ### The checks (R71) -/

theorem allowed_no {x : CancelScope} {m : Master}
    (no : (m = .brake ∧ x ≠ .own ∧ x ≠ .ofClass (.transfer .height)) ∨ (m = .panel ∧ x ≠ .own)) : x.allowed m = false := by
  unfold CancelScope.allowed
  split
  · rcases no with ⟨other, -⟩ | ⟨other, -⟩ <;> cases other
  · rcases no with ⟨-, other, -⟩ | ⟨other, -⟩
    · exact absurd rfl other
    · cases other
  · rcases no with ⟨-, -, other⟩ | ⟨other, -⟩
    · exact absurd rfl other
    · cases other
  · rcases no with ⟨other, -⟩ | ⟨-, other⟩
    · cases other
    · exact absurd rfl other
  · rfl

theorem allowed_yes {x : CancelScope} {m : Master} (yes : m = .cab ∨ x = .own ∨ (m = .brake ∧ x = .ofClass (.transfer .height))) :
    x.allowed m = true := by
  rcases yes with rfl | rfl | ⟨rfl, rfl⟩
  · rfl
  · cases m <;> rfl
  · rfl

/-- The teardown of a selection, with its points tested and its owning loops told (R72). -/
def Ev.cancelled (rs : List LiveRec) (e : Ev) : Ev :=
  let r := Ev.cancelRecords rs e
  (if r.2.isEmpty then r.1 else r.1.testPoints).ownersTold r.2

section checks
variable {m : Master} {scope cls node : Byte} {e : Ev}

theorem cancel_badFormat (bad : CancelScope.ofBytes scope cls = none ∨ cancelNode node = none) :
    e.cancel m scope cls node = (e, .refused .badFormat) := by
  unfold Ev.cancel
  split
  · next x n spelled named =>
    rcases bad with none | none
    · cases spelled.symm.trans none
    · cases named.symm.trans none
  · rfl

variable {x : CancelScope} {n : Option Managed} (spelled : CancelScope.ofBytes scope cls = some x) (named : cancelNode node = some n)
include spelled named

theorem cancel_notPermitted (no : x.allowed m = false) : e.cancel m scope cls node = (e, .refused .notPermitted) := by
  unfold Ev.cancel
  rw [spelled, named]
  exact if_neg (by rw [no]; exact Bool.false_ne_true)

theorem cancel_taken (yes : x.allowed m = true) : e.cancel m scope cls node =
    (e.cancelled (e.st.dqm.live.filter (x.selects m n)),
      .accepted false false none [byteOf (e.st.dqm.live.filter (x.selects m n)).length]) := by
  unfold Ev.cancel
  rw [spelled, named]
  exact if_pos yes

end checks

/-! ### The state that a teardown leaves -/

theorem ownersTold_glc (ds : List Desc) (e : Ev) : (e.ownersTold ds).st.glc = e.st.glc := by
  induction ds generalizing e with
  | nil => rfl
  | cons d ds ih => exact (ih _).trans (ownerFreed_glc d .torn e)

theorem ownersTold_plain {ds : List Desc} (plain : ∀ d ∈ ds, d.cls ≠ .lift) (e : Ev) : e.ownersTold ds = e := by
  induction ds generalizing e with
  | nil => rfl
  | cons d ds ih =>
    unfold Ev.ownersTold
    rw [ownerFreed_plain (plain d List.mem_cons_self)]
    exact ih (fun x mem => plain x (List.mem_cons_of_mem _ mem)) e

/-- The records once the points that stay are tested, where a transfer was freed (R72). -/
def Dqm.tested (q : Dqm) (freed : Bool) : Dqm :=
  if freed then { q with live := (retireWalk false false q.live).1, free := q.free ++ (retireWalk false false q.live).2 } else q

theorem tested_eq (ds : List Desc) (e : Ev) : (if ds.isEmpty then e else e.testPoints).st = { e.st with dqm := e.st.dqm.tested (!ds.isEmpty) } := by
  cases ds with
  | nil => rfl
  | cons d ds => exact testPoints_st e

theorem tested_transfers (s : State) (freed : Bool) : State.transfers { s with dqm := s.dqm.tested freed } = s.transfers := by
  cases freed with
  | false => rfl
  | true => exact retireWalk_transfers _ _ _

theorem cancelled_glc (rs : List LiveRec) (e : Ev) : (e.cancelled rs).st.glc = (Ev.cancelRecords rs e).1.st.glc := by
  unfold Ev.cancelled
  dsimp only
  rw [ownersTold_glc, tested_eq]

theorem cancelled_plain {rs : List LiveRec} {e : Ev} (plain : ∀ d ∈ (Ev.cancelRecords rs e).2, d.cls ≠ .lift) :
    (e.cancelled rs).st = { (Ev.cancelRecords rs e).1.st with
      dqm := (Ev.cancelRecords rs e).1.st.dqm.tested (!(Ev.cancelRecords rs e).2.isEmpty) } := by
  unfold Ev.cancelled
  dsimp only
  rw [ownersTold_plain plain, tested_eq]

/-! ### The galleries after a teardown -/

section galleries
variable {s t : State} {rs : List LiveRec} (w : Whole none s) (torn : TornDown rs s t)

/-- A teardown empties no gallery but that of a selected descriptor in SETTLING. -/
theorem foldl_touch_idle (closeT : Timer) {g : Gallery} (others : ∀ d, LiveRec.transfer d ∈ rs → d.state = .settling → d.kind.gallery ≠ g) (x : GalleryRec) :
    (rs.foldl (LiveRec.touch closeT g) x).flight.isNone = x.flight.isNone := by
  induction rs generalizing x with
  | nil => rfl
  | cons r rs ih =>
    rw [List.foldl_cons, ih fun d mem => others d (List.mem_cons_of_mem _ mem)]
    cases r with
    | point p => rfl
    | transfer d =>
      by_cases here : d.kind.gallery = g
      · by_cases air : d.state.airMoves = true
        · rw [touch_moving closeT x air here]
          exact Option.isNone_map
        · rw [touch_resting closeT x (Bool.eq_false_iff.2 air) fun settling => others d List.mem_cons_self settling here]
      · rw [touch_other closeT x here]

include torn in
theorem TornDown.idle {g : Gallery} (others : ∀ d, LiveRec.transfer d ∈ rs → d.state = .settling → d.kind.gallery ≠ g) : t.idle g = s.idle g := by
  unfold State.idle
  rw [torn.gallery]
  exact foldl_touch_idle _ others _

variable (sub : ∀ r ∈ rs, r ∈ s.dqm.live) (once : (rs.map LiveRec.id).Nodup)
include w torn sub once

/-- A selected descriptor in SETTLING leaves its gallery IDLE with its timers stopped. -/
theorem TornDown.idled {d : Desc} (mem : LiveRec.transfer d ∈ rs) (settling : d.state = .settling) :
    t.glc.galleries.get d.kind.gallery = (s.glc.galleries.get d.kind.gallery).idled := by
  rw [torn.gallery, foldl_touch_one w sub once _ mem (.inr settling)]
  exact touch_settling _ _ settling rfl

/-- A selected descriptor in OPENING or FLOWING has its step cut. -/
theorem TornDown.cut {d : Desc} (mem : LiveRec.transfer d ∈ rs) (air : d.state.airMoves = true) :
    ((t.glc.galleries.get d.kind.gallery).flight.bind Flight.ending) = some .cut ∧
    (t.glc.galleries.get d.kind.gallery).closeT = some ⟨s.now, 40⟩ ∧ t.glc.valves.anyOpen d.kind.gallery = false ∧ t.idle d.kind.gallery = false := by
  have flies : d.flies := .inl air
  obtain ⟨f, flight, -⟩ := w.carried d (State.mem_transfers.2 (sub _ mem)) flies.flight nofun
  have gallery : t.glc.galleries.get d.kind.gallery = (s.glc.galleries.get d.kind.gallery).cut (s.timer closeTime) := by
    rw [torn.gallery, foldl_touch_one w sub once _ mem flies]
    exact touch_moving _ _ air rfl
  unfold State.idle
  rw [gallery]
  unfold GalleryRec.cut
  rw [flight]
  exact ⟨rfl, rfl, torn.shut _ _ mem (shuts_iff.2 ⟨rfl, air⟩), rfl⟩

end galleries

theorem fate_some {rs : List LiveRec} {l l' : LiveRec} (left : fate rs l = some l') :
    (l ∉ rs ∧ l' = l) ∨ (l ∈ rs ∧ l.leaves = false ∧ l' = l.on Desc.tornDown) := by
  unfold fate at left
  by_cases mem : l ∈ rs
  · rw [if_pos mem] at left
    cases leaves : l.leaves with
    | true =>
      rw [if_pos leaves] at left
      cases left
    | false =>
      rw [if_neg (by rw [leaves]; exact Bool.false_ne_true)] at left
      exact .inr ⟨mem, rfl, (Option.some.inj left).symm⟩
  · rw [if_neg mem] at left
    exact .inl ⟨mem, (Option.some.inj left).symm⟩

/-- A transfer that a teardown leaves live was not selected, or is torn in its place. -/
theorem TornDown.survives {s t : State} {rs : List LiveRec} (torn : TornDown rs s t) {d : Desc} (mem : d ∈ t.transfers) :
    (d ∈ s.transfers ∧ LiveRec.transfer d ∉ rs) ∨
    ∃ x ∈ s.transfers, LiveRec.transfer x ∈ rs ∧ (LiveRec.transfer x).leaves = false ∧ d = x.tornDown := by
  rw [State.mem_transfers, torn.live] at mem
  obtain ⟨l, inLive, left⟩ := List.mem_filterMap.1 mem
  rcases fate_some left with ⟨other, rfl⟩ | ⟨one, stays, same⟩
  · exact .inl ⟨State.mem_transfers.2 inLive, other⟩
  · cases l with
    | point p => cases stays
    | transfer x => exact .inr ⟨x, State.mem_transfers.2 inLive, one, stays, LiveRec.transfer.inj same⟩

/-- With every queued transfer that stays at a gallery that a step keeps, a teardown leaves nothing to grant. -/
theorem TornDown.noGrant {s t : State} {rs : List LiveRec} (torn : TornDown rs s t)
    (calm : ∀ d ∈ s.transfers, d.state = .queued → LiveRec.transfer d ∉ rs →
      s.idle d.kind.gallery = false ∧ ∀ x, LiveRec.transfer x ∈ rs → x.state = .settling → x.kind.gallery ≠ d.kind.gallery) : NoGrant t := by
  intro d mem queued
  rcases torn.survives mem with ⟨live, other⟩ | ⟨x, -, -, -, rfl⟩
  · obtain ⟨busy, apart⟩ := calm d live queued other
    exact (torn.idle apart).trans busy
  · cases queued

/-! ### One LIFT transfer freed -/

/-- A LIFT descriptor off the live list was the only one (R59). -/
theorem noLift_without {s : State} (w : Whole none s) {d : Desc} (mem : d ∈ s.transfers) (lift : d.cls = .lift) {t : State}
    (left : ∀ x ∈ t.transfers, x ∈ s.transfers ∧ x ≠ d) : NoLift t := by
  intro x inLeft cls
  obtain ⟨live, other⟩ := left x inLeft
  have names : x.nodes = [.lft] := by
    have names := (w.shaped x live).names
    rwa [cls] at names
  have names' : d.nodes = [.lft] := by
    have names := (w.shaped d mem).names
    rwa [lift] at names
  have symm : Std.Symm fun a b : Desc => ∀ m ∈ a.nodes, m ∉ b.nodes := ⟨fun a b apart m inB inA => apart m inA inB⟩
  have apart := List.Pairwise.forall w.nodes live mem other .lft
  rw [names, names'] at apart
  exact apart (List.mem_singleton_self _) (List.mem_singleton_self _)

theorem resetMonitors_llu (ms : List Managed) (s : State) : (s.resetMonitors ms).llu = s.llu := by
  induction ms generalizing s with
  | nil => rfl
  | cons m ms ih =>
    refine (ih _).trans ?_
    unfold State.resetMonitorOf
    split <;> rfl

theorem finishStep_lift (g : Gallery) (e : Ev) : (e.finishStep g).st.llu.lift = e.st.llu.lift ∧ (e.finishStep g).st.llu.aim = e.st.llu.aim := by
  unfold Ev.finishStep
  rw [Ev.trigger_st, Ev.on_st]
  dsimp only
  split
  · exact ⟨rfl, rfl⟩
  · next d _ =>
    have llu := resetMonitors_llu d.nodes (e.st.modGallery g GalleryRec.idled)
    split
    · exact ⟨(congrArg Llu.lift llu :), (congrArg Llu.aim llu :)⟩
    · exact ⟨(congrArg Llu.lift llu :), (congrArg Llu.aim llu :)⟩

theorem tearDown_lift {d : Desc} (whole : d.torn = none) (leaves : (LiveRec.transfer d).leaves = true) (e : Ev) :
    (e.tearDown .cancel d).1.st.llu.lift = e.st.llu.lift ∧ (e.tearDown .cancel d).1.st.llu.aim = e.st.llu.aim := by
  have torn : e.tearDown .cancel d = (e.endReports d .torn).takeDown .cancel d := if_neg (by rw [whole]; exact Bool.false_ne_true)
  have reported : (e.endReports d .torn).st = e.st := Ev.endReports_st _ _ _
  rw [torn]
  unfold Ev.takeDown
  rcases leaves_iff.1 leaves with state | state
  · rw [state]
    dsimp only
    rw [dropTransfer_st, reported]
    exact ⟨rfl, rfl⟩
  · have finished := finishStep_lift d.kind.gallery (e.endReports d .torn)
    rw [reported] at finished
    rw [state]
    dsimp only
    rw [dropTransfer_st]
    exact finished

theorem noneTorn_single {d : Desc} (whole : d.torn = none) : NoneTorn [.transfer d] := fun x mem => by
  obtain rfl := LiveRec.transfer.inj (List.mem_singleton.1 mem)
  exact whole

/-- A lone transfer that leaves the live list. -/
theorem cancelled_gone {d : Desc} {e : Ev} (flag : (e.tearDown .cancel d).2 = true) :
    e.cancelled [.transfer d] = ((e.tearDown .cancel d).1.testPoints).ownerFreed d .torn := by
  have records : Ev.cancelRecords [.transfer d] e = ((e.tearDown .cancel d).1, if (e.tearDown .cancel d).2 then [d] else []) := rfl
  unfold Ev.cancelled
  rw [records, flag]
  rfl

/-- A lone LIFT descriptor that leaves sets lift state and aim where no ask follows it (R124, R127, R128). -/
theorem cancelled_lift {d : Desc} {e : Ev} (w : Whole none e.st) (mem : d ∈ e.st.transfers) (whole : d.torn = none) (lift : d.cls = .lift)
    (leaves : (LiveRec.transfer d).leaves = true) {aim : Bool} (aims : aim = (e.st.llu.lift != .lifting && e.st.llu.aim))
    (still : e.st.faulted .lft = true ∨ BagAgrees e.st aim) :
    NoLift (e.cancelled [.transfer d]).st ∧ (e.cancelled [.transfer d]).st.llu.lift = (if e.st.bagHolds then .lifted else .lowered) ∧
    (e.cancelled [.transfer d]).st.llu.aim = aim := by
  obtain ⟨torn, flag⟩ := torn_transfer w mem whole
  obtain ⟨keeps, keepsAim⟩ := tearDown_lift whole leaves e
  have fixed := Ev.tearDown_fixed .cancel d e
  have faults := (grows_tearDown false .cancel d e).faults rfl .lft
  have told : e.cancelled [.transfer d] = ((e.tearDown .cancel d).1.testPoints).liftFreed .torn := by
    rw [cancelled_gone (flag.trans leaves)]
    unfold Ev.ownerFreed
    rw [lift]
  have bag : (e.tearDown .cancel d).1.testPoints.st.pressure .lft = e.st.pressure .lft := by
    rw [testPoints_st]
    exact congrArg (fun m : Msu => State.pressure { e.st with msu := m } .lft) (congrArg Fixed.msu fixed)
  have none : NoLift (e.tearDown .cancel d).1.testPoints.st := by
    refine noLift_without w mem lift fun x inLeft => ?_
    rw [testPoints_transfers] at inLeft
    rcases torn.survives inLeft with ⟨live, other⟩ | ⟨y, -, one, stays, -⟩
    · exact ⟨live, fun same => other (same ▸ List.mem_singleton_self _)⟩
    · rw [List.mem_singleton.1 one, leaves] at stays
      cases stays
  rw [told, ← bagHolds_congr bag]
  refine liftFreed_torn_still ?_ none (still.imp (fun faulted => ?_) fun agrees => ?_)
  · rw [testPoints_st]
    dsimp only
    rw [keeps, keepsAim]
    exact aims
  · rw [testPoints_st]
    exact faults faulted
  · unfold BagAgrees
    rwa [bagHolds_congr bag, bagEmpty_congr bag]

end Sys2Proof.Machine
end

section
/-! SUPPORT. CANCEL (O37): the obligation. -/

set_option Elab.async false

namespace Sys2Proof.Machine

theorem selects_whole {x : CancelScope} {m : Master} {n : Option Managed} {d : Desc} (selected : x.selects m n (.transfer d) = true) : d.torn = none := by
  unfold CancelScope.selects at selected
  exact Option.isNone_iff_eq_none.1 (Bool.and_eq_true_iff.1 selected).2

theorem noneTorn_selection (x : CancelScope) (m : Master) (n : Option Managed) (l : List LiveRec) : NoneTorn (l.filter (x.selects m n)) :=
  fun _ mem => selects_whole (List.mem_filter.1 mem).2

/-- A lone queued transfer, in any pool. -/
theorem cancelled_queued {d : Desc} {e : Ev} (whole : d.torn = none) (queued : d.state = .queued) (plain : d.cls ≠ .lift) :
    (e.cancelled [.transfer d]).st = { e.st with dqm := e.st.dqm.freed d.id } := by
  have down : e.tearDown .cancel d = ((e.endReports d .torn).dropTransfer d .torn, true) := by
    refine (if_neg (by rw [whole]; exact Bool.false_ne_true)).trans ?_
    dsimp only
    unfold Ev.takeDown
    rw [queued]
    rfl
  rw [cancelled_gone (by rw [down]), ownerFreed_plain plain, down]
  refine (unlinkTransfer_st d .torn (e.endReports d .torn)).trans ?_
  rw [Ev.endReports_st]

/-- The live records that a selection leaves, each that stays torn in its place. -/
theorem stay_eq (sel : LiveRec → Bool) (l : List LiveRec) {f : LiveRec → LiveRec} (unselected : ∀ r, sel r = false → f r = r)
    (torn : ∀ d, sel (.transfer d) = true → f (.transfer d) = .transfer d.tornDown) :
    (l.filter fun r => !(sel r && r.leaves)).map f = l.filterMap (fate (l.filter sel)) := by
  rw [← List.filterMap_eq_map, List.filterMap_filter]
  refine List.filterMap_congr fun r mem => ?_
  cases selected : sel r with
  | false =>
    refine (congrArg some (unselected r selected)).trans (if_neg fun inSel => ?_).symm
    rw [(List.mem_filter.1 inSel).2] at selected
    cases selected
  | true =>
    refine Eq.trans ?_ (if_pos (List.mem_filter.2 ⟨mem, selected⟩)).symm
    cases r with
    | point p => rfl
    | transfer d =>
      rw [Bool.true_and]
      cases (LiveRec.transfer d).leaves with
      | true => rfl
      | false => exact congrArg some (torn d selected)

theorem any_desc (l : List LiveRec) : (l.any fun r => r.desc.isSome) = !(l.filterMap LiveRec.desc).isEmpty := by
  induction l with
  | nil => rfl
  | cons r l ih =>
    cases r with
    | transfer d => rfl
    | point p => exact ih

/-- The event of an accepted CANCEL. -/
theorem cancel_handled (s : State) {h : Hdr} {scope cls node : Byte} {x : CancelScope} {n : Option Managed}
    (spelled : CancelScope.ofBytes scope cls = some x) (named : cancelNode node = some n) (yes : x.allowed h.sender = true) :
    Ev.cancel h.sender scope cls node (Ev.of (s.heard h (.cancel h scope cls node))) =
    ((Ev.of (s.heard h (.cancel h scope cls node))).cancelled (s.dqm.live.filter (x.selects h.sender n)),
      .accepted false false none [byteOf (s.dqm.live.filter (x.selects h.sender n)).length]) := by
  have taken := cancel_taken (e := Ev.of (s.heard h (.cancel h scope cls node))) spelled named yes
  rw [Ev.of_st, heard_dqm] at taken
  exact taken

section taken
variable {s : State} {h : Hdr} (scope cls node : Byte) (p : Passes s h codeCancel) {x : CancelScope} {n : Option Managed}
  (spelled : CancelScope.ofBytes scope cls = some x) (named : cancelNode node = some n) (yes : x.allowed h.sender = true)
include p spelled named yes

/-- What an accepted CANCEL leaves: its frame, its answer, and the state of its teardown once the scans are taken. -/
theorem cancel_frame {r : State} (heard : r = s.heard h (.cancel h scope cls node)) {e : Ev}
    (tears : e = (Ev.of r).cancelled (s.dqm.live.filter (x.selects h.sender n))) {t : State}
    (ends : t = Machine.request (.cancel h scope cls node) h codeCancel (Ev.cancel h.sender scope cls node) noFrame s) :
    t.fixed = { r.fixed with lku := t.lku, freeCount := t.freeCount } ∧ SameLink r t ∧
    Answers r t h codeCancel (.accepted false false none [BitVec.ofNat 8 (s.dqm.live.filter (x.selects h.sender n)).length]) ∧
    Queued (e.scans scanBound).st t ∧ (NoGrant e.st → Queued e.st t) ∧ Quiet none none r e.st ∧ e.st.fixed = r.fixed := by
  have handled := cancel_handled s spelled named yes
  have fixed := p.fixed (.cancel h scope cls node) (Ev.cancel h.sender scope cls node) noFrame
  have link := p.link (.cancel h scope cls node) (Ev.cancel h.sender scope cls node) noFrame
  have same := Ev.cancel_fixed h.sender scope cls node (Ev.of r)
  have answers := p.answers (.cancel h scope cls node) (Ev.cancel h.sender scope cls node) rfl
    (by rw [← heard]; exact congrArg Fixed.lku same) (by rw [← heard]; exact congrArg Fixed.freeCount same)
  have quiet := quiet_cancel h.sender scope cls node (Ev.of r)
  have request := p.request (.cancel h scope cls node) (Ev.cancel h.sender scope cls node) rfl
  have calm := p.queued_noGrant (.cancel h scope cls node) (Ev.cancel h.sender scope cls node) rfl
  rw [← heard] at handled fixed link answers request calm
  rw [← tears] at handled
  rw [← ends] at fixed link answers request calm
  rw [handled] at fixed link answers request calm same quiet
  refine ⟨fixed.trans ?_, ?_, answers, ?_, calm, quiet, same⟩
  · rw [same]
    rfl
  · unfold SameLink at link ⊢
    rwa [show e.st.lku = r.lku from congrArg Fixed.lku same] at link
  · rw [request]
    exact queued_enqueueAll _ _

end taken

/-! ### The selection of a CANCEL in a safe state -/

section selection
variable {s : State} (safe : Safe s) {sel : LiveRec → Bool} (fresh : NoneTorn (s.dqm.live.filter sel))

theorem selection_live {l : LiveRec} (mem : l ∈ s.dqm.live.filter sel) : l ∈ s.dqm.live := (List.mem_filter.1 mem).1

theorem mem_selection {d : Desc} (mem : d ∈ s.transfers) (selected : sel (.transfer d) = true) : LiveRec.transfer d ∈ s.dqm.live.filter sel :=
  List.mem_filter.2 ⟨State.mem_transfers.1 mem, selected⟩

include safe in
theorem selection_once : ((s.dqm.live.filter sel).map LiveRec.id).Nodup :=
  ((List.filter_sublist (l := s.dqm.live)).map LiveRec.id).nodup safe.pool.nodup_live

/-- The condition under which a CANCEL leaves nothing to grant: every queued transfer that stays has a gallery that another step keeps. -/
def Settled (s : State) (sel : LiveRec → Bool) : Prop :=
  ∀ d ∈ s.transfers, d.state = .queued → sel (.transfer d) = false →
    s.idle d.kind.gallery = false ∧ ∀ e ∈ s.transfers, e.state = .settling → sel (.transfer e) = true → e.kind.gallery ≠ d.kind.gallery

include safe fresh

theorem selection_torn : TornDown (s.dqm.live.filter sel) s (Ev.cancelRecords (s.dqm.live.filter sel) (Ev.of s)).1.st ∧
    (Ev.cancelRecords (s.dqm.live.filter sel) (Ev.of s)).2 = ((s.dqm.live.filter sel).filter LiveRec.leaves).filterMap LiveRec.desc :=
  cancelRecords_law (e := Ev.of s) safe.whole (fun _ mem => selection_live mem) (selection_once safe) fresh

/-- With no LIFT descriptor gone the owning loops have nothing to do. -/
theorem selection_plain (plain : ∀ d ∈ ((s.dqm.live.filter sel).filter LiveRec.leaves).filterMap LiveRec.desc, d.cls ≠ .lift) :
    ((Ev.of s).cancelled (s.dqm.live.filter sel)).st = { (Ev.cancelRecords (s.dqm.live.filter sel) (Ev.of s)).1.st with
      dqm := (Ev.cancelRecords (s.dqm.live.filter sel) (Ev.of s)).1.st.dqm.tested
        (((s.dqm.live.filter sel).filter LiveRec.leaves).any fun l => l.desc.isSome) } := by
  have freed := (selection_torn safe fresh).2
  rw [cancelled_plain (by rwa [freed]), freed, any_desc]

theorem selection_noGrant (settled : Settled s sel)
    (plain : ∀ d ∈ ((s.dqm.live.filter sel).filter LiveRec.leaves).filterMap LiveRec.desc, d.cls ≠ .lift) :
    NoGrant ((Ev.of s).cancelled (s.dqm.live.filter sel)).st := by
  have torn := (selection_torn safe fresh).1.noGrant fun d mem queued other => by
    obtain ⟨busy, apart⟩ := settled d mem queued (Bool.eq_false_iff.2 fun selected => other (mem_selection mem selected))
    exact ⟨busy, fun y mem' settling => apart y (State.mem_transfers.2 (selection_live mem')) settling (List.mem_filter.1 mem').2⟩
  rw [selection_plain safe fresh plain]
  refine torn.same ?_ rfl
  exact tested_transfers _ _

end selection

theorem Queued.llu {s t : State} (q : Queued s t) : t.llu = s.llu := by
  rw [show t = _ from q]

theorem tested_split (q : Dqm) (freed : Bool) :
    (q.tested freed).live = (if freed = true then retireWalk false false q.live else (q.live, [])).1 ∧
    (q.tested freed).free = q.free ++ (if freed = true then retireWalk false false q.live else (q.live, [])).2 := by
  cases freed with
  | false => exact ⟨rfl, (List.append_nil _).symm⟩
  | true => exact ⟨rfl, rfl⟩

/-- A lone transfer whose step is cut: it stays live, torn in its place, and nothing else of the records changes. -/
theorem torn_single {s t : State} {d : Desc} (mem : d ∈ s.transfers) (air : d.state.airMoves = true) (torn : TornDown [.transfer d] s t) :
    d.tornDown ∈ t.transfers ∧ t.dqm.free = s.dqm.free ∧ t.liveIds = s.liveIds := by
  have stays := leaves_moving air
  have own : fate [.transfer d] (.transfer d) = some (.transfer d.tornDown) :=
    (fate_single_same _).trans (if_neg (by rw [stays]; exact Bool.false_ne_true))
  refine ⟨?_, ?_, ?_⟩
  · rw [State.mem_transfers, torn.live]
    exact List.mem_filterMap.2 ⟨_, State.mem_transfers.1 mem, own⟩
  · rw [torn.free, List.filter_cons_of_neg (by rw [stays]; exact Bool.false_ne_true)]
    exact List.append_nil _
  · unfold State.liveIds
    rw [torn.live, List.map_filterMap, ← List.filterMap_eq_map]
    refine List.filterMap_congr fun l _ => ?_
    by_cases same : l = .transfer d
    · rw [same, own]
      rfl
    · rw [fate_single_other same]
      rfl

/-! ### What an accepted CANCEL leaves -/

section ends
variable {s : State} {sel : LiveRec → Bool} (fresh : NoneTorn (s.dqm.live.filter sel)) {t : State}
  (calm : NoGrant ((Ev.of s).cancelled (s.dqm.live.filter sel)).st → Queued ((Ev.of s).cancelled (s.dqm.live.filter sel)).st t)

include fresh calm in
/-- A lone queued transfer leaves the live list for the tail of the free list. -/
theorem lone_queued {d : Desc} (one : s.dqm.live.filter sel = [.transfer d]) (plain : d.cls ≠ .lift) (queued : d.state = .queued)
    (none : NoGrant s) : t.dqm = s.dqm.freed d.id := by
  have gone := cancelled_queued (e := Ev.of s) (fresh d (one ▸ List.mem_singleton_self _)) queued plain
  rw [one, gone] at calm
  have still : NoGrant { s with dqm := s.dqm.freed d.id } := fun y mem waits => by
    rw [freed_transfers] at mem
    exact none y (List.mem_filter.1 mem).1 waits
  exact (calm still).galleries.1

variable (safe : Safe s)
include fresh safe

section calm
include calm

/-- With no LIFT descriptor gone the event ends with the teardown and the test of the points. -/
theorem selection_ends (settled : Settled s sel)
    (plain : ∀ d ∈ ((s.dqm.live.filter sel).filter LiveRec.leaves).filterMap LiveRec.desc, d.cls ≠ .lift) :
    t.dqm = (Ev.cancelRecords (s.dqm.live.filter sel) (Ev.of s)).1.st.dqm.tested
      (((s.dqm.live.filter sel).filter LiveRec.leaves).any fun l => l.desc.isSome) ∧
    t.glc = (Ev.cancelRecords (s.dqm.live.filter sel) (Ev.of s)).1.st.glc := by
  have st := selection_plain safe fresh plain
  obtain ⟨dqm, glc, -⟩ := (calm (selection_noGrant safe fresh settled plain)).galleries
  exact ⟨dqm.trans (congrArg State.dqm st :), glc.trans (congrArg State.glc st :)⟩

/-- A lone transfer whose step is cut stays live, torn in its place. -/
theorem lone_cut {d : Desc} (one : s.dqm.live.filter sel = [.transfer d]) (air : d.state.airMoves = true) (none : NoGrant s) :
    d.tornDown ∈ t.transfers ∧ t.dqm.free = s.dqm.free ∧ t.liveIds = s.liveIds ∧
    ((t.glc.galleries.get d.kind.gallery).flight.bind Flight.ending) = some .cut ∧
    (t.glc.galleries.get d.kind.gallery).closeT = some ⟨s.now, 40⟩ := by
  have mem : d ∈ s.transfers := State.mem_transfers.2 (selection_live (one ▸ List.mem_singleton_self _))
  have stays : (s.dqm.live.filter sel).filter LiveRec.leaves = [] := by
    rw [one]
    exact List.filter_cons_of_neg (by rw [leaves_moving air]; exact Bool.false_ne_true)
  have settled : Settled s sel := fun y mem waits _ => by
    refine ⟨none y mem waits, fun z mem' settling selected => ?_⟩
    have inOne := mem_selection mem' selected
    rw [one] at inOne
    obtain rfl := LiveRec.transfer.inj (List.mem_singleton.1 inOne)
    rw [settling] at air
    cases air
  have torn := (selection_torn safe fresh).1
  obtain ⟨dqm, glc⟩ := selection_ends fresh calm safe settled (by rw [stays]; exact fun y mem => nomatch mem)
  rw [stays] at dqm
  rw [one] at torn dqm glc
  obtain ⟨down, free, ids⟩ := torn_single mem air torn
  obtain ⟨ending, closes, -⟩ := torn.cut safe.whole (fun l mem' => by rwa [List.mem_singleton.1 mem', ← State.mem_transfers])
    (List.nodup_singleton _) (List.mem_singleton_self _) air
  rw [glc]
  exact ⟨(congrArg (fun q => d.tornDown ∈ State.transfers { s with dqm := q }) dqm).mpr down, (congrArg Dqm.free dqm).trans free,
    (congrArg (fun q => State.liveIds { s with dqm := q }) dqm).trans ids, ending, closes⟩

/-- With no LIFT descriptor gone: the live list, the free list and the galleries of the descriptors in SETTLING. -/
theorem selection_gone (settled : Settled s sel)
    (plain : ∀ d ∈ ((s.dqm.live.filter sel).filter LiveRec.leaves).filterMap LiveRec.desc, d.cls ≠ .lift) {k : List LiveRec × List Nat}
    (points : k = if (((s.dqm.live.filter sel).filter LiveRec.leaves).any fun l => l.desc.isSome) = true then
      retireWalk false false (s.dqm.live.filterMap (fate (s.dqm.live.filter sel))) else (s.dqm.live.filterMap (fate (s.dqm.live.filter sel)), [])) :
    t.dqm.live = k.1 ∧ t.dqm.free = s.dqm.free ++ ((s.dqm.live.filter sel).filter LiveRec.leaves).map LiveRec.id ++ k.2 ∧
    ∀ d ∈ s.transfers, sel (.transfer d) = true → d.state = .settling →
      t.glc.galleries.get d.kind.gallery = (s.glc.galleries.get d.kind.gallery).idled := by
  have torn := (selection_torn safe fresh).1
  obtain ⟨dqm, glc⟩ := selection_ends fresh calm safe settled plain
  obtain ⟨kept, free⟩ := tested_split (Ev.cancelRecords (s.dqm.live.filter sel) (Ev.of s)).1.st.dqm
    (((s.dqm.live.filter sel).filter LiveRec.leaves).any fun l => l.desc.isSome)
  rw [torn.live, ← points] at kept free
  rw [torn.free] at free
  rw [dqm, glc]
  exact ⟨kept, free, fun d mem selected settling =>
    torn.idled safe.whole (fun l mem' => selection_live mem') (selection_once safe) (mem_selection mem selected) settling⟩

end calm

variable (scans : Queued (((Ev.of s).cancelled (s.dqm.live.filter sel)).scans scanBound).st t)
  (quiet : Quiet none none s ((Ev.of s).cancelled (s.dqm.live.filter sel)).st) (same : ((Ev.of s).cancelled (s.dqm.live.filter sel)).st.fixed = s.fixed)
include scans quiet same

omit fresh in
/-- What the scans behind a CANCEL leave. -/
theorem selection_scanned : Scanned ((Ev.of s).cancelled (s.dqm.live.filter sel)).st t := by
  obtain ⟨whole, air⟩ := quiet safe.whole
  have scanned := scanned_scans scanBound whole (safe.restrained.of_air same air)
  obtain ⟨-, glc, -⟩ := scans.galleries
  have llu := scans.llu
  refine ⟨fun g busy => ?_, fun g busy => ?_, fun no y mem => scanned.none no y (scans.transfers ▸ mem), fun no => ?_⟩
  · rw [glc]
    exact scanned.gallery g busy
  · rw [glc]
    exact scanned.outputs g busy
  · rw [llu]
    exact scanned.lift no

/-- A selected step in OPENING or FLOWING is cut in any case. -/
theorem selection_cut {d : Desc} (mem : d ∈ s.transfers) (selected : sel (.transfer d) = true) (air : d.state.airMoves = true) :
    ((t.glc.galleries.get d.kind.gallery).flight.bind Flight.ending) = some .cut ∧
    (t.glc.galleries.get d.kind.gallery).closeT = some ⟨s.now, 40⟩ ∧ t.glc.valves.anyOpen d.kind.gallery = false := by
  obtain ⟨ending, closes, shut, busy⟩ := (selection_torn safe fresh).1.cut safe.whole (fun l mem' => selection_live mem') (selection_once safe)
    (mem_selection mem selected) air
  have glc := cancelled_glc (s.dqm.live.filter sel) (Ev.of s)
  have scanned := selection_scanned safe scans quiet same
  have busy' : ((Ev.of s).cancelled (s.dqm.live.filter sel)).st.idle d.kind.gallery = false := by
    unfold State.idle
    rw [glc]
    exact busy
  rw [scanned.gallery _ busy', scanned.outputs _ busy', glc]
  exact ⟨ending, closes, shut⟩

/-- A lone LIFT descriptor that leaves, where no ask follows it. -/
theorem lone_lift {d : Desc} (one : s.dqm.live.filter sel = [.transfer d]) (lift : d.cls = .lift) (state : d.state = .queued ∨ d.state = .settling)
    {aim : Bool} (aims : aim = (s.llu.lift != .lifting && s.llu.aim)) (still : s.faulted .lft = true ∨ BagAgrees s aim) :
    NoLift t ∧ t.llu.aim = aim ∧ t.llu.lift = if s.bagHolds then .lifted else .lowered := by
  have mem : d ∈ s.transfers := State.mem_transfers.2 (selection_live (one ▸ List.mem_singleton_self _))
  have whole : d.torn = none := fresh d (one ▸ List.mem_singleton_self _)
  obtain ⟨none, lifts, aimed⟩ := cancelled_lift (e := Ev.of s) safe.whole mem whole lift (leaves_iff.2 state) aims still
  have scanned := selection_scanned safe scans quiet same
  rw [one] at scanned
  obtain ⟨lift', aim'⟩ := scanned.lift none
  exact ⟨scanned.none none, aim'.trans aimed, lift'.trans lifts⟩

end ends

/-- Settles O37: each part is a statement about the state that the receipt of the frame leaves, which has the records, the galleries and the
lift logic of the state before. -/
theorem cancelTearsDown : Obligations.CancelTearsDown := by
  intro s h scope cls node p c r
  have refused (code : Answer) (handled : Ev.cancel h.sender scope cls node (Ev.of r) = (Ev.of r, code)) :
      exec c s = .next (r.answered r h codeCancel code) := congrArg Host.Outcome.next (p.same c (Ev.cancel h.sender scope cls node) rfl handled)
  refine ⟨fun bad => refused _ (cancel_badFormat bad), fun x n spelled named =>
    ⟨fun no => refused _ (cancel_notPermitted spelled named (allowed_no no)), fun yes => ?_⟩⟩
  have allowed := allowed_yes yes
  have handled := cancel_handled s spelled named allowed
  obtain ⟨fixed, link, answers, scans, calm, quiet, same⟩ := cancel_frame scope cls node p spelled named allowed (r := r) rfl rfl rfl
  have fresh := noneTorn_selection x h.sender n r.dqm.live
  have dqm : s.dqm = r.dqm := (heard_dqm s h c).symm
  have glc : s.glc = r.glc := (heard_glc s h c).symm
  have live : s.transfers = r.transfers := (heard_transfers s h c).symm
  have now : s.now = r.now := (heard_now s h c).symm
  have safe_r (safe : Safe s) : Safe r := (good_iff r).1 (good_receive ((good_iff s).2 safe))
  have none_r (none : NoGrant s) : NoGrant r := none.same live.symm (congrArg Glc.galleries glc.symm)
  rw [dqm] at scans calm quiet same
  refine ⟨fun nothing => ?_, fun d one plain => ⟨_, rfl, fixed, link, fun queued none => ?_, fun safe air none => ?_⟩, ?_⟩
  · have empty : s.dqm.live.filter (x.selects h.sender n) = [] := List.filter_eq_nil_iff.2 fun l mem => by rw [nothing l mem]; exact Bool.false_ne_true
    rw [empty] at handled
    exact refused _ handled
  · rw [dqm] at one
    intro k
    have gone := lone_queued fresh calm one plain queued (none_r none)
    rw [gone]
    exact ⟨congrArg (fun q : Dqm => (q.freed d.id).live) dqm.symm, congrArg (fun q : Dqm => (q.freed d.id).free) dqm.symm⟩
  · rw [dqm] at one
    obtain ⟨down, free, ids, ending, closes⟩ := lone_cut fresh calm (safe_r safe) one air (none_r none)
    rw [dqm, now, show s.liveIds = r.liveIds from congrArg (fun q => State.liveIds { s with dqm := q }) dqm]
    exact ⟨down, free, ids, ending, closes⟩
  · intro sel leaves gone stay k
    refine ⟨_, rfl, fixed, link, answers, fun safe settled => ⟨fun plain => ?_, fun d mem selected air => ?_, fun d one lift state => ?_⟩⟩
    · have leaves_eq : leaves = LiveRec.leaves := funext fun l => by cases l <;> rfl
      have gone_eq : gone = (r.dqm.live.filter sel).filter LiveRec.leaves := by
        show (s.dqm.live.filter sel).filter leaves = _
        rw [leaves_eq, dqm]
      have stay_eq' : stay = r.dqm.live.filterMap (fate (r.dqm.live.filter sel)) := by
        show (s.dqm.live.filter fun l => !(sel l && leaves l)).map _ = _
        rw [leaves_eq, dqm]
        refine stay_eq sel _ (fun l unselected => ?_) fun d selected => congrArg LiveRec.transfer (if_pos selected)
        cases l with
        | transfer d => exact congrArg LiveRec.transfer (if_neg (by rw [unselected]; exact Bool.false_ne_true))
        | point p => rfl
      have settled_r : Settled r sel := fun y mem waits other => by
        obtain ⟨busy, apart⟩ := settled y (live ▸ mem) waits other
        exact ⟨(heard_idle s h c _).trans busy, fun z mem' => apart z (live ▸ mem')⟩
      rw [gone_eq] at plain
      rw [gone_eq, live, glc, dqm]
      refine selection_gone fresh calm (safe_r safe) settled_r plain ?_
      show (if (gone.any fun l => l.desc.isSome) = true then retireWalk false false stay else (stay, [])) = _
      rw [gone_eq, stay_eq']
    · rw [now]
      exact selection_cut fresh (safe_r safe) scans quiet same (live ▸ mem) selected air
    · intro holds empty aim agrees
      rw [dqm] at one
      have bag : r.pressure .lft = s.pressure .lft := heard_pressure s h c .lft
      have holds_eq : holds = r.bagHolds := (congrArg (fun x => holdsOf x fun g => decide (430 ≤ g)) bag).symm
      have empty_eq : empty = r.bagEmpty := (congrArg (fun x => holdsOf x fun g => decide (g ≤ 20)) bag).symm
      have aims : aim = (r.llu.lift != .lifting && r.llu.aim) := (congrArg (fun x : Llu => x.lift != .lifting && x.aim) (heard_llu s h c)).symm
      rw [holds_eq, empty_eq] at agrees
      obtain ⟨none, aimed, lifts⟩ := lone_lift fresh (safe_r safe) scans quiet same one lift state aims
        (agrees.imp (fun faulted => (heard_faulted s h c .lft).trans faulted) id)
      exact ⟨none, aimed, lifts.trans (if_congr (iff_of_eq (congrArg (· = true) holds_eq.symm)) rfl rfl)⟩

end Sys2Proof.Machine
end
